-- ==== Sys2Proof/Word.lean ====
section
/-! DEFINITION. The word types of the device and their plainest arithmetic: registers are 32 bits (R179), addresses
64 bits (R27), parcels 16 bits (R44), lane sets 96 bits (R179). -/

namespace Sys2Proof

/-- A byte of memory (R4). -/
abbrev Byte := BitVec 8
/-- A parcel of code (R44). -/
abbrev Parcel := BitVec 16
/-- A lane or scalar register (R179). -/
abbrev Word := BitVec 32
/-- A 64-bit pair or address (R27, R60). -/
abbrev DWord := BitVec 64
/-- A set of lanes, a mask or an EXEC (R179). -/
abbrev Lanes := BitVec 96

/-- The number of lanes of a wave (R27). -/

abbrev laneCount : Nat := 96

end Sys2Proof
end

