-- ==== Sys2Proof/Config.lean ====
section
/-! DEFINITION. What the device fixes and the manual leaves open.  Every constant here is opaque: nothing can be
proved of its value.  A value that differs from one use to the next is a function of State.nfree, a counter that
every step advances, and of a key that tells the uses of one step apart. -/

namespace Sys2Proof.Config

/-- A free value of 64 bits for use `key` of the step that began with counter `n` (R2, R31, R32, R102, R120, R272,
R375; assumption 3). -/
opaque freeWord (n key : Nat) : BitVec 64

/-- A free choice for use `key` of the step that began with counter `n` (R31, R51, R315; assumption 3). -/
opaque freeBit (n key : Nat) : Bool

/-- A free number (assumption 3): a duration, a place or an order the manual does not fix. -/
opaque freeNat (n key : Nat) : Nat

/-- The clocks that pass in the step with counter `n`, beyond the one it takes at least (R6, R59, R209; assumption 4). -/
opaque clocks (n : Nat) : Nat

/-- The pattern FUN.F32 function `f` returns for operand pattern `x` where R218 states a bound and no value; it is
used only inside that bound (R218, R219; assumption 5). -/
opaque funValue (f : Nat) (x : Word) : Word

/-- What a transform routine sees of its core (R290, R300): registers as XPC, x0 to x31, f0 to f31, the eight CSR words
and v0 to v31 of eight words each; the bytes of working memory that are not zero; the bytes its input and output
buffers hold. -/
structure RoutineState where
  regs   : List (BitVec 64)
  work   : List (Nat × Byte)
  inbuf  : List Byte
  outbuf : List Byte
  deriving DecidableEq, Repr, Inhabited

/-- A standard routine run to its next stop (R290 to R292; assumption 41): its number, its signed image, its state; then its
state there, of which the registers and the working memory at a call are taken. -/
opaque routineRun (fn : Nat) (image : List Byte) (st : RoutineState) : RoutineState

/-- The instructions an installed routine executes up to its next stop, by its image and its state; where it does not stop
within them it does not stop at all (R290, R291; assumption 41). -/
opaque routineSpan (image : List Byte) (st : RoutineState) : Nat

/-- A byte of a routine's buffers or of its image range beyond what they hold (R290; assumption 41). -/
opaque routineByte (image : List Byte) (st : RoutineState) (a : Nat) : Byte

/-- The transform core makes accesses that are not aligned, and does not take an exception for them (R290; assumption 41). -/
opaque routineMisaligned : Bool

/-- The vector length within the bounds that V leaves, by the length asked for and the greatest (R290; assumption 41). -/
opaque routineVl (avl vlmax : Nat) : Nat

/-- An agnostic element of a vector result is overwritten with ones (R290; assumption 41). -/
opaque routineOnes (st : RoutineState) (i : Nat) : Bool

/-- The bytes of working memory a standard routine declares (R300; assumption 41). -/
opaque routineWlen (fn : Nat) : Nat

/-- One byte of a line as it reads under a key other than the one its ciphertext was made under (R488; assumption 42): that
key's eight words and the present key's, none where there is no key, the line, its bytes as they were written, and the
byte's place. -/
opaque rekey (old new : List DWord) (line : Nat) (written : List Byte) (i : Nat) : Byte

/-- The image of a standard routine, which the engine's firmware brings with it (R292, R484; assumption 77). -/
opaque standardImage (number : Nat) : List Byte

/-- Whether a signed image passes the check of R486 (assumption 43), by its address, its size and its bytes. -/
opaque imageGood (kind : Nat) (bytes : List Byte) : Bool

/-- The signed attestation report over a nonce and the measured state (R487; assumption 44). -/
opaque attestReport (nonce : List Byte) (measured : List Byte) : List Byte

/-- The serial and identity words of the package (R477; assumption 45). -/
opaque identityWord (n : Nat) : BitVec 64

/-- Die controller `d` finds step `k` of the start-up sequence good (R484; assumption 46). -/
opaque startupOutcome (n d k : Nat) : Bool

end Sys2Proof.Config
end

