-- ==== Sys2Proof/Syntax.lean ====
section
/-! DEFINITION. The instructions of Fleop and the steps of the device: one constructor for each row of the
opcode table, in the table's order, with the row's own field names.  The first sixteen are the compact
instructions (R55), the next 165 the 32-bit instructions (R53, R65 to R73), the last 82 the steps the device takes
on its own or under an outside party's hand; those have no encoding, and their arguments name what they act on. -/

namespace Sys2Proof

/-- A fragment of the machine by crew, wave index in the crew, and fragment number in the wave (R27, R179). -/
structure FragRef where
  crew : Nat
  wave : Nat
  frag : Nat
  deriving DecidableEq, Repr, Inhabited

/-- Every row of the opcode table.  A field keeps the name and width the row gives it: `d`, `a`, `b` operand codes,
`f`, `c`, `n`, `w`, `t`, `m`, `p` raw fields, `o` displacements and offsets, `i` immediates. -/
inductive Instr where
  | movCompact (d : BitVec 5) (s : BitVec 6) -- R55
  | addI32Compact (d : BitVec 5) (s : BitVec 6) -- R55
  | subI32Compact (d : BitVec 5) (s : BitVec 6) -- R55
  | andCompact (d : BitVec 5) (s : BitVec 6) -- R55
  | orCompact (d : BitVec 5) (s : BitVec 6) -- R55
  | xorCompact (d : BitVec 5) (s : BitVec 6) -- R55
  | shlCompact (d : BitVec 5) (s : BitVec 6) -- R55
  | shrN32Compact (d : BitVec 5) (s : BitVec 6) -- R55
  | addF32Compact (d : BitVec 5) (s : BitVec 6) -- R55
  | subF32Compact (d : BitVec 5) (s : BitVec 6) -- R55
  | mulF32Compact (d : BitVec 5) (s : BitVec 6) -- R55
  | maxF32Compact (d : BitVec 5) (s : BitVec 6) -- R55
  | minF32Compact (d : BitVec 5) (s : BitVec 6) -- R55
  | addF16x2Compact (d : BitVec 5) (s : BitVec 6) -- R55
  | mulF16x2Compact (d : BitVec 5) (s : BitVec 6) -- R55
  | shrI32Compact (d : BitVec 5) (s : BitVec 6) -- R55
  | addI32 (d : BitVec 8) (a : BitVec 8) (b : BitVec 8) -- R210
  | subI32 (d : BitVec 8) (a : BitVec 8) (b : BitVec 8) -- R210
  | mulI32 (d : BitVec 8) (a : BitVec 8) (b : BitVec 8) -- R210
  | mulhiI32 (d : BitVec 8) (a : BitVec 8) (b : BitVec 8) -- R210
  | mulhiN32 (d : BitVec 8) (a : BitVec 8) (b : BitVec 8) -- R210
  | madI32 (d : BitVec 8) (a : BitVec 8) (b : BitVec 8) -- R210
  | minI32 (d : BitVec 8) (a : BitVec 8) (b : BitVec 8) -- R210
  | maxI32 (d : BitVec 8) (a : BitVec 8) (b : BitVec 8) -- R210
  | minN32 (d : BitVec 8) (a : BitVec 8) (b : BitVec 8) -- R210
  | maxN32 (d : BitVec 8) (a : BitVec 8) (b : BitVec 8) -- R210
  | and (d : BitVec 8) (a : BitVec 8) (b : BitVec 8) -- R210
  | or (d : BitVec 8) (a : BitVec 8) (b : BitVec 8) -- R210
  | xor (d : BitVec 8) (a : BitVec 8) (b : BitVec 8) -- R210
  | andn (d : BitVec 8) (a : BitVec 8) (b : BitVec 8) -- R210
  | shl (d : BitVec 8) (a : BitVec 8) (b : BitVec 8) -- R210
  | shrN32 (d : BitVec 8) (a : BitVec 8) (b : BitVec 8) -- R210
  | shrI32 (d : BitVec 8) (a : BitVec 8) (b : BitVec 8) -- R210
  | rot (d : BitVec 8) (a : BitVec 8) (b : BitVec 8) -- R210
  | bfx (d : BitVec 8) (a : BitVec 8) (b : BitVec 8) -- R212
  | bfi (d : BitVec 8) (a : BitVec 8) (b : BitVec 8) -- R212
  | bitu (d : BitVec 8) (a : BitVec 8) (f : BitVec 8) -- R213
  | addI64 (d : BitVec 8) (a : BitVec 8) (b : BitVec 8) -- R214
  | subI64 (d : BitVec 8) (a : BitVec 8) (b : BitVec 8) -- R214
  | madN64N32 (d : BitVec 8) (a : BitVec 8) (b : BitVec 8) -- R214
  | addF32 (d : BitVec 8) (a : BitVec 8) (b : BitVec 8) -- R215
  | subF32 (d : BitVec 8) (a : BitVec 8) (b : BitVec 8) -- R215
  | mulF32 (d : BitVec 8) (a : BitVec 8) (b : BitVec 8) -- R215
  | fmaF32 (d : BitVec 8) (a : BitVec 8) (b : BitVec 8) -- R215
  | minF32 (d : BitVec 8) (a : BitVec 8) (b : BitVec 8) -- R216
  | maxF32 (d : BitVec 8) (a : BitVec 8) (b : BitVec 8) -- R216
  | addF16x2 (d : BitVec 8) (a : BitVec 8) (b : BitVec 8) -- R217
  | mulF16x2 (d : BitVec 8) (a : BitVec 8) (b : BitVec 8) -- R217
  | fmaF16x2 (d : BitVec 8) (a : BitVec 8) (b : BitVec 8) -- R217
  | addBf16x2 (d : BitVec 8) (a : BitVec 8) (b : BitVec 8) -- R217
  | fmaBf16x2 (d : BitVec 8) (a : BitVec 8) (b : BitVec 8) -- R217
  | maxF16x2 (d : BitVec 8) (a : BitVec 8) (b : BitVec 8) -- R217
  | funF32 (d : BitVec 8) (a : BitVec 8) (f : BitVec 8) -- R218
  | mov64 (d : BitVec 8) (a : BitVec 8) -- R214
  | cvt (d : BitVec 8) (a : BitVec 8) (c : BitVec 8) -- R220
  | cvtp (d : BitVec 8) (a : BitVec 8) (b : BitVec 8) -- R221
  | qnt (d : BitVec 8) (a : BitVec 8) (b : BitVec 8) -- R222
  | dqn (d : BitVec 8) (a : BitVec 8) (b : BitVec 8) -- R223
  | sel (d : BitVec 8) (a : BitVec 8) (b : BitVec 8) -- R224
  | shfl (d : BitVec 8) (a : BitVec 8) (b : BitVec 8) -- R225
  | rdlane (d : BitVec 8) (a : BitVec 8) (b : BitVec 8) -- R226
  | wrlane (d : BitVec 8) (a : BitVec 8) (b : BitVec 8) -- R227
  | wred (d : BitVec 8) (a : BitVec 8) (f : BitVec 8) -- R228
  | wscan (d : BitVec 8) (a : BitVec 8) (f : BitVec 8) -- R229
  | cmpI32 (m : BitVec 3) (c : BitVec 5) (a : BitVec 8) (b : BitVec 8) -- R234
  | cmpN32 (m : BitVec 3) (c : BitVec 5) (a : BitVec 8) (b : BitVec 8) -- R234
  | cmpF32 (m : BitVec 3) (c : BitVec 5) (a : BitVec 8) (b : BitVec 8) -- R234
  | test (m : BitVec 3) (c : BitVec 5) (a : BitVec 8) (b : BitVec 8) -- R235
  | mop (m : BitVec 3) (c : BitVec 5) (a : BitVec 8) (b : BitVec 8) -- R236
  | mmov (m : BitVec 3) (c : BitVec 5) (a : BitVec 8) (b : BitVec 8) -- R237
  | movi (d : BitVec 8) (i : BitVec 16) -- R66
  | movhi (d : BitVec 8) (i : BitVec 16) -- R66
  | addi (d : BitVec 8) (i : BitVec 16) -- R66
  | andi (d : BitVec 8) (i : BitVec 16) -- R66
  | ori (d : BitVec 8) (i : BitVec 16) -- R66
  | bra (o : BitVec 20) -- R239
  | brany (m : BitVec 3) (o : BitVec 20) -- R239
  | brall (m : BitVec 3) (o : BitVec 20) -- R239
  | brs (m : BitVec 3) (o : BitVec 20) -- R185
  | joinat (m : BitVec 3) (o : BitVec 20) -- R184
  | call (o : BitVec 20) -- R240
  | ctlJmpr (a : BitVec 8) -- R242
  | ctlReord (n : BitVec 4) (a : BitVec 8) (b : BitVec 8) -- R244
  | ctlSleep (a : BitVec 8) -- R243
  | dot4I8 (d : BitVec 8) (a : BitVec 8) (b : BitVec 8) -- R230
  | dot4N8 (d : BitVec 8) (a : BitVec 8) (b : BitVec 8) -- R230
  | dot8I4 (d : BitVec 8) (a : BitVec 8) (b : BitVec 8) -- R230
  | dot4F8 (d : BitVec 8) (a : BitVec 8) (b : BitVec 8) -- R231
  | dot8F4 (d : BitVec 8) (a : BitVec 8) (b : BitVec 8) -- R231
  | dot2F16 (d : BitVec 8) (a : BitVec 8) (b : BitVec 8) -- R231
  | dot2Bf16 (d : BitVec 8) (a : BitVec 8) (b : BitVec 8) -- R231
  | sclx (d : BitVec 8) (a : BitVec 8) -- R232
  | ld (d : BitVec 8) (a : BitVec 8) (z : BitVec 3) (o : BitVec 5) -- R254
  | st (d : BitVec 8) (a : BitVec 8) (z : BitVec 3) (o : BitVec 5) -- R254
  | lds (d : BitVec 8) (a : BitVec 8) (z : BitVec 3) (o : BitVec 5) -- R254
  | sts (d : BitVec 8) (a : BitVec 8) (z : BitVec 3) (o : BitVec 5) -- R254
  | ldc (d : BitVec 8) (a : BitVec 8) (z : BitVec 3) (o : BitVec 5) -- R263
  | stp (d : BitVec 8) (a : BitVec 8) (z : BitVec 3) (o : BitVec 5) -- R263
  | atom (d : BitVec 8) (a : BitVec 8) (p : BitVec 4) (w : BitVec 1) -- R258
  | red (d : BitVec 8) (a : BitVec 8) (p : BitVec 4) (w : BitVec 1) -- R258
  | atoms (d : BitVec 8) (a : BitVec 8) (p : BitVec 4) (w : BitVec 1) -- R258
  | ldu (d : BitVec 8) (a : BitVec 8) (z : BitVec 3) (o : BitVec 5) -- R254
  | stu (d : BitVec 8) (a : BitVec 8) (z : BitVec 3) (o : BitVec 5) -- R254
  | ldrec (d : BitVec 8) (a : BitVec 8) (w : BitVec 3) (n : BitVec 3) -- R255
  | barInit (a : BitVec 8) (b : BitVec 8) -- R266
  | barArrive (a : BitVec 8) (b : BitVec 8) -- R267
  | barExpect (a : BitVec 8) (b : BitVec 8) -- R267
  | barArrivex (a : BitVec 8) (b : BitVec 8) -- R267
  | barWait (a : BitVec 8) (b : BitVec 8) -- R267
  | barWaitt (m : BitVec 3) (a : BitVec 8) (b : BitVec 8) -- R267
  | barTest (m : BitVec 3) (a : BitVec 8) (b : BitVec 8) -- R267
  | barEnroll (a : BitVec 8) -- R269
  | barDrop (a : BitVec 8) -- R269
  | barInval (a : BitVec 8) -- R270
  | pbarArrive (a : BitVec 8) (b : BitVec 8) -- R176
  | pbarWait (a : BitVec 8) (b : BitVec 8) -- R176
  | pbarTest (m : BitVec 3) (a : BitVec 8) (b : BitVec 8) -- R176
  | fenceOpc -- R271
  | fenceIfetch -- R51
  | fenceAsync -- R271
  | cpyLin (f : BitVec 4) (a : BitVec 8) -- R279
  | cpyTile (f : BitVec 4) (a : BitVec 8) -- R279
  | cpyGather (f : BitVec 4) (a : BitVec 8) -- R280
  | cpyScatter (f : BitVec 4) (a : BitVec 8) -- R280
  | cpyXform (f : BitVec 4) (a : BitVec 8) -- R281
  | cpyFill (f : BitVec 4) (a : BitVec 8) -- R279
  | cbatchSeal (a : BitVec 8) -- R289
  | cbatchWait (a : BitVec 8) -- R289
  | cbatchTest (m : BitVec 3) (a : BitVec 8) -- R289
  | mmao (t : BitVec 4) (w : BitVec 4) (a : BitVec 8) (b : BitVec 8) -- R368
  | mmat (t : BitVec 4) (w : BitVec 4) (a : BitVec 8) -- R373
  | wbufLoad (w : BitVec 4) (a : BitVec 8) -- R360
  | wbufMcast (w : BitVec 4) (a : BitVec 8) -- R360
  | wbufInval (w : BitVec 4) -- R361
  | wbufQuery (w : BitVec 4) (a : BitVec 8) -- R361
  | tsmovToreg (n : BitVec 4) (a : BitVec 8) (b : BitVec 8) -- R376
  | tsmovFromreg (n : BitVec 4) (a : BitVec 8) (b : BitVec 8) -- R376
  | tsmovTomem (a : BitVec 8) (b : BitVec 8) -- R377
  | tsmovFrommem (a : BitVec 8) (b : BitVec 8) -- R377
  | tdefView (f : BitVec 4) (a : BitVec 8) (b : BitVec 8) -- R387
  | tdefConst (a : BitVec 8) (b : BitVec 8) -- R388
  | top (d : BitVec 6) (a : BitVec 6) (b : BitVec 6) (p : BitVec 6) -- R390
  | tmap (d : BitVec 6) (a : BitVec 6) (b : BitVec 6) (p : BitVec 6) -- R393
  | tdemStore (f : BitVec 4) (a : BitVec 8) (b : BitVec 8) -- R397
  | tdemForce (a : BitVec 8) (b : BitVec 8) -- R397
  | tdemDrop (a : BitVec 8) -- R399
  | tdemQuery (a : BitVec 8) (b : BitVec 8) -- R399
  | tdemDiscard (b : BitVec 8) -- R400
  | chBind (a : BitVec 8) (b : BitVec 8) -- R423
  | chBond (a : BitVec 8) (b : BitVec 8) -- R424
  | chMode (a : BitVec 8) (b : BitVec 8) -- R424
  | chStep (a : BitVec 8) -- R424
  | chRun (a : BitVec 8) (b : BitVec 8) -- R424
  | chEnv (a : BitVec 8) -- R425
  | chQuery (a : BitVec 8) -- R427
  | chReset -- R424
  | traceClosest (c : BitVec 1) (a : BitVec 8) (b : BitVec 8) -- R445
  | traceAny (c : BitVec 1) (a : BitVec 8) (b : BitVec 8) -- R445
  | traceQuery (a : BitVec 8) -- R444
  | smpBil (a : BitVec 8) (b : BitVec 8) -- R348
  | smpPt (a : BitVec 8) (b : BitVec 8) -- R348
  | smpGather4 (c : BitVec 2) (a : BitVec 8) (b : BitVec 8) -- R348
  | jobLaunch (a : BitVec 8) (b : BitVec 8) -- R157
  | jobNext (a : BitVec 8) -- R159
  | jobTrig -- R160
  | jobDepwait (a : BitVec 8) -- R161
  | jobExit -- R163
  | jobExits (a : BitVec 8) -- R164
  | jobYield -- R169
  | jobYieldonBar (a : BitVec 8) (b : BitVec 8) -- R170
  | jobYieldonFlg (a : BitVec 8) (b : BitVec 8) -- R170
  | sysTrap (a : BitVec 8) -- R337
  | sysEret -- R201
  | sysCtlrd (a : BitVec 8) (b : BitVec 8) -- R338
  | sysCtlwr (a : BitVec 8) (b : BitVec 8) -- R338
  | sysParkrd (a : BitVec 8) (b : BitVec 8) -- R339
  | sysParkwr (a : BitVec 8) (b : BitVec 8) -- R339
  | sysWatch (i : BitVec 2) (a : BitVec 8) -- R339
  | sysTlbinv (a : BitVec 8) -- R339
  | sysHalt -- R339
  | lit (l : BitVec 24) -- R63
  | clauseBegin -- R49
  | fragmentAged (f : FragRef) -- R197
  | sleepExpire (f : FragRef) -- R243
  | waittTimeout (f : FragRef) -- R267
  | loadComplete (c o : Nat) -- R30
  | storeComplete (c o : Nat) -- R30
  | fullEmptyRetest (c o : Nat) -- R264
  | hubFlush (i : Nat) -- R134
  | qlaunch (q : Nat) (v : BitVec 64) -- R153
  | cardRead (die i : Nat) -- R149
  | crewPlace (c : Nat) -- R154
  | placementHold (c : Nat) -- R154
  | preqExpire (c : Nat) -- R171
  | crewSave (c : Nat) -- R172
  | crewResume (c cx cy : Nat) -- R172
  | waveRetire (c w : Nat) -- R34
  | doneWrite (j : Nat) -- R41
  | copyUnit (c o u : Nat) -- R279
  | copyComplete (c o : Nat) -- R283
  | getin (c o : Nat) -- R291
  | putout (c o : Nat) -- R291
  | endRoutine (c o : Nat) -- R291
  | args (c o : Nat) -- R291
  | routineFault (c o : Nat) -- R291
  | wbufComplete (c o : Nat) -- R360
  | mmaoComplete (c o : Nat) -- R368
  | mmatComplete (c o : Nat) -- R373
  | tsmovComplete (c o : Nat) -- R376
  | materialise (c n : Nat) -- R405
  | demandBlock (c o b : Nat) -- R398
  | tdemComplete (c o : Nat) -- R397
  | chainStep (c : Nat) -- R418
  | chainComplete (c o : Nat) -- R426
  | traceComplete (c o : Nat) -- R454
  | smpComplete (c o : Nat) -- R350
  | salamanderBatch (die : Nat) -- R323
  | pageArrive (die slot page : Nat) -- R324
  | atsCompletion (i : Nat) (v : BitVec 64) -- R315
  | atsInvalidation (pasid : Nat) (addr : BitVec 64) (size tag : Nat) -- R318
  | invalidationComplete (i : Nat) -- R313
  | prgResponse (group code : Nat) -- R320
  | wrapClear (tag : Nat) -- R311
  | cxctl (slot : Nat) (v : BitVec 64) -- R309
  | cxfresp (slot : Nat) (v : BitVec 64) -- R327
  | cxinvc (slot : Nat) (v : BitVec 64) -- R313
  | cxpre (slot : Nat) (v : BitVec 64) -- R308
  | cxfq (slot : Nat) (v : BitVec 64) -- R492
  | cxcwn (slot : Nat) (v : BitVec 64) -- R310
  | cxcwdRead (slot : Nat) -- R310
  | cxcwdWrite (slot : Nat) (v : BitVec 64) -- R310
  | hostWrite (pa : Nat) (bytes : List (BitVec 8)) -- R138
  | snoop (line kind : Nat) -- R463
  | backInvalidation (line kind : Nat) -- R464
  | counterDecay -- R461
  | frameFill (frame : Nat) -- R462
  | frameDrain (die frame : Nat) -- R469
  | l2Evict (line : Nat) -- R470
  | hbmUncorrectable (line : Nat) -- R472
  | poolFail (port base size : Nat) -- R473
  | hostLinkDown -- R474
  | hostLinkUp -- R481
  | pcclr (v : BitVec 64) -- R475
  | pcclrDone -- R475
  | pcmark (die : Nat) (v : BitVec 64) -- R471
  | keyctl (v : BitVec 64) -- R488
  | keyInstall -- R488
  | pooldec (i : Nat) (v : BitVec 64) -- R483
  | rtload (v : BitVec 64) -- R486
  | fwload (v : BitVec 64) -- R486
  | imageLoadDone -- R486
  | attest (v : BitVec 64) -- R487
  | fsclr (v : BitVec 64) -- R485
  | reset -- R484
  | startupStep (die : Nat) (ok : Bool) -- R484
  | startupTimeout (die : Nat) -- R484
  | portFail (port : Nat) -- R482
  | pwrlim (v : BitVec 64) -- R489
  | powerCheck (draw : Nat) -- R489
  | registerWrite (addr : Nat) (v : BitVec 64) -- R477
  | cxfqhead (slot : Nat) (v : BitVec 64) -- R326
  | tracePark (c o : Nat) -- R449
  | smpPark (c o : Nat) -- R350
  deriving DecidableEq, Repr

end Sys2Proof
end

