-- ==== Sys2Proof/Decode.lean ====
section
/-! DEFINITION. From parcels to instructions and back (R43, R52 to R55, R63, R65, R68 to R73): the decoder, total on
any parcels and rejecting by name, the clause header, the structure of a clause (R45 to R47), and after them the
encoder. -/

namespace Sys2Proof

/-- Why a word is no instruction; the wave engine answers each with the illegal-instruction fault (R67). -/
inductive DecodeError where
  | reservedMajor   -- MAJ is one of R65's reserved codes
  | reservedSub     -- SUB is not in R71's table
  | reservedBits    -- a bit that R54, R70 or the instruction's description requires to be zero is set
  | truncated       -- the second parcel of a 32-bit word is missing
  deriving DecidableEq, Repr

/-- R55: a 16-bit compact instruction. -/
def decode16 (w : Parcel) : Instr :=
  match (w.extractLsb' 1 4).toNat with
  | 0 => .movCompact (w.extractLsb' 5 5) (w.extractLsb' 10 6)
  | 1 => .addI32Compact (w.extractLsb' 5 5) (w.extractLsb' 10 6)
  | 2 => .subI32Compact (w.extractLsb' 5 5) (w.extractLsb' 10 6)
  | 3 => .andCompact (w.extractLsb' 5 5) (w.extractLsb' 10 6)
  | 4 => .orCompact (w.extractLsb' 5 5) (w.extractLsb' 10 6)
  | 5 => .xorCompact (w.extractLsb' 5 5) (w.extractLsb' 10 6)
  | 6 => .shlCompact (w.extractLsb' 5 5) (w.extractLsb' 10 6)
  | 7 => .shrN32Compact (w.extractLsb' 5 5) (w.extractLsb' 10 6)
  | 8 => .addF32Compact (w.extractLsb' 5 5) (w.extractLsb' 10 6)
  | 9 => .subF32Compact (w.extractLsb' 5 5) (w.extractLsb' 10 6)
  | 10 => .mulF32Compact (w.extractLsb' 5 5) (w.extractLsb' 10 6)
  | 11 => .maxF32Compact (w.extractLsb' 5 5) (w.extractLsb' 10 6)
  | 12 => .minF32Compact (w.extractLsb' 5 5) (w.extractLsb' 10 6)
  | 13 => .addF16x2Compact (w.extractLsb' 5 5) (w.extractLsb' 10 6)
  | 14 => .mulF16x2Compact (w.extractLsb' 5 5) (w.extractLsb' 10 6)
  | _ => .shrI32Compact (w.extractLsb' 5 5) (w.extractLsb' 10 6)

/-- R65 to R73: a 32-bit instruction with low byte `lo` (MAJ and the length bit) and SUB bits `sub`. -/
def decodeMaj (lo sub : Nat) (w : BitVec 32) : Except DecodeError Instr :=
  match lo with
  | 0x01 => .ok (.addI32 (w.extractLsb' 8 8) (w.extractLsb' 16 8) (w.extractLsb' 24 8))
  | 0x03 => .ok (.subI32 (w.extractLsb' 8 8) (w.extractLsb' 16 8) (w.extractLsb' 24 8))
  | 0x05 => .ok (.mulI32 (w.extractLsb' 8 8) (w.extractLsb' 16 8) (w.extractLsb' 24 8))
  | 0x07 => .ok (.mulhiI32 (w.extractLsb' 8 8) (w.extractLsb' 16 8) (w.extractLsb' 24 8))
  | 0x09 => .ok (.mulhiN32 (w.extractLsb' 8 8) (w.extractLsb' 16 8) (w.extractLsb' 24 8))
  | 0x0B => .ok (.madI32 (w.extractLsb' 8 8) (w.extractLsb' 16 8) (w.extractLsb' 24 8))
  | 0x0D => .ok (.minI32 (w.extractLsb' 8 8) (w.extractLsb' 16 8) (w.extractLsb' 24 8))
  | 0x0F => .ok (.maxI32 (w.extractLsb' 8 8) (w.extractLsb' 16 8) (w.extractLsb' 24 8))
  | 0x11 => .ok (.minN32 (w.extractLsb' 8 8) (w.extractLsb' 16 8) (w.extractLsb' 24 8))
  | 0x13 => .ok (.maxN32 (w.extractLsb' 8 8) (w.extractLsb' 16 8) (w.extractLsb' 24 8))
  | 0x15 => .ok (.and (w.extractLsb' 8 8) (w.extractLsb' 16 8) (w.extractLsb' 24 8))
  | 0x17 => .ok (.or (w.extractLsb' 8 8) (w.extractLsb' 16 8) (w.extractLsb' 24 8))
  | 0x19 => .ok (.xor (w.extractLsb' 8 8) (w.extractLsb' 16 8) (w.extractLsb' 24 8))
  | 0x1B => .ok (.andn (w.extractLsb' 8 8) (w.extractLsb' 16 8) (w.extractLsb' 24 8))
  | 0x1D => .ok (.shl (w.extractLsb' 8 8) (w.extractLsb' 16 8) (w.extractLsb' 24 8))
  | 0x1F => .ok (.shrN32 (w.extractLsb' 8 8) (w.extractLsb' 16 8) (w.extractLsb' 24 8))
  | 0x21 => .ok (.shrI32 (w.extractLsb' 8 8) (w.extractLsb' 16 8) (w.extractLsb' 24 8))
  | 0x23 => .ok (.rot (w.extractLsb' 8 8) (w.extractLsb' 16 8) (w.extractLsb' 24 8))
  | 0x25 => .ok (.bfx (w.extractLsb' 8 8) (w.extractLsb' 16 8) (w.extractLsb' 24 8))
  | 0x27 => .ok (.bfi (w.extractLsb' 8 8) (w.extractLsb' 16 8) (w.extractLsb' 24 8))
  | 0x29 => .ok (.bitu (w.extractLsb' 8 8) (w.extractLsb' 16 8) (w.extractLsb' 24 8))
  | 0x2B => .ok (.addI64 (w.extractLsb' 8 8) (w.extractLsb' 16 8) (w.extractLsb' 24 8))
  | 0x2D => .ok (.subI64 (w.extractLsb' 8 8) (w.extractLsb' 16 8) (w.extractLsb' 24 8))
  | 0x2F => .ok (.madN64N32 (w.extractLsb' 8 8) (w.extractLsb' 16 8) (w.extractLsb' 24 8))
  | 0x31 => .ok (.addF32 (w.extractLsb' 8 8) (w.extractLsb' 16 8) (w.extractLsb' 24 8))
  | 0x33 => .ok (.subF32 (w.extractLsb' 8 8) (w.extractLsb' 16 8) (w.extractLsb' 24 8))
  | 0x35 => .ok (.mulF32 (w.extractLsb' 8 8) (w.extractLsb' 16 8) (w.extractLsb' 24 8))
  | 0x37 => .ok (.fmaF32 (w.extractLsb' 8 8) (w.extractLsb' 16 8) (w.extractLsb' 24 8))
  | 0x39 => .ok (.minF32 (w.extractLsb' 8 8) (w.extractLsb' 16 8) (w.extractLsb' 24 8))
  | 0x3B => .ok (.maxF32 (w.extractLsb' 8 8) (w.extractLsb' 16 8) (w.extractLsb' 24 8))
  | 0x3D => .ok (.addF16x2 (w.extractLsb' 8 8) (w.extractLsb' 16 8) (w.extractLsb' 24 8))
  | 0x3F => .ok (.mulF16x2 (w.extractLsb' 8 8) (w.extractLsb' 16 8) (w.extractLsb' 24 8))
  | 0x41 => .ok (.fmaF16x2 (w.extractLsb' 8 8) (w.extractLsb' 16 8) (w.extractLsb' 24 8))
  | 0x43 => .ok (.addBf16x2 (w.extractLsb' 8 8) (w.extractLsb' 16 8) (w.extractLsb' 24 8))
  | 0x45 => .ok (.fmaBf16x2 (w.extractLsb' 8 8) (w.extractLsb' 16 8) (w.extractLsb' 24 8))
  | 0x47 => .ok (.maxF16x2 (w.extractLsb' 8 8) (w.extractLsb' 16 8) (w.extractLsb' 24 8))
  | 0x49 => .ok (.funF32 (w.extractLsb' 8 8) (w.extractLsb' 16 8) (w.extractLsb' 24 8))
  | 0x4B => if w.extractLsb' 24 8 = 0#8 then .ok (.mov64 (w.extractLsb' 8 8) (w.extractLsb' 16 8)) else .error .reservedBits
  | 0x4D => .ok (.cvt (w.extractLsb' 8 8) (w.extractLsb' 16 8) (w.extractLsb' 24 8))
  | 0x4F => .ok (.cvtp (w.extractLsb' 8 8) (w.extractLsb' 16 8) (w.extractLsb' 24 8))
  | 0x51 => .ok (.qnt (w.extractLsb' 8 8) (w.extractLsb' 16 8) (w.extractLsb' 24 8))
  | 0x53 => .ok (.dqn (w.extractLsb' 8 8) (w.extractLsb' 16 8) (w.extractLsb' 24 8))
  | 0x55 => .ok (.sel (w.extractLsb' 8 8) (w.extractLsb' 16 8) (w.extractLsb' 24 8))
  | 0x57 => .ok (.shfl (w.extractLsb' 8 8) (w.extractLsb' 16 8) (w.extractLsb' 24 8))
  | 0x59 => .ok (.rdlane (w.extractLsb' 8 8) (w.extractLsb' 16 8) (w.extractLsb' 24 8))
  | 0x5B => .ok (.wrlane (w.extractLsb' 8 8) (w.extractLsb' 16 8) (w.extractLsb' 24 8))
  | 0x5D => .ok (.wred (w.extractLsb' 8 8) (w.extractLsb' 16 8) (w.extractLsb' 24 8))
  | 0x5F => .ok (.wscan (w.extractLsb' 8 8) (w.extractLsb' 16 8) (w.extractLsb' 24 8))
  | 0x61 => .ok (.cmpI32 (w.extractLsb' 8 3) (w.extractLsb' 11 5) (w.extractLsb' 16 8) (w.extractLsb' 24 8))
  | 0x63 => .ok (.cmpN32 (w.extractLsb' 8 3) (w.extractLsb' 11 5) (w.extractLsb' 16 8) (w.extractLsb' 24 8))
  | 0x65 => .ok (.cmpF32 (w.extractLsb' 8 3) (w.extractLsb' 11 5) (w.extractLsb' 16 8) (w.extractLsb' 24 8))
  | 0x67 => .ok (.test (w.extractLsb' 8 3) (w.extractLsb' 11 5) (w.extractLsb' 16 8) (w.extractLsb' 24 8))
  | 0x69 => .ok (.mop (w.extractLsb' 8 3) (w.extractLsb' 11 5) (w.extractLsb' 16 8) (w.extractLsb' 24 8))
  | 0x6B => .ok (.mmov (w.extractLsb' 8 3) (w.extractLsb' 11 5) (w.extractLsb' 16 8) (w.extractLsb' 24 8))
  | 0x71 => .ok (.movi (w.extractLsb' 8 8) (w.extractLsb' 16 16))
  | 0x73 => .ok (.movhi (w.extractLsb' 8 8) (w.extractLsb' 16 16))
  | 0x75 => .ok (.addi (w.extractLsb' 8 8) (w.extractLsb' 16 16))
  | 0x77 => .ok (.andi (w.extractLsb' 8 8) (w.extractLsb' 16 16))
  | 0x79 => .ok (.ori (w.extractLsb' 8 8) (w.extractLsb' 16 16))
  | 0x81 => if w.extractLsb' 8 4 = 0#4 then .ok (.bra (w.extractLsb' 12 20)) else .error .reservedBits
  | 0x83 => if w.extractLsb' 11 1 = 0#1 then .ok (.brany (w.extractLsb' 8 3) (w.extractLsb' 12 20)) else .error .reservedBits
  | 0x85 => if w.extractLsb' 11 1 = 0#1 then .ok (.brall (w.extractLsb' 8 3) (w.extractLsb' 12 20)) else .error .reservedBits
  | 0x87 => if w.extractLsb' 11 1 = 0#1 then .ok (.brs (w.extractLsb' 8 3) (w.extractLsb' 12 20)) else .error .reservedBits
  | 0x89 => if w.extractLsb' 11 1 = 0#1 then .ok (.joinat (w.extractLsb' 8 3) (w.extractLsb' 12 20)) else .error .reservedBits
  | 0x8B => if w.extractLsb' 8 4 = 0#4 then .ok (.call (w.extractLsb' 12 20)) else .error .reservedBits
  | 0x8D =>
    match sub with
    | 0 => if w.extractLsb' 12 4 = 0#4 ∧ w.extractLsb' 24 8 = 0#8 then .ok (.ctlJmpr (w.extractLsb' 16 8)) else .error .reservedBits
    | 1 => .ok (.ctlReord (w.extractLsb' 12 4) (w.extractLsb' 16 8) (w.extractLsb' 24 8))
    | 2 => if w.extractLsb' 12 4 = 0#4 ∧ w.extractLsb' 24 8 = 0#8 then .ok (.ctlSleep (w.extractLsb' 16 8)) else .error .reservedBits
    | _ => .error .reservedSub
  | 0x91 => .ok (.dot4I8 (w.extractLsb' 8 8) (w.extractLsb' 16 8) (w.extractLsb' 24 8))
  | 0x93 => .ok (.dot4N8 (w.extractLsb' 8 8) (w.extractLsb' 16 8) (w.extractLsb' 24 8))
  | 0x95 => .ok (.dot8I4 (w.extractLsb' 8 8) (w.extractLsb' 16 8) (w.extractLsb' 24 8))
  | 0x97 => .ok (.dot4F8 (w.extractLsb' 8 8) (w.extractLsb' 16 8) (w.extractLsb' 24 8))
  | 0x99 => .ok (.dot8F4 (w.extractLsb' 8 8) (w.extractLsb' 16 8) (w.extractLsb' 24 8))
  | 0x9B => .ok (.dot2F16 (w.extractLsb' 8 8) (w.extractLsb' 16 8) (w.extractLsb' 24 8))
  | 0x9D => .ok (.dot2Bf16 (w.extractLsb' 8 8) (w.extractLsb' 16 8) (w.extractLsb' 24 8))
  | 0x9F => if w.extractLsb' 24 8 = 0#8 then .ok (.sclx (w.extractLsb' 8 8) (w.extractLsb' 16 8)) else .error .reservedBits
  | 0xA1 => .ok (.ld (w.extractLsb' 8 8) (w.extractLsb' 16 8) (w.extractLsb' 24 3) (w.extractLsb' 27 5))
  | 0xA3 => .ok (.st (w.extractLsb' 8 8) (w.extractLsb' 16 8) (w.extractLsb' 24 3) (w.extractLsb' 27 5))
  | 0xA5 => .ok (.lds (w.extractLsb' 8 8) (w.extractLsb' 16 8) (w.extractLsb' 24 3) (w.extractLsb' 27 5))
  | 0xA7 => .ok (.sts (w.extractLsb' 8 8) (w.extractLsb' 16 8) (w.extractLsb' 24 3) (w.extractLsb' 27 5))
  | 0xA9 => .ok (.ldc (w.extractLsb' 8 8) (w.extractLsb' 16 8) (w.extractLsb' 24 3) (w.extractLsb' 27 5))
  | 0xAB => .ok (.stp (w.extractLsb' 8 8) (w.extractLsb' 16 8) (w.extractLsb' 24 3) (w.extractLsb' 27 5))
  | 0xAD => if w.extractLsb' 29 3 = 0#3 then .ok (.atom (w.extractLsb' 8 8) (w.extractLsb' 16 8) (w.extractLsb' 24 4) (w.extractLsb' 28 1)) else .error .reservedBits
  | 0xAF => if w.extractLsb' 29 3 = 0#3 then .ok (.red (w.extractLsb' 8 8) (w.extractLsb' 16 8) (w.extractLsb' 24 4) (w.extractLsb' 28 1)) else .error .reservedBits
  | 0xB1 => if w.extractLsb' 29 3 = 0#3 then .ok (.atoms (w.extractLsb' 8 8) (w.extractLsb' 16 8) (w.extractLsb' 24 4) (w.extractLsb' 28 1)) else .error .reservedBits
  | 0xB3 => .ok (.ldu (w.extractLsb' 8 8) (w.extractLsb' 16 8) (w.extractLsb' 24 3) (w.extractLsb' 27 5))
  | 0xB5 => .ok (.stu (w.extractLsb' 8 8) (w.extractLsb' 16 8) (w.extractLsb' 24 3) (w.extractLsb' 27 5))
  | 0xB7 => if w.extractLsb' 30 2 = 0#2 then .ok (.ldrec (w.extractLsb' 8 8) (w.extractLsb' 16 8) (w.extractLsb' 24 3) (w.extractLsb' 27 3)) else .error .reservedBits
  | 0xB9 =>
    match sub with
    | 0 => if w.extractLsb' 12 4 = 0#4 then .ok (.barInit (w.extractLsb' 16 8) (w.extractLsb' 24 8)) else .error .reservedBits
    | 1 => if w.extractLsb' 12 4 = 0#4 then .ok (.barArrive (w.extractLsb' 16 8) (w.extractLsb' 24 8)) else .error .reservedBits
    | 2 => if w.extractLsb' 12 4 = 0#4 then .ok (.barExpect (w.extractLsb' 16 8) (w.extractLsb' 24 8)) else .error .reservedBits
    | 3 => if w.extractLsb' 12 4 = 0#4 then .ok (.barArrivex (w.extractLsb' 16 8) (w.extractLsb' 24 8)) else .error .reservedBits
    | 4 => if w.extractLsb' 12 4 = 0#4 then .ok (.barWait (w.extractLsb' 16 8) (w.extractLsb' 24 8)) else .error .reservedBits
    | 5 => if w.extractLsb' 15 1 = 0#1 then .ok (.barWaitt (w.extractLsb' 12 3) (w.extractLsb' 16 8) (w.extractLsb' 24 8)) else .error .reservedBits
    | 6 => if w.extractLsb' 15 1 = 0#1 then .ok (.barTest (w.extractLsb' 12 3) (w.extractLsb' 16 8) (w.extractLsb' 24 8)) else .error .reservedBits
    | 7 => if w.extractLsb' 12 4 = 0#4 ∧ w.extractLsb' 24 8 = 0#8 then .ok (.barEnroll (w.extractLsb' 16 8)) else .error .reservedBits
    | 8 => if w.extractLsb' 12 4 = 0#4 ∧ w.extractLsb' 24 8 = 0#8 then .ok (.barDrop (w.extractLsb' 16 8)) else .error .reservedBits
    | 9 => if w.extractLsb' 12 4 = 0#4 ∧ w.extractLsb' 24 8 = 0#8 then .ok (.barInval (w.extractLsb' 16 8)) else .error .reservedBits
    | _ => .error .reservedSub
  | 0xBB =>
    match sub with
    | 0 => if w.extractLsb' 12 4 = 0#4 then .ok (.pbarArrive (w.extractLsb' 16 8) (w.extractLsb' 24 8)) else .error .reservedBits
    | 1 => if w.extractLsb' 12 4 = 0#4 then .ok (.pbarWait (w.extractLsb' 16 8) (w.extractLsb' 24 8)) else .error .reservedBits
    | 2 => if w.extractLsb' 15 1 = 0#1 then .ok (.pbarTest (w.extractLsb' 12 3) (w.extractLsb' 16 8) (w.extractLsb' 24 8)) else .error .reservedBits
    | _ => .error .reservedSub
  | 0xBD =>
    match sub with
    | 0 => if w.extractLsb' 12 4 = 0#4 ∧ w.extractLsb' 16 8 = 0#8 ∧ w.extractLsb' 24 8 = 0#8 then .ok (.fenceOpc) else .error .reservedBits
    | 1 => if w.extractLsb' 12 4 = 0#4 ∧ w.extractLsb' 16 8 = 0#8 ∧ w.extractLsb' 24 8 = 0#8 then .ok (.fenceIfetch) else .error .reservedBits
    | 2 => if w.extractLsb' 12 4 = 0#4 ∧ w.extractLsb' 16 8 = 0#8 ∧ w.extractLsb' 24 8 = 0#8 then .ok (.fenceAsync) else .error .reservedBits
    | _ => .error .reservedSub
  | 0xC1 =>
    match sub with
    | 0 => if w.extractLsb' 24 8 = 0#8 then .ok (.cpyLin (w.extractLsb' 12 4) (w.extractLsb' 16 8)) else .error .reservedBits
    | 1 => if w.extractLsb' 24 8 = 0#8 then .ok (.cpyTile (w.extractLsb' 12 4) (w.extractLsb' 16 8)) else .error .reservedBits
    | 2 => if w.extractLsb' 24 8 = 0#8 then .ok (.cpyGather (w.extractLsb' 12 4) (w.extractLsb' 16 8)) else .error .reservedBits
    | 3 => if w.extractLsb' 24 8 = 0#8 then .ok (.cpyScatter (w.extractLsb' 12 4) (w.extractLsb' 16 8)) else .error .reservedBits
    | 4 => if w.extractLsb' 24 8 = 0#8 then .ok (.cpyXform (w.extractLsb' 12 4) (w.extractLsb' 16 8)) else .error .reservedBits
    | 5 => if w.extractLsb' 24 8 = 0#8 then .ok (.cpyFill (w.extractLsb' 12 4) (w.extractLsb' 16 8)) else .error .reservedBits
    | _ => .error .reservedSub
  | 0xC3 =>
    match sub with
    | 0 => if w.extractLsb' 12 4 = 0#4 ∧ w.extractLsb' 24 8 = 0#8 then .ok (.cbatchSeal (w.extractLsb' 16 8)) else .error .reservedBits
    | 1 => if w.extractLsb' 12 4 = 0#4 ∧ w.extractLsb' 24 8 = 0#8 then .ok (.cbatchWait (w.extractLsb' 16 8)) else .error .reservedBits
    | 2 => if w.extractLsb' 15 1 = 0#1 ∧ w.extractLsb' 24 8 = 0#8 then .ok (.cbatchTest (w.extractLsb' 12 3) (w.extractLsb' 16 8)) else .error .reservedBits
    | _ => .error .reservedSub
  | 0xC9 => .ok (.mmao (w.extractLsb' 8 4) (w.extractLsb' 12 4) (w.extractLsb' 16 8) (w.extractLsb' 24 8))
  | 0xCB => if w.extractLsb' 24 8 = 0#8 then .ok (.mmat (w.extractLsb' 8 4) (w.extractLsb' 12 4) (w.extractLsb' 16 8)) else .error .reservedBits
  | 0xCD =>
    match sub with
    | 0 => if w.extractLsb' 24 8 = 0#8 then .ok (.wbufLoad (w.extractLsb' 12 4) (w.extractLsb' 16 8)) else .error .reservedBits
    | 1 => if w.extractLsb' 24 8 = 0#8 then .ok (.wbufMcast (w.extractLsb' 12 4) (w.extractLsb' 16 8)) else .error .reservedBits
    | 2 => if w.extractLsb' 16 8 = 0#8 ∧ w.extractLsb' 24 8 = 0#8 then .ok (.wbufInval (w.extractLsb' 12 4)) else .error .reservedBits
    | 3 => if w.extractLsb' 24 8 = 0#8 then .ok (.wbufQuery (w.extractLsb' 12 4) (w.extractLsb' 16 8)) else .error .reservedBits
    | _ => .error .reservedSub
  | 0xCF =>
    match sub with
    | 0 => .ok (.tsmovToreg (w.extractLsb' 12 4) (w.extractLsb' 16 8) (w.extractLsb' 24 8))
    | 1 => .ok (.tsmovFromreg (w.extractLsb' 12 4) (w.extractLsb' 16 8) (w.extractLsb' 24 8))
    | 2 => if w.extractLsb' 12 4 = 0#4 then .ok (.tsmovTomem (w.extractLsb' 16 8) (w.extractLsb' 24 8)) else .error .reservedBits
    | 3 => if w.extractLsb' 12 4 = 0#4 then .ok (.tsmovFrommem (w.extractLsb' 16 8) (w.extractLsb' 24 8)) else .error .reservedBits
    | _ => .error .reservedSub
  | 0xD1 =>
    match sub with
    | 0 => .ok (.tdefView (w.extractLsb' 12 4) (w.extractLsb' 16 8) (w.extractLsb' 24 8))
    | 1 => if w.extractLsb' 12 4 = 0#4 then .ok (.tdefConst (w.extractLsb' 16 8) (w.extractLsb' 24 8)) else .error .reservedBits
    | _ => .error .reservedSub
  | 0xD3 => .ok (.top (w.extractLsb' 8 6) (w.extractLsb' 14 6) (w.extractLsb' 20 6) (w.extractLsb' 26 6))
  | 0xD5 => .ok (.tmap (w.extractLsb' 8 6) (w.extractLsb' 14 6) (w.extractLsb' 20 6) (w.extractLsb' 26 6))
  | 0xD7 =>
    match sub with
    | 0 => .ok (.tdemStore (w.extractLsb' 12 4) (w.extractLsb' 16 8) (w.extractLsb' 24 8))
    | 1 => if w.extractLsb' 12 4 = 0#4 then .ok (.tdemForce (w.extractLsb' 16 8) (w.extractLsb' 24 8)) else .error .reservedBits
    | 2 => if w.extractLsb' 12 4 = 0#4 ∧ w.extractLsb' 24 8 = 0#8 then .ok (.tdemDrop (w.extractLsb' 16 8)) else .error .reservedBits
    | 3 => if w.extractLsb' 12 4 = 0#4 then .ok (.tdemQuery (w.extractLsb' 16 8) (w.extractLsb' 24 8)) else .error .reservedBits
    | 4 => if w.extractLsb' 12 4 = 0#4 ∧ w.extractLsb' 16 8 = 0#8 then .ok (.tdemDiscard (w.extractLsb' 24 8)) else .error .reservedBits
    | _ => .error .reservedSub
  | 0xD9 =>
    match sub with
    | 0 => if w.extractLsb' 12 4 = 0#4 then .ok (.chBind (w.extractLsb' 16 8) (w.extractLsb' 24 8)) else .error .reservedBits
    | 1 => if w.extractLsb' 12 4 = 0#4 then .ok (.chBond (w.extractLsb' 16 8) (w.extractLsb' 24 8)) else .error .reservedBits
    | 2 => if w.extractLsb' 12 4 = 0#4 then .ok (.chMode (w.extractLsb' 16 8) (w.extractLsb' 24 8)) else .error .reservedBits
    | 3 => if w.extractLsb' 12 4 = 0#4 ∧ w.extractLsb' 24 8 = 0#8 then .ok (.chStep (w.extractLsb' 16 8)) else .error .reservedBits
    | 4 => if w.extractLsb' 12 4 = 0#4 then .ok (.chRun (w.extractLsb' 16 8) (w.extractLsb' 24 8)) else .error .reservedBits
    | 5 => if w.extractLsb' 12 4 = 0#4 ∧ w.extractLsb' 24 8 = 0#8 then .ok (.chEnv (w.extractLsb' 16 8)) else .error .reservedBits
    | 6 => if w.extractLsb' 12 4 = 0#4 ∧ w.extractLsb' 24 8 = 0#8 then .ok (.chQuery (w.extractLsb' 16 8)) else .error .reservedBits
    | 7 => if w.extractLsb' 12 4 = 0#4 ∧ w.extractLsb' 16 8 = 0#8 ∧ w.extractLsb' 24 8 = 0#8 then .ok (.chReset) else .error .reservedBits
    | _ => .error .reservedSub
  | 0xDD =>
    match sub with
    | 0 => if w.extractLsb' 13 3 = 0#3 then .ok (.traceClosest (w.extractLsb' 12 1) (w.extractLsb' 16 8) (w.extractLsb' 24 8)) else .error .reservedBits
    | 1 => if w.extractLsb' 13 3 = 0#3 then .ok (.traceAny (w.extractLsb' 12 1) (w.extractLsb' 16 8) (w.extractLsb' 24 8)) else .error .reservedBits
    | 3 => if w.extractLsb' 12 4 = 0#4 ∧ w.extractLsb' 24 8 = 0#8 then .ok (.traceQuery (w.extractLsb' 16 8)) else .error .reservedBits
    | _ => .error .reservedSub
  | 0xDF =>
    match sub with
    | 0 => if w.extractLsb' 12 4 = 0#4 then .ok (.smpBil (w.extractLsb' 16 8) (w.extractLsb' 24 8)) else .error .reservedBits
    | 1 => if w.extractLsb' 12 4 = 0#4 then .ok (.smpPt (w.extractLsb' 16 8) (w.extractLsb' 24 8)) else .error .reservedBits
    | 2 => if w.extractLsb' 14 2 = 0#2 then .ok (.smpGather4 (w.extractLsb' 12 2) (w.extractLsb' 16 8) (w.extractLsb' 24 8)) else .error .reservedBits
    | _ => .error .reservedSub
  | 0xE1 =>
    match sub with
    | 0 => if w.extractLsb' 12 4 = 0#4 then .ok (.jobLaunch (w.extractLsb' 16 8) (w.extractLsb' 24 8)) else .error .reservedBits
    | 1 => if w.extractLsb' 12 4 = 0#4 ∧ w.extractLsb' 24 8 = 0#8 then .ok (.jobNext (w.extractLsb' 16 8)) else .error .reservedBits
    | 2 => if w.extractLsb' 12 4 = 0#4 ∧ w.extractLsb' 16 8 = 0#8 ∧ w.extractLsb' 24 8 = 0#8 then .ok (.jobTrig) else .error .reservedBits
    | 3 => if w.extractLsb' 12 4 = 0#4 ∧ w.extractLsb' 24 8 = 0#8 then .ok (.jobDepwait (w.extractLsb' 16 8)) else .error .reservedBits
    | 4 => if w.extractLsb' 12 4 = 0#4 ∧ w.extractLsb' 16 8 = 0#8 ∧ w.extractLsb' 24 8 = 0#8 then .ok (.jobExit) else .error .reservedBits
    | 5 => if w.extractLsb' 12 4 = 0#4 ∧ w.extractLsb' 24 8 = 0#8 then .ok (.jobExits (w.extractLsb' 16 8)) else .error .reservedBits
    | 6 => if w.extractLsb' 12 4 = 0#4 ∧ w.extractLsb' 16 8 = 0#8 ∧ w.extractLsb' 24 8 = 0#8 then .ok (.jobYield) else .error .reservedBits
    | 7 => if w.extractLsb' 12 4 = 0#4 then .ok (.jobYieldonBar (w.extractLsb' 16 8) (w.extractLsb' 24 8)) else if w.extractLsb' 12 4 = 1#4 then .ok (.jobYieldonFlg (w.extractLsb' 16 8) (w.extractLsb' 24 8)) else .error .reservedBits
    | _ => .error .reservedSub
  | 0xE9 =>
    match sub with
    | 0 => if w.extractLsb' 12 4 = 0#4 ∧ w.extractLsb' 24 8 = 0#8 then .ok (.sysTrap (w.extractLsb' 16 8)) else .error .reservedBits
    | 1 => if w.extractLsb' 12 4 = 0#4 ∧ w.extractLsb' 16 8 = 0#8 ∧ w.extractLsb' 24 8 = 0#8 then .ok (.sysEret) else .error .reservedBits
    | 2 => if w.extractLsb' 12 4 = 0#4 then .ok (.sysCtlrd (w.extractLsb' 16 8) (w.extractLsb' 24 8)) else .error .reservedBits
    | 3 => if w.extractLsb' 12 4 = 0#4 then .ok (.sysCtlwr (w.extractLsb' 16 8) (w.extractLsb' 24 8)) else .error .reservedBits
    | 4 => if w.extractLsb' 12 4 = 0#4 then .ok (.sysParkrd (w.extractLsb' 16 8) (w.extractLsb' 24 8)) else .error .reservedBits
    | 5 => if w.extractLsb' 12 4 = 0#4 then .ok (.sysParkwr (w.extractLsb' 16 8) (w.extractLsb' 24 8)) else .error .reservedBits
    | 6 => if w.extractLsb' 14 2 = 0#2 ∧ w.extractLsb' 24 8 = 0#8 then .ok (.sysWatch (w.extractLsb' 12 2) (w.extractLsb' 16 8)) else .error .reservedBits
    | 7 => if w.extractLsb' 12 4 = 0#4 ∧ w.extractLsb' 24 8 = 0#8 then .ok (.sysTlbinv (w.extractLsb' 16 8)) else .error .reservedBits
    | 8 => if w.extractLsb' 12 4 = 0#4 ∧ w.extractLsb' 16 8 = 0#8 ∧ w.extractLsb' 24 8 = 0#8 then .ok (.sysHalt) else .error .reservedBits
    | _ => .error .reservedSub
  | 0xFF => .ok (.lit (w.extractLsb' 8 24))
  | _ => .error .reservedMajor

/-- R65 to R73: a 32-bit instruction, dispatched on its low byte, then on SUB. -/
def decode32 (w : BitVec 32) : Except DecodeError Instr :=
  decodeMaj (w.extractLsb' 0 8).toNat (w.extractLsb' 8 4).toNat w

/-- R52: bit 0 of the first parcel gives the length of the instruction in parcels. -/
def instrParcels (p : Parcel) : Nat := if p.getLsbD 0 then 2 else 1

/-- The instruction that begins a list of parcels, with the parcels after it (R52). -/
def decode : List Parcel → Except DecodeError (Instr × List Parcel)
  | [] => .error .truncated
  | p :: rest =>
    if p.getLsbD 0 then
      match rest with
      | [] => .error .truncated
      | q :: rest' =>
        match decode32 (q ++ p) with
        | .ok i => .ok (i, rest')
        | .error e => .error e
    else .ok (decode16 p, rest)

/-! ### The clause header and the structure of a clause -/

/-- The fields of a clause header (R43). -/
structure Header where
  res  : BitVec 4
  rcv  : Bool
  yld  : Bool
  setb : BitVec 4
  seta : BitVec 4
  wait : BitVec 12
  len  : BitVec 6
  deriving DecidableEq, Repr, Inhabited

/-- The header word's fields (R43). -/
def Header.ofWord (w : BitVec 32) : Header :=
  { res := w.extractLsb' 28 4, rcv := w.getLsbD 27, yld := w.getLsbD 26, setb := w.extractLsb' 22 4,
    seta := w.extractLsb' 18 4, wait := w.extractLsb' 6 12, len := w.extractLsb' 0 6 }

/-- The header's word (R43). -/
def Header.toWord (h : Header) : BitVec 32 :=
  h.res ++ BitVec.ofBool h.rcv ++ BitVec.ofBool h.yld ++ h.setb ++ h.seta ++ h.wait ++ h.len

/-- The bytes of a clause, header included, to the next header: 4 + 2·LEN rounded up to a multiple of 4 (R44). -/
def clauseBytes (len : Nat) : Nat := 4 + 4 * ((len + 1) / 2)

/-- R65: the word is a long-latency instruction, by MAJ, and by SUB where the map names SUBs. -/
def wordLongLatency (w : BitVec 32) : Bool :=
  let maj := (w.extractLsb' 1 7).toNat
  let sub := (w.extractLsb' 8 4).toNat
  (0x50 ≤ maj && maj ≤ 0x5B) || maj == 0x60 || maj == 0x64 || maj == 0x65 || maj == 0x67 || maj == 0x6F ||
  ((maj == 0x66 || maj == 0x6B || maj == 0x6E) && sub ≤ 1) || (maj == 0x6C && 3 ≤ sub && sub ≤ 5)

/-- R46: the word is a control transfer. -/
def wordControlTransfer (w : BitVec 32) : Bool :=
  let maj := (w.extractLsb' 1 7).toNat
  let sub := (w.extractLsb' 8 4).toNat
  (0x40 ≤ maj && maj ≤ 0x43) || maj == 0x45 || (maj == 0x46 && sub == 0) ||
  (maj == 0x70 && 4 ≤ sub && sub ≤ 7) || (maj == 0x74 && (sub == 0 || sub == 1 || sub == 8))

/-- One instruction of a body as the structure check sees it: its parcel, and its word if it has 32 bits. -/
structure BodyItem where
  parcel : Nat
  word   : Option (BitVec 32)
  deriving DecidableEq, Repr

/-- The instructions of a body in parcel order; none when a 32-bit instruction lacks its second parcel (R47, R52). -/
def bodyItems : Nat → List Parcel → Option (List BodyItem)
  | _, [] => some []
  | k, [p] => if p.getLsbD 0 then none else some [⟨k, none⟩]
  | k, p :: q :: rest =>
    if p.getLsbD 0 then (bodyItems (k + 2) rest).map (⟨k, some (q ++ p)⟩ :: ·)
    else (bodyItems (k + 1) (q :: rest)).map (⟨k, none⟩ :: ·)

/-- The item is a long-latency instruction (R45). -/
def BodyItem.longLatency (x : BodyItem) : Bool := x.word.any wordLongLatency
/-- The item is a control transfer (R46). -/
def BodyItem.control (x : BodyItem) : Bool := x.word.any wordControlTransfer
/-- The item's major opcode, 0x80 for a compact instruction. -/
def BodyItem.maj (x : BodyItem) : Nat := match x.word with
  | some w => (w.extractLsb' 1 7).toNat
  | none => 0x80

/-- A flag field of the header names f0 to f11 or none (R43). -/
def flagFieldOk (f : BitVec 4) : Bool := f.toNat < 12 || f.toNat == 15

/-- R47: the whole structure of a clause whose body parcels are given. -/
def structureOk (h : Header) (body : List Parcel) : Bool :=
  match bodyItems 0 body with
  | none => false
  | some items =>
    let ll := (items.filter BodyItem.longLatency).length
    let joins := (items.filter (fun x => x.maj == 0x44)).length
    h.len != 0 && h.res == 0 && flagFieldOk h.seta && flagFieldOk h.setb &&
    ll ≤ 2 && ((h.seta.toNat != 15) == decide (1 ≤ ll)) && ((h.setb.toNat != 15) == decide (2 ≤ ll)) &&
    (items.dropLast).all (fun x => !x.control) &&
    (joins == 0 || (joins == 1 && (items.getLast?).any (fun x => x.maj == 0x43)))

/-! ### The encoder -/

/-- The two parcels of a 32-bit word, the lower address first (R52). -/
def split32 (w : BitVec 32) : List Parcel := [w.extractLsb' 0 16, w.extractLsb' 16 16]

/-- A byte of two fields, 5 and 3 bits. -/
def cat53 (x : BitVec 5) (y : BitVec 3) : BitVec 8 := x ++ y
/-- A byte of two fields of 4 bits. -/
def cat44 (x : BitVec 4) (y : BitVec 4) : BitVec 8 := x ++ y
/-- A nibble of fields of 1 and 3 bits. -/
def cat13 (x : BitVec 1) (y : BitVec 3) : BitVec 4 := x ++ y
/-- A nibble of fields of 3 and 1 bits. -/
def cat31 (x : BitVec 3) (y : BitVec 1) : BitVec 4 := x ++ y
/-- A nibble of two fields of 2 bits. -/
def cat22 (x : BitVec 2) (y : BitVec 2) : BitVec 4 := x ++ y
/-- A byte of fields of 3, 1 and 4 bits (R257). -/
def cat314 (x : BitVec 3) (y : BitVec 1) (z : BitVec 4) : BitVec 8 := x ++ (y ++ z : BitVec 5)
/-- A byte of fields of 2, 3 and 3 bits (R255). -/
def cat233 (x : BitVec 2) (y : BitVec 3) (z : BitVec 3) : BitVec 8 := x ++ (y ++ z : BitVec 6)
/-- A word of four bytes, the highest first: the forms F3, FM, FMEM and FX (R53). -/
def pack4 (b a d lo : BitVec 8) : BitVec 32 := (b ++ a : BitVec 16) ++ (d ++ lo : BitVec 16)
/-- Form FI (R53). -/
def packFI (i : BitVec 16) (d lo : BitVec 8) : BitVec 32 := i ++ (d ++ lo : BitVec 16)
/-- Form FB (R53), the four bits [11:8] together. -/
def packFB (o : BitVec 20) (m : BitVec 4) (lo : BitVec 8) : BitVec 32 := o ++ (m ++ lo : BitVec 12)
/-- Form FT (R53). -/
def packFT (p b a d : BitVec 6) (lo : BitVec 8) : BitVec 32 := (p ++ b : BitVec 12) ++ (a ++ (d ++ lo : BitVec 14) : BitVec 20)
/-- Form LIT (R53). -/
def packLIT (l : BitVec 24) (lo : BitVec 8) : BitVec 32 := l ++ lo

/-- The compact form (R55). -/
def packC (s : BitVec 6) (d : BitVec 5) (op : BitVec 4) : BitVec 16 := s ++ (d ++ (op ++ 0#1 : BitVec 5) : BitVec 10)

/-- The parcels of an instruction (R53, R55, R65 to R73); the device's own steps have none. -/
def encode : Instr → List Parcel
  | .movCompact d s => [packC s d 0#4]
  | .addI32Compact d s => [packC s d 1#4]
  | .subI32Compact d s => [packC s d 2#4]
  | .andCompact d s => [packC s d 3#4]
  | .orCompact d s => [packC s d 4#4]
  | .xorCompact d s => [packC s d 5#4]
  | .shlCompact d s => [packC s d 6#4]
  | .shrN32Compact d s => [packC s d 7#4]
  | .addF32Compact d s => [packC s d 8#4]
  | .subF32Compact d s => [packC s d 9#4]
  | .mulF32Compact d s => [packC s d 10#4]
  | .maxF32Compact d s => [packC s d 11#4]
  | .minF32Compact d s => [packC s d 12#4]
  | .addF16x2Compact d s => [packC s d 13#4]
  | .mulF16x2Compact d s => [packC s d 14#4]
  | .shrI32Compact d s => [packC s d 15#4]
  | .addI32 d a b => split32 (pack4 b a d 1#8)
  | .subI32 d a b => split32 (pack4 b a d 3#8)
  | .mulI32 d a b => split32 (pack4 b a d 5#8)
  | .mulhiI32 d a b => split32 (pack4 b a d 7#8)
  | .mulhiN32 d a b => split32 (pack4 b a d 9#8)
  | .madI32 d a b => split32 (pack4 b a d 11#8)
  | .minI32 d a b => split32 (pack4 b a d 13#8)
  | .maxI32 d a b => split32 (pack4 b a d 15#8)
  | .minN32 d a b => split32 (pack4 b a d 17#8)
  | .maxN32 d a b => split32 (pack4 b a d 19#8)
  | .and d a b => split32 (pack4 b a d 21#8)
  | .or d a b => split32 (pack4 b a d 23#8)
  | .xor d a b => split32 (pack4 b a d 25#8)
  | .andn d a b => split32 (pack4 b a d 27#8)
  | .shl d a b => split32 (pack4 b a d 29#8)
  | .shrN32 d a b => split32 (pack4 b a d 31#8)
  | .shrI32 d a b => split32 (pack4 b a d 33#8)
  | .rot d a b => split32 (pack4 b a d 35#8)
  | .bfx d a b => split32 (pack4 b a d 37#8)
  | .bfi d a b => split32 (pack4 b a d 39#8)
  | .bitu d a f => split32 (pack4 f a d 41#8)
  | .addI64 d a b => split32 (pack4 b a d 43#8)
  | .subI64 d a b => split32 (pack4 b a d 45#8)
  | .madN64N32 d a b => split32 (pack4 b a d 47#8)
  | .addF32 d a b => split32 (pack4 b a d 49#8)
  | .subF32 d a b => split32 (pack4 b a d 51#8)
  | .mulF32 d a b => split32 (pack4 b a d 53#8)
  | .fmaF32 d a b => split32 (pack4 b a d 55#8)
  | .minF32 d a b => split32 (pack4 b a d 57#8)
  | .maxF32 d a b => split32 (pack4 b a d 59#8)
  | .addF16x2 d a b => split32 (pack4 b a d 61#8)
  | .mulF16x2 d a b => split32 (pack4 b a d 63#8)
  | .fmaF16x2 d a b => split32 (pack4 b a d 65#8)
  | .addBf16x2 d a b => split32 (pack4 b a d 67#8)
  | .fmaBf16x2 d a b => split32 (pack4 b a d 69#8)
  | .maxF16x2 d a b => split32 (pack4 b a d 71#8)
  | .funF32 d a f => split32 (pack4 f a d 73#8)
  | .mov64 d a => split32 (pack4 0#8 a d 75#8)
  | .cvt d a c => split32 (pack4 c a d 77#8)
  | .cvtp d a b => split32 (pack4 b a d 79#8)
  | .qnt d a b => split32 (pack4 b a d 81#8)
  | .dqn d a b => split32 (pack4 b a d 83#8)
  | .sel d a b => split32 (pack4 b a d 85#8)
  | .shfl d a b => split32 (pack4 b a d 87#8)
  | .rdlane d a b => split32 (pack4 b a d 89#8)
  | .wrlane d a b => split32 (pack4 b a d 91#8)
  | .wred d a f => split32 (pack4 f a d 93#8)
  | .wscan d a f => split32 (pack4 f a d 95#8)
  | .cmpI32 m c a b => split32 (pack4 b a (cat53 c m) 97#8)
  | .cmpN32 m c a b => split32 (pack4 b a (cat53 c m) 99#8)
  | .cmpF32 m c a b => split32 (pack4 b a (cat53 c m) 101#8)
  | .test m c a b => split32 (pack4 b a (cat53 c m) 103#8)
  | .mop m c a b => split32 (pack4 b a (cat53 c m) 105#8)
  | .mmov m c a b => split32 (pack4 b a (cat53 c m) 107#8)
  | .movi d i => split32 (packFI i d 113#8)
  | .movhi d i => split32 (packFI i d 115#8)
  | .addi d i => split32 (packFI i d 117#8)
  | .andi d i => split32 (packFI i d 119#8)
  | .ori d i => split32 (packFI i d 121#8)
  | .bra o => split32 (packFB o 0#4 129#8)
  | .brany m o => split32 (packFB o (cat13 0#1 m) 131#8)
  | .brall m o => split32 (packFB o (cat13 0#1 m) 133#8)
  | .brs m o => split32 (packFB o (cat13 0#1 m) 135#8)
  | .joinat m o => split32 (packFB o (cat13 0#1 m) 137#8)
  | .call o => split32 (packFB o 0#4 139#8)
  | .ctlJmpr a => split32 (pack4 0#8 a (cat44 0#4 0#4) 141#8)
  | .ctlReord n a b => split32 (pack4 b a (cat44 n 1#4) 141#8)
  | .ctlSleep a => split32 (pack4 0#8 a (cat44 0#4 2#4) 141#8)
  | .dot4I8 d a b => split32 (pack4 b a d 145#8)
  | .dot4N8 d a b => split32 (pack4 b a d 147#8)
  | .dot8I4 d a b => split32 (pack4 b a d 149#8)
  | .dot4F8 d a b => split32 (pack4 b a d 151#8)
  | .dot8F4 d a b => split32 (pack4 b a d 153#8)
  | .dot2F16 d a b => split32 (pack4 b a d 155#8)
  | .dot2Bf16 d a b => split32 (pack4 b a d 157#8)
  | .sclx d a => split32 (pack4 0#8 a d 159#8)
  | .ld d a z o => split32 (pack4 (cat53 o z) a d 161#8)
  | .st d a z o => split32 (pack4 (cat53 o z) a d 163#8)
  | .lds d a z o => split32 (pack4 (cat53 o z) a d 165#8)
  | .sts d a z o => split32 (pack4 (cat53 o z) a d 167#8)
  | .ldc d a z o => split32 (pack4 (cat53 o z) a d 169#8)
  | .stp d a z o => split32 (pack4 (cat53 o z) a d 171#8)
  | .atom d a p w => split32 (pack4 (cat314 0#3 w p) a d 173#8)
  | .red d a p w => split32 (pack4 (cat314 0#3 w p) a d 175#8)
  | .atoms d a p w => split32 (pack4 (cat314 0#3 w p) a d 177#8)
  | .ldu d a z o => split32 (pack4 (cat53 o z) a d 179#8)
  | .stu d a z o => split32 (pack4 (cat53 o z) a d 181#8)
  | .ldrec d a w n => split32 (pack4 (cat233 0#2 n w) a d 183#8)
  | .barInit a b => split32 (pack4 b a (cat44 0#4 0#4) 185#8)
  | .barArrive a b => split32 (pack4 b a (cat44 0#4 1#4) 185#8)
  | .barExpect a b => split32 (pack4 b a (cat44 0#4 2#4) 185#8)
  | .barArrivex a b => split32 (pack4 b a (cat44 0#4 3#4) 185#8)
  | .barWait a b => split32 (pack4 b a (cat44 0#4 4#4) 185#8)
  | .barWaitt m a b => split32 (pack4 b a (cat44 (cat13 0#1 m) 5#4) 185#8)
  | .barTest m a b => split32 (pack4 b a (cat44 (cat13 0#1 m) 6#4) 185#8)
  | .barEnroll a => split32 (pack4 0#8 a (cat44 0#4 7#4) 185#8)
  | .barDrop a => split32 (pack4 0#8 a (cat44 0#4 8#4) 185#8)
  | .barInval a => split32 (pack4 0#8 a (cat44 0#4 9#4) 185#8)
  | .pbarArrive a b => split32 (pack4 b a (cat44 0#4 0#4) 187#8)
  | .pbarWait a b => split32 (pack4 b a (cat44 0#4 1#4) 187#8)
  | .pbarTest m a b => split32 (pack4 b a (cat44 (cat13 0#1 m) 2#4) 187#8)
  | .fenceOpc => split32 (pack4 0#8 0#8 (cat44 0#4 0#4) 189#8)
  | .fenceIfetch => split32 (pack4 0#8 0#8 (cat44 0#4 1#4) 189#8)
  | .fenceAsync => split32 (pack4 0#8 0#8 (cat44 0#4 2#4) 189#8)
  | .cpyLin f a => split32 (pack4 0#8 a (cat44 f 0#4) 193#8)
  | .cpyTile f a => split32 (pack4 0#8 a (cat44 f 1#4) 193#8)
  | .cpyGather f a => split32 (pack4 0#8 a (cat44 f 2#4) 193#8)
  | .cpyScatter f a => split32 (pack4 0#8 a (cat44 f 3#4) 193#8)
  | .cpyXform f a => split32 (pack4 0#8 a (cat44 f 4#4) 193#8)
  | .cpyFill f a => split32 (pack4 0#8 a (cat44 f 5#4) 193#8)
  | .cbatchSeal a => split32 (pack4 0#8 a (cat44 0#4 0#4) 195#8)
  | .cbatchWait a => split32 (pack4 0#8 a (cat44 0#4 1#4) 195#8)
  | .cbatchTest m a => split32 (pack4 0#8 a (cat44 (cat13 0#1 m) 2#4) 195#8)
  | .mmao t w a b => split32 (pack4 b a (cat44 w t) 201#8)
  | .mmat t w a => split32 (pack4 0#8 a (cat44 w t) 203#8)
  | .wbufLoad w a => split32 (pack4 0#8 a (cat44 w 0#4) 205#8)
  | .wbufMcast w a => split32 (pack4 0#8 a (cat44 w 1#4) 205#8)
  | .wbufInval w => split32 (pack4 0#8 0#8 (cat44 w 2#4) 205#8)
  | .wbufQuery w a => split32 (pack4 0#8 a (cat44 w 3#4) 205#8)
  | .tsmovToreg n a b => split32 (pack4 b a (cat44 n 0#4) 207#8)
  | .tsmovFromreg n a b => split32 (pack4 b a (cat44 n 1#4) 207#8)
  | .tsmovTomem a b => split32 (pack4 b a (cat44 0#4 2#4) 207#8)
  | .tsmovFrommem a b => split32 (pack4 b a (cat44 0#4 3#4) 207#8)
  | .tdefView f a b => split32 (pack4 b a (cat44 f 0#4) 209#8)
  | .tdefConst a b => split32 (pack4 b a (cat44 0#4 1#4) 209#8)
  | .top d a b p => split32 (packFT p b a d 211#8)
  | .tmap d a b p => split32 (packFT p b a d 213#8)
  | .tdemStore f a b => split32 (pack4 b a (cat44 f 0#4) 215#8)
  | .tdemForce a b => split32 (pack4 b a (cat44 0#4 1#4) 215#8)
  | .tdemDrop a => split32 (pack4 0#8 a (cat44 0#4 2#4) 215#8)
  | .tdemQuery a b => split32 (pack4 b a (cat44 0#4 3#4) 215#8)
  | .tdemDiscard b => split32 (pack4 b 0#8 (cat44 0#4 4#4) 215#8)
  | .chBind a b => split32 (pack4 b a (cat44 0#4 0#4) 217#8)
  | .chBond a b => split32 (pack4 b a (cat44 0#4 1#4) 217#8)
  | .chMode a b => split32 (pack4 b a (cat44 0#4 2#4) 217#8)
  | .chStep a => split32 (pack4 0#8 a (cat44 0#4 3#4) 217#8)
  | .chRun a b => split32 (pack4 b a (cat44 0#4 4#4) 217#8)
  | .chEnv a => split32 (pack4 0#8 a (cat44 0#4 5#4) 217#8)
  | .chQuery a => split32 (pack4 0#8 a (cat44 0#4 6#4) 217#8)
  | .chReset => split32 (pack4 0#8 0#8 (cat44 0#4 7#4) 217#8)
  | .traceClosest c a b => split32 (pack4 b a (cat44 (cat31 0#3 c) 0#4) 221#8)
  | .traceAny c a b => split32 (pack4 b a (cat44 (cat31 0#3 c) 1#4) 221#8)
  | .traceQuery a => split32 (pack4 0#8 a (cat44 0#4 3#4) 221#8)
  | .smpBil a b => split32 (pack4 b a (cat44 0#4 0#4) 223#8)
  | .smpPt a b => split32 (pack4 b a (cat44 0#4 1#4) 223#8)
  | .smpGather4 c a b => split32 (pack4 b a (cat44 (cat22 0#2 c) 2#4) 223#8)
  | .jobLaunch a b => split32 (pack4 b a (cat44 0#4 0#4) 225#8)
  | .jobNext a => split32 (pack4 0#8 a (cat44 0#4 1#4) 225#8)
  | .jobTrig => split32 (pack4 0#8 0#8 (cat44 0#4 2#4) 225#8)
  | .jobDepwait a => split32 (pack4 0#8 a (cat44 0#4 3#4) 225#8)
  | .jobExit => split32 (pack4 0#8 0#8 (cat44 0#4 4#4) 225#8)
  | .jobExits a => split32 (pack4 0#8 a (cat44 0#4 5#4) 225#8)
  | .jobYield => split32 (pack4 0#8 0#8 (cat44 0#4 6#4) 225#8)
  | .jobYieldonBar a b => split32 (pack4 b a (cat44 0#4 7#4) 225#8)
  | .jobYieldonFlg a b => split32 (pack4 b a (cat44 1#4 7#4) 225#8)
  | .sysTrap a => split32 (pack4 0#8 a (cat44 0#4 0#4) 233#8)
  | .sysEret => split32 (pack4 0#8 0#8 (cat44 0#4 1#4) 233#8)
  | .sysCtlrd a b => split32 (pack4 b a (cat44 0#4 2#4) 233#8)
  | .sysCtlwr a b => split32 (pack4 b a (cat44 0#4 3#4) 233#8)
  | .sysParkrd a b => split32 (pack4 b a (cat44 0#4 4#4) 233#8)
  | .sysParkwr a b => split32 (pack4 b a (cat44 0#4 5#4) 233#8)
  | .sysWatch i a => split32 (pack4 0#8 a (cat44 (cat22 0#2 i) 6#4) 233#8)
  | .sysTlbinv a => split32 (pack4 0#8 a (cat44 0#4 7#4) 233#8)
  | .sysHalt => split32 (pack4 0#8 0#8 (cat44 0#4 8#4) 233#8)
  | .lit l => split32 (packLIT l 255#8)
  | .clauseBegin => []
  | .fragmentAged _ => []
  | .sleepExpire _ => []
  | .waittTimeout _ => []
  | .loadComplete _ _ => []
  | .storeComplete _ _ => []
  | .fullEmptyRetest _ _ => []
  | .hubFlush _ => []
  | .qlaunch _ _ => []
  | .cardRead _ _ => []
  | .crewPlace _ => []
  | .placementHold _ => []
  | .preqExpire _ => []
  | .crewSave _ => []
  | .crewResume _ _ _ => []
  | .waveRetire _ _ => []
  | .doneWrite _ => []
  | .copyUnit _ _ _ => []
  | .copyComplete _ _ => []
  | .getin _ _ => []
  | .putout _ _ => []
  | .endRoutine _ _ => []
  | .args _ _ => []
  | .routineFault _ _ => []
  | .wbufComplete _ _ => []
  | .mmaoComplete _ _ => []
  | .mmatComplete _ _ => []
  | .tsmovComplete _ _ => []
  | .materialise _ _ => []
  | .demandBlock _ _ _ => []
  | .tdemComplete _ _ => []
  | .chainStep _ => []
  | .chainComplete _ _ => []
  | .traceComplete _ _ => []
  | .smpComplete _ _ => []
  | .salamanderBatch _ => []
  | .pageArrive _ _ _ => []
  | .atsCompletion _ _ => []
  | .atsInvalidation _ _ _ _ => []
  | .invalidationComplete _ => []
  | .prgResponse _ _ => []
  | .wrapClear _ => []
  | .cxctl _ _ => []
  | .cxfresp _ _ => []
  | .cxinvc _ _ => []
  | .cxpre _ _ => []
  | .cxfq _ _ => []
  | .cxcwn _ _ => []
  | .cxcwdRead _ => []
  | .cxcwdWrite _ _ => []
  | .hostWrite _ _ => []
  | .snoop _ _ => []
  | .backInvalidation _ _ => []
  | .counterDecay => []
  | .frameFill _ => []
  | .frameDrain _ _ => []
  | .l2Evict _ => []
  | .hbmUncorrectable _ => []
  | .poolFail _ _ _ => []
  | .hostLinkDown => []
  | .hostLinkUp => []
  | .pcclr _ => []
  | .pcclrDone => []
  | .pcmark _ _ => []
  | .keyctl _ => []
  | .keyInstall => []
  | .pooldec _ _ => []
  | .rtload _ => []
  | .fwload _ => []
  | .imageLoadDone => []
  | .attest _ => []
  | .fsclr _ => []
  | .reset => []
  | .startupStep _ _ => []
  | .startupTimeout _ => []
  | .portFail _ => []
  | .pwrlim _ => []
  | .powerCheck _ => []
  | .registerWrite _ _ => []
  | .cxfqhead _ _ => []
  | .tracePark _ _ => []
  | .smpPark _ _ => []

/-- The instruction whose bits are `w`, numbered as the opcode table numbers them: 16-bit words for a compact
instruction, one 32-bit word for the others, bits above `nbits` zero. -/
def decodeTableWord (nbits w : Nat) : Option Instr :=
  let b := BitVec.ofNat 32 (w % 2 ^ nbits)
  match decode [b.extractLsb' 0 16, b.extractLsb' 16 16] with
  | .ok (i, _) => some i
  | .error _ => none

end Sys2Proof
end

