-- ==== Sys2Proof/Machine/Flags.lean ====
section
/-! DEFINITION. Number formats, exact values, the one rounding function of the device, and the exception flags it
raises (R81 to R84, R88 to R95, R103, R104, R216). -/

namespace Sys2Proof.Machine

/-! ### Exception flags (R95) -/

/-- A set of exception flags, bit by bit as FLG holds them (R95). -/
abbrev Flags := BitVec 8
/-- Invalid operation. -/
def flagINV : Flags := 0x01#8
/-- Division by zero. -/
def flagDZ : Flags := 0x02#8
/-- Overflow. -/
def flagOVF : Flags := 0x04#8
/-- Underflow. -/
def flagUNF : Flags := 0x08#8
/-- Inexact. -/
def flagINX : Flags := 0x10#8
/-- A result was saturated or clamped. -/
def flagSATD : Flags := 0x20#8
/-- A NaN was narrowed into a format that has none. -/
def flagNNAR : Flags := 0x40#8
/-- A subnormal operand was read. -/
def flagSUBIN : Flags := 0x80#8

/-- The flags, or none. -/
def flagIf (b : Bool) (f : Flags) : Flags := if b then f else 0

/-! ### Formats (R81, R83) -/

/-- The destinations and sources of the device's roundings: FP32, the codes 0 to 8 of R81 and R83, and the 32-bit
integers of CVT (R92). -/
inductive Format where
  | f32 | f16 | bf16 | e4m3 | e5m2 | e3m2 | e2m3 | e2m1 | i8 | i4 | i32 | n32
  deriving DecidableEq, Repr, Inhabited

/-- The format of a code of R81 and R83; codes 9 and above are no element format. -/
def formatOfCode (c : Nat) : Option Format :=
  match c with
  | 0 => some .f16 | 1 => some .bf16 | 2 => some .e4m3 | 3 => some .e5m2 | 4 => some .e3m2 | 5 => some .e2m3
  | 6 => some .e2m1 | 7 => some .i8 | 8 => some .i4 | _ => none

/-- The width of an element in bits (R81, R83). -/
def fmtWidth : Format → Nat
  | .f32 => 32 | .f16 => 16 | .bf16 => 16 | .e4m3 => 8 | .e5m2 => 8 | .e3m2 => 6 | .e2m3 => 6 | .e2m1 => 4
  | .i8 => 8 | .i4 => 4 | .i32 => 32 | .n32 => 32

/-- Mantissa bits (R81). -/
def fmtMant : Format → Nat
  | .f32 => 23 | .f16 => 10 | .bf16 => 7 | .e4m3 => 3 | .e5m2 => 2 | .e3m2 => 2 | .e2m3 => 3 | .e2m1 => 1
  | .i8 => 0 | .i4 => 0 | .i32 => 0 | .n32 => 0

/-- Exponent bias (R81). -/
def fmtBias : Format → Nat
  | .f32 => 127 | .f16 => 15 | .bf16 => 127 | .e4m3 => 7 | .e5m2 => 15 | .e3m2 => 3 | .e2m3 => 1 | .e2m1 => 1
  | .i8 => 0 | .i4 => 0 | .i32 => 0 | .n32 => 0

/-- The pattern of the largest finite magnitude (R81). -/
def fmtMax : Format → Nat
  | .f32 => 0x7F7FFFFF | .f16 => 0x7BFF | .bf16 => 0x7F7F | .e4m3 => 0x7E | .e5m2 => 0x7B | .e3m2 => 0x1F
  | .e2m3 => 0x1F | .e2m1 => 0x7 | .i8 => 127 | .i4 => 7 | .i32 => 0x7FFFFFFF | .n32 => 0xFFFFFFFF

/-- The canonical NaN of a format that has one, 0 for the others (R88, R92). -/
def fmtNaN : Format → Nat
  | .f32 => 0x7FC00000 | .f16 => 0x7E00 | .bf16 => 0x7FC0 | .e4m3 => 0x7F | .e5m2 => 0x7F
  | .e3m2 => 0 | .e2m3 => 0 | .e2m1 => 0 | .i8 => 0 | .i4 => 0 | .i32 => 0 | .n32 => 0

/-- The format has infinities (R81). -/
def fmtHasInf : Format → Bool
  | .f32 => true | .f16 => true | .bf16 => true | .e5m2 => true
  | .e4m3 => false | .e3m2 => false | .e2m3 => false | .e2m1 => false
  | .i8 => false | .i4 => false | .i32 => false | .n32 => false

/-- The format is an integer (R83, R92). -/
def fmtIsInt : Format → Bool
  | .i8 => true | .i4 => true | .i32 => true | .n32 => true
  | .f32 => false | .f16 => false | .bf16 => false | .e4m3 => false | .e5m2 => false
  | .e3m2 => false | .e2m3 => false | .e2m1 => false

/-- FP32, FP16 or BF16: the formats FTZ, DAZ and SUBIN speak of (R93). -/
def fmtIsWide : Format → Bool
  | .f32 => true | .f16 => true | .bf16 => true
  | .e4m3 => false | .e5m2 => false | .e3m2 => false | .e2m3 => false | .e2m1 => false
  | .i8 => false | .i4 => false | .i32 => false | .n32 => false

/-! ### Exact values -/

/-- An exact value: NaN, an infinity, or (-1)^neg · m · 2^e, zero keeping its sign (R82, R94). -/
inductive Ext where
  | nan
  | inf (neg : Bool)
  | fin (neg : Bool) (m : Nat) (e : Int)
  deriving DecidableEq, Repr, Inhabited

/-- Zero of a sign. -/
def extZero (neg : Bool) : Ext := .fin neg 0 0
/-- An integer as an exact value; zero is +0. -/
def extOfInt (z : Int) : Ext := .fin (decide (z < 0)) z.natAbs 0

/-- The value is NaN. -/
def extIsNaN : Ext → Bool
  | .nan => true
  | .inf _ => false
  | .fin _ _ _ => false
/-- The value is a zero. -/
def extIsZero : Ext → Bool
  | .nan => false
  | .inf _ => false
  | .fin _ m _ => m == 0
/-- The value's sign; NaN counts as positive. -/
def extNeg : Ext → Bool
  | .nan => false
  | .inf s => s
  | .fin s _ _ => s
/-- The value with its sign reversed. -/
def extFlip : Ext → Ext
  | .nan => .nan
  | .inf s => .inf (!s)
  | .fin s m e => .fin (!s) m e
/-- The magnitude. -/
def extAbs : Ext → Ext
  | .nan => .nan
  | .inf _ => .inf false
  | .fin _ m e => .fin false m e

/-- 2^k as a natural number, for a nonnegative k. -/
def pow2 (k : Int) : Nat := 2 ^ k.toNat

/-- The signed integer (-1)^neg · m · 2^(e - q), for q at most e. -/
def alignTo (q : Int) (neg : Bool) (m : Nat) (e : Int) : Int :=
  let k : Int := (m * pow2 (e - q) : Nat)
  if neg then -k else k

/-- The exact sum of a list of terms (R88): a NaN term gives NaN, infinities of both signs give NaN and raise
invalid, and an exact zero takes its sign by R88, `rdn` telling that the mode is RDN. -/
def extSum (rdn : Bool) (l : List Ext) : Ext × Flags :=
  if l.any extIsNaN then (.nan, 0)
  else
    let hasInf := fun b => l.any (fun x => match x with | .inf s => s == b | .nan => false | .fin _ _ _ => false)
    if hasInf true && hasInf false then (.nan, flagINV)
    else if hasInf true then (.inf true, 0)
    else if hasInf false then (.inf false, 0)
    else
      let q := l.foldl (fun q x => match x with | .fin _ m e => if m == 0 then q else min q e | .nan => q | .inf _ => q) (0 : Int)
      let z := l.foldl (fun z x => match x with
        | .fin s m e => if m == 0 then z else z + alignTo q s m e | .nan => z | .inf _ => z) (0 : Int)
      if z == 0 then
        if l.all (fun x => extIsZero x && extNeg x) && !l.isEmpty then (extZero true, 0)
        else if l.all (fun x => extIsZero x && !extNeg x) then (extZero false, 0)
        else (extZero rdn, 0)
      else (.fin (decide (z < 0)) z.natAbs q, 0)

/-- The exact product (R88): 0 · ∞ gives NaN and raises invalid. -/
def extMul (a b : Ext) : Ext × Flags :=
  match a, b with
  | .nan, _ => (.nan, 0)
  | .inf _, .nan => (.nan, 0)
  | .fin _ _ _, .nan => (.nan, 0)
  | .inf s, .inf t => (.inf (s != t), 0)
  | .inf s, .fin t m _ => if m == 0 then (.nan, flagINV) else (.inf (s != t), 0)
  | .fin s m _, .inf t => if m == 0 then (.nan, flagINV) else (.inf (s != t), 0)
  | .fin s m e, .fin t n f => (.fin (s != t) (m * n) (e + f), 0)

/-- The value times 2^k. -/
def extScale (k : Int) : Ext → Ext
  | .nan => .nan
  | .inf s => .inf s
  | .fin s m e => .fin s m (e + k)

/-- Order on values that are not NaN, -0 below +0 (R88). -/
def extLess (a b : Ext) : Bool :=
  match a, b with
  | .nan, _ => false
  | .inf _, .nan => false
  | .fin _ _ _, .nan => false
  | .inf s, .inf t => s && !t
  | .inf s, .fin _ _ _ => s
  | .fin _ _ _, .inf t => !t
  | .fin s m e, .fin t n f =>
    if m == 0 && n == 0 then s && !t
    else
      let q := min e f
      decide (alignTo q s m e < alignTo q t n f)

/-- Equality of values that are not NaN, -0 equal to +0. -/
def extEq (a b : Ext) : Bool :=
  match a, b with
  | .nan, _ => false
  | .inf _, .nan => false
  | .fin _ _ _, .nan => false
  | .inf s, .inf t => s == t
  | .inf _, .fin _ _ _ => false
  | .fin _ _ _, .inf _ => false
  | .fin s m e, .fin t n f =>
    (m == 0 && n == 0) || decide (alignTo (min e f) s m e = alignTo (min e f) t n f)

/-! ### Decoding (R82, R83) -/

/-- The value of a pattern (R82, R83). -/
def decodeFmt (f : Format) (bits : Nat) : Ext :=
  let w := fmtWidth f
  let b := bits % 2 ^ w
  if f == .n32 then .fin false b 0
  else
    let neg := decide (2 ^ (w - 1) ≤ b)
    if fmtIsInt f then .fin neg (if neg then 2 ^ w - b else b) 0
    else
      let mag := b % 2 ^ (w - 1)
      if mag ≤ fmtMax f then
        let M := fmtMant f
        let ef := mag / 2 ^ M
        let mf := mag % 2 ^ M
        if ef == 0 then .fin neg mf ((1 : Int) - fmtBias f - M)
        else .fin neg (2 ^ M + mf) ((ef : Int) - fmtBias f - M)
      else if fmtHasInf f && mag == fmtMax f + 1 then .inf neg
      else .nan

/-- The pattern is a subnormal of FP32, FP16 or BF16 (R93). -/
def isSubnormal (f : Format) (bits : Nat) : Bool :=
  let mag := bits % 2 ^ (fmtWidth f - 1)
  fmtIsWide f && mag != 0 && decide (mag < 2 ^ fmtMant f)

/-- The pattern is a signalling NaN of FP32, FP16 or BF16 (R88). -/
def isSignalling (f : Format) (bits : Nat) : Bool :=
  fmtIsWide f && extIsNaN (decodeFmt f bits) && (bits >>> (fmtMant f - 1)) % 2 == 0

/-- Reading a floating operand: a signalling NaN raises INV, a subnormal raises SUBIN and reads as zero under DAZ
(R88, R93, R206). -/
def readFloat (f : Format) (daz : Bool) (bits : Nat) : Ext × Flags :=
  let v := decodeFmt f bits
  let sub := isSubnormal f bits
  (if sub && daz then extZero (extNeg v) else v, flagIf (isSignalling f bits) flagINV ||| flagIf sub flagSUBIN)

/-! ### Rounding (R89 to R94) -/

/-- What a rounding takes from FMT and from its place: the mode (RM, 0 to 5), SAT, and whether subnormal wide
results flush (FMT.FTZ, or an engine's accumulator rounding) (R89, R92, R93). -/
structure RoundEnv where
  rm  : Nat
  sat : Bool
  ftz : Bool
  deriving DecidableEq, Repr, Inhabited

/-- The magnitude of a rounding: `k` whole quanta and `rem` of 2^sh parts of one; up to k or k + 1 (R89, R90). -/
def roundUp (rm : Nat) (u : Nat) (neg : Bool) (k rem sh : Nat) : Bool :=
  if rem == 0 then false
  else match rm with
    | 0 => decide (2 * rem > 2 ^ sh) || (2 * rem == 2 ^ sh && k % 2 == 1)
    | 1 => false
    | 2 => neg
    | 3 => !neg
    | 4 => decide (2 * rem ≥ 2 ^ sh)
    | _ => decide (u < rem * 2 ^ 24 / 2 ^ sh)

/-- A pattern of magnitude `mag` with a sign, in a floating format. -/
def signed (f : Format) (neg : Bool) (mag : Nat) : Nat := mag + if neg then 2 ^ (fmtWidth f - 1) else 0

/-- The result and flags of an overflow (R92). -/
def overflowResult (f : Format) (env : RoundEnv) (neg : Bool) : Nat × Flags :=
  if env.sat || !(fmtHasInf f || f == .e4m3) then (signed f neg (fmtMax f), flagOVF ||| flagSATD ||| flagINX)
  else
    let toInf := match env.rm with
      | 1 => false
      | 2 => neg
      | 3 => !neg
      | _ => true
    let infPat := if f == .e4m3 then fmtNaN f else signed f neg (fmtMax f + 1)
    (if toInf then infPat else signed f neg (fmtMax f), flagOVF ||| flagINX)

/-- A signed integer's pattern in an integer format. -/
def intPattern (f : Format) (z : Int) : Nat := (z % (2 ^ fmtWidth f : Int)).toNat

/-- The least and greatest value a rounding to an integer format leaves unclamped (R92). -/
def intRange : Format → Int × Int
  | .i8 => (-127, 127)
  | .i4 => (-7, 7)
  | .n32 => (0, 2 ^ 32 - 1)
  | .i32 | .f32 | .f16 | .bf16 | .e4m3 | .e5m2 | .e3m2 | .e2m3 | .e2m1 => (-2 ^ 31, 2 ^ 31 - 1)

/-- The flags of a clamp to an integer format (R92). -/
def clampFlags (f : Format) : Flags := if f == .i8 || f == .i4 then flagSATD else flagINV

/-- The result of a NaN input (R92). -/
def nanResult (f : Format) : Nat × Flags :=
  match f with
  | .f32 | .f16 | .bf16 | .e5m2 | .e4m3 => (fmtNaN f, 0)
  | .e3m2 | .e2m3 | .e2m1 | .i8 | .i4 => (0, flagNNAR)
  | .i32 | .n32 => (0, flagINV)

/-- The result of an infinite input (R92). -/
def infResult (f : Format) (env : RoundEnv) (neg : Bool) : Nat × Flags :=
  if fmtIsInt f then
    let r := intRange f
    (intPattern f (if neg then r.1 else r.2), clampFlags f)
  else if fmtHasInf f then
    if env.sat then (signed f neg (fmtMax f), flagSATD) else (signed f neg (fmtMax f + 1), 0)
  else if f == .e4m3 then
    if env.sat then (signed f neg (fmtMax f), flagSATD) else (fmtNaN f, flagINV)
  else (signed f neg (fmtMax f), flagSATD)

/-- R94: the one rounding of every instruction and engine.  `u` is the draw of the generator, read only under STO
(R90); the result is the pattern and the flags raised. -/
def roundTo (f : Format) (env : RoundEnv) (u : Nat) (v : Ext) : Nat × Flags :=
  match v with
  | .nan => nanResult f
  | .inf neg => infResult f env neg
  | .fin neg m e =>
    if m == 0 then (if fmtIsInt f then 0 else signed f neg 0, 0)
    else if fmtIsInt f then
      let sh := (-e).toNat
      let k0 := if e < 0 then m / 2 ^ sh else m * 2 ^ e.toNat
      let rem := if e < 0 then m % 2 ^ sh else 0
      let k := if roundUp env.rm u neg k0 rem sh then k0 + 1 else k0
      let z : Int := if neg then -(k : Int) else k
      let r := intRange f
      if z < r.1 then (intPattern f r.1, clampFlags f)
      else if r.2 < z then (intPattern f r.2, clampFlags f)
      else (intPattern f z, flagIf (rem != 0) flagINX)
    else
      let M := fmtMant f
      let emin : Int := 1 - (fmtBias f : Int)
      let E : Int := (Nat.log2 m : Int) + e
      let q : Int := max E emin - M
      let sh := (q - e).toNat
      let k0 := if e < q then m / 2 ^ sh else m * 2 ^ (e - q).toNat
      let rem := if e < q then m % 2 ^ sh else 0
      let k := if roundUp env.rm u neg k0 rem sh then k0 + 1 else k0
      let mag := (q - (emin - M)).toNat * 2 ^ M + k
      let inx := rem != 0
      if fmtMax f < mag then overflowResult f env neg
      else
        let tiny := decide (E < emin)
        let fl := flagIf inx flagINX ||| flagIf (tiny && inx) flagUNF
        if fmtIsWide f && env.ftz && mag != 0 && decide (mag < 2 ^ M) then
          (signed f neg 0, fl ||| flagUNF ||| flagINX)
        else (signed f neg mag, fl)

/-! ### The stochastic generator (R90) -/

/-- One step of a lane's generator (R90). -/
def genStep (g : Word) : Word :=
  let g := g ^^^ (g <<< 13)
  let g := g ^^^ (g >>> 17)
  g ^^^ (g <<< 5)

/-- The draw of a stepped generator (R90). -/
def genDraw (g : Word) : Nat := g.toNat / 256

/-- A rounding in a lane: under STO (5) the lane's generator steps once and its draw decides (R90, R94). -/
def roundLane (f : Format) (env : RoundEnv) (g : Word) (v : Ext) : Nat × Flags × Word :=
  if env.rm == 5 then
    let g' := genStep g
    let r := roundTo f env (genDraw g') v
    (r.1, r.2, g')
  else
    let r := roundTo f env 0 v
    (r.1, r.2, g)

/-! ### Minimum and maximum (R216) -/

/-- The operand R216 chooses: the other operand when exactly one is NaN, -0 below +0; NaN when both are. -/
def extPick (greater : Bool) (a b : Ext) : Ext :=
  if extIsNaN a then b
  else if extIsNaN b then a
  else if greater then (if extLess a b then b else a) else (if extLess b a then b else a)

/-- MIN and MAX of two patterns of a wide format: one operand's value after DAZ, not rounded, never flushed (R216). -/
def minMaxBits (f : Format) (daz greater : Bool) (a b : Nat) : Nat × Flags :=
  let x := readFloat f daz a
  let y := readFloat f daz b
  let v := extPick greater x.1 y.1
  (match v with
    | .nan => fmtNaN f
    | .inf s => signed f s (fmtMax f + 1)
    | .fin s m e => (roundTo f ⟨1, false, false⟩ 0 (.fin s m e)).1, x.2 ||| y.2)

/-! ### Sums of products (R103, R104) -/

/-- The exact sum of products, with the flags of its products and of the sum (R88, R103). -/
def dotExact (rdn : Bool) (acc : List Ext) (ps : List (Ext × Ext)) : Ext × Flags :=
  let prods := ps.map (fun p => extMul p.1 p.2)
  let s := extSum rdn (acc ++ prods.map Prod.fst)
  (s.1, prods.foldl (fun f p => f ||| p.2) s.2)

/-- The groups of sixteen of a list, in order (R104); `fuel` bounds the number of groups. -/
def groups16 {α : Type} : Nat → List α → List (List α)
  | 0, _ => []
  | n + 1, l => if l.isEmpty then [] else l.take 16 :: groups16 n (l.drop 16)

/-- The rounding environment of an engine: STO reads as RNE (R91). -/
def engineEnv (rm : Nat) (sat ftz : Bool) : RoundEnv := ⟨if rm == 5 then 0 else rm, sat, ftz⟩

/-- R104: one output element accumulated over k in groups of sixteen, each group sum and each addition rounded once
to the accumulate format; the flags of all roundings together. -/
def mmaElement (f : Format) (env : RoundEnv) (acc : Ext) (ps : List (Ext × Ext)) : Ext × Flags :=
  (groups16 ps.length ps).foldl (fun st grp =>
    let s := dotExact (env.rm == 2) [] grp
    let r := roundTo f env 0 s.1
    let t := extSum (env.rm == 2) [st.1, decodeFmt f r.1]
    let q := roundTo f env 0 t.1
    (decodeFmt f q.1, st.2 ||| s.2 ||| r.2 ||| t.2 ||| q.2)) (acc, 0)

/-! ### Block scales and companding (R98 to R100) -/

/-- emax of R98. -/
def fmtEmax : Format → Int
  | .e4m3 => 8 | .e5m2 => 15 | .e3m2 => 4 | .e2m3 => 2 | .e2m1 => 2 | .i8 => 6 | .i4 => 2
  | .f32 => 0 | .f16 => 0 | .bf16 => 0 | .i32 => 0 | .n32 => 0

/-- floor(log2 |v|) of a nonzero finite value, with an infinity counted as the largest finite FP32 (R98). -/
def extLog2 : Ext → Int
  | .nan => 0
  | .inf _ => 127
  | .fin _ m e => (Nat.log2 m : Int) + e

/-- The E8M0 scale of a block (R98). -/
def blockScale (f : Format) (xs : List Ext) : Nat :=
  if xs.any extIsNaN then 0xFF
  else
    let nz := xs.filter (fun x => !extIsZero x)
    match nz with
    | [] => 0
    | y :: ys =>
      let X := ys.foldl (fun a x => max a (extLog2 x)) (extLog2 y) - fmtEmax f
      ((if X < -127 then -127 else if 127 < X then 127 else X) + 127).toNat

/-- A segment of a companding table: breakpoint, slope and offset in FP32 (R100). -/
structure CompandSeg where
  b : Word
  s : Word
  o : Word
  deriving DecidableEq, Repr, Inhabited

/-- The environment of an exact widening to FP32. -/
def exactEnv : RoundEnv := ⟨0, false, false⟩

/-- R100: a companding table of sixteen segments applied to a value under FMT.SAT.  Its internal roundings are RNE, flush
nothing and drop their flags. -/
def compand (sat : Bool) (tab : List CompandSeg) (x : Ext) : Ext :=
  match x with
  | .nan => .nan
  | .inf s => .inf s
  | .fin neg m e =>
    let a : Ext := .fin false m e
    let cands := tab.filter (fun g =>
      let b := decodeFmt .f32 g.b.toNat
      extLess b a || extEq b a)
    let seg := match cands.getLast? with
      | some g => g
      | none => tab.headD default
    let env : RoundEnv := ⟨0, sat, false⟩
    let d := decodeFmt .f32 (roundTo .f32 env 0
      (extSum false [a, extFlip (decodeFmt .f32 seg.b.toNat)]).1).1
    let y := decodeFmt .f32 (roundTo .f32 env 0
      (extSum false [(extMul (decodeFmt .f32 seg.s.toNat) d).1, decodeFmt .f32 seg.o.toNat]).1).1
    if neg then extFlip y else y

/-- The value of an E8M0 code times an exact value; code 0xFF is NaN (R83, R99). -/
def scaleE8 (e : Nat) (x : Ext) : Ext := if e == 0xFF then .nan else extScale ((e : Int) - 127) x

/-! ### Integer square root, for correctly rounded roots -/

/-- The greatest r with r·r ≤ n whose bits lie below `bits`, built from the top bit down. -/
def isqrtBits (n : Nat) : Nat → Nat → Nat
  | 0, r => r
  | k + 1, r =>
    let r' := r + 2 ^ k
    isqrtBits n k (if r' * r' ≤ n then r' else r)

/-- The integer square root. -/
def isqrt (n : Nat) : Nat := isqrtBits n (Nat.log2 n / 2 + 1) 0

/-- The exact quotient m · 2^e over n · 2^f to at least `prec` bits, the last bit set when anything was cut off. -/
def quotSticky (prec m : Nat) (e : Int) (n : Nat) (f : Int) : Nat × Int :=
  let sh := prec + Nat.log2 n + 1
  let num := m * 2 ^ sh
  (2 * (num / n) + (if num % n == 0 then 0 else 1), e - f - sh - 1)

/-- The square root of m · 2^e to at least `prec` bits, the last bit set when anything was cut off. -/
def sqrtSticky (prec m : Nat) (e : Int) : Nat × Int :=
  let odd := e % 2 == 1
  let m' := if odd then 2 * m else m
  let e' := if odd then e - 1 else e
  let num := m' * 2 ^ (2 * prec)
  let r := isqrt num
  (2 * r + (if r * r == num then 0 else 1), e' / 2 - prec - 1)

end Sys2Proof.Machine
end

