-- ==== Sys2Proof/Machine/Legal.lean ====
section
/-! DEFINITION. Which encodings are legal: the operand fields of every instruction (R53 to R62, R68 to R73 and the
operand tables of the engines' chapters), the checks each field must pass in a context with given VREGS and SREGS
(R56, R60, R67), and how many of its operand fields read the literal (R64). -/

namespace Sys2Proof.Machine

/-- An 8-bit operand code names a register below the card's VREGS or SREGS, or names no register (R57, R60). -/
def regBound (v s : Nat) (c : BitVec 8) : Bool :=
  if c.toNat < 0x80 then c.toNat < v else if c.toNat < 0xC0 then c.toNat - 0x80 < s else true

/-- The code varies per lane: a lane register, LANE or OCT (R57, R208). -/
def laneVarying (c : BitVec 8) : Bool :=
  c.toNat < 0x80 || c.toNat == 0xE0 || c.toNat == 0xEC

/-- The code is one of the reserved 0xF0 to 0xFE (R57, R67). -/
def reservedCode (c : BitVec 8) : Bool := 0xF0 ≤ c.toNat && c.toNat ≤ 0xFE

/-- An F3 destination that makes the instruction scalar (R61). -/
def scalarDst (d : BitVec 8) : Bool :=
  (0x80 ≤ d.toNat && d.toNat < 0xC0) || (0xE4 ≤ d.toNat && d.toNat ≤ 0xE8)

/-- The S field of a compact instruction as an operand code (R55). -/
def compactSrc (s : BitVec 6) : BitVec 8 :=
  if s.toNat < 32 then s.setWidth 8 else BitVec.ofNat 8 (0x80 + (s.toNat - 32))

/-- One operand field, as an instruction's description reads it. -/
inductive Opd where
  | src (c : BitVec 8)              -- a 32-bit source (R57)
  | src64 (c : BitVec 8)            -- a 64-bit source (R58, R60)
  | uni (c : BitVec 8)              -- a uniform 32-bit source (R208)
  | dst (c : BitVec 8)              -- a 32-bit F3 destination (R61, R62)
  | dst64 (c : BitVec 8)            -- a 64-bit destination pair (R60)
  | dstFi (c : BitVec 8)            -- an FI destination (R62, R238)
  | scal (d c : BitVec 8)           -- the source c of an F3 instruction with destination d (R61)
  | lanes (c : BitVec 8) (n al : Nat)   -- n lane registers from c, c a multiple of al
  | lanesTo (c : BitVec 8) (n al : Nat) -- as lanes, the destination of a load (R249)
  | sregs (c : BitVec 8) (n al : Nat)   -- n s-registers from c, the number a multiple of al
  | addr64 (c : BitVec 8)           -- a v or s pair holding an address (R249)
  | off32 (c : BitVec 8)            -- v, s, constant or literal holding an offset (R249)
  | storeSrc (c : BitVec 8) (n : Nat)   -- a store source of n words (R251)
  | storeU (c : BitVec 8) (n : Nat)     -- STU's source of n words (R249, R251)
  | sleep (c : BitVec 8)            -- CTL.SLEEP's X (R241)
  | raw (ok : Bool)                 -- a field read raw, with its check
  deriving DecidableEq, Repr

/-- n s-registers from code c, the number a multiple of al, all below SREGS. -/
def sregsOk (s : Nat) (c : BitVec 8) (n al : Nat) : Bool :=
  0x80 ≤ c.toNat && (c.toNat - 0x80) % al == 0 && c.toNat - 0x80 + n ≤ s && c.toNat < 0xC0

/-- n lane registers from code c, the number a multiple of al, all below VREGS. -/
def lanesOk (v : Nat) (c : BitVec 8) (n al : Nat) : Bool :=
  c.toNat < 0x80 && c.toNat % al == 0 && c.toNat + n ≤ v

/-- A source code that is not reserved and names no register out of bounds (R60, R67). -/
def srcOk (v s : Nat) (c : BitVec 8) : Bool := !reservedCode c && regBound v s c

/-- The check of one operand field under the card's VREGS and SREGS. -/
def Opd.ok (v s : Nat) : Opd → Bool
  | .src c => srcOk v s c
  | .src64 c =>
    if c.toNat < 0x80 then lanesOk v c 2 2 else if c.toNat < 0xC0 then sregsOk s c 2 2
    else !reservedCode c && !(0xD0 ≤ c.toNat && c.toNat ≤ 0xDF)
  | .uni c => srcOk v s c && !laneVarying c
  | .dst c => (c.toNat < 0xC0 && regBound v s c) || (0xE4 ≤ c.toNat && c.toNat ≤ 0xE8)
  | .dst64 c => lanesOk v c 2 2 || sregsOk s c 2 2
  | .dstFi c => c.toNat < 0xC0 && regBound v s c
  | .scal d c => !(scalarDst d && laneVarying c)
  | .lanes c n al => lanesOk v c n al
  | .lanesTo c n al => lanesOk v c n al
  | .sregs c n al => sregsOk s c n al
  | .addr64 c => lanesOk v c 2 2 || sregsOk s c 2 2
  | .off32 c => (c.toNat < 0xE0 && regBound v s c) || c.toNat == 0xFF
  | .storeSrc c n => if n == 1 then srcOk v s c && (c.toNat < 0x80 || !laneVarying c) else lanesOk v c n n
  | .storeU c n => if n == 1 then srcOk v s c && !laneVarying c else sregsOk s c n n
  | .sleep c => sregsOk s c 1 1 || (0xC0 ≤ c.toNat && c.toNat ≤ 0xCF) || c.toNat == 0xFF
  | .raw ok => ok

/-- How many times the field reads the literal: once for the code 0xFF in an operand field (R57, R64). -/
def Opd.lits : Opd → Nat
  | .src c => if c.toNat == 0xFF then 1 else 0
  | .src64 c => if c.toNat == 0xFF then 1 else 0
  | .uni c => if c.toNat == 0xFF then 1 else 0
  | .off32 c => if c.toNat == 0xFF then 1 else 0
  | .storeSrc c _ => if c.toNat == 0xFF then 1 else 0
  | .storeU c _ => if c.toNat == 0xFF then 1 else 0
  | .sleep c => if c.toNat == 0xFF then 1 else 0
  | .dst _ => 0
  | .dst64 _ => 0
  | .dstFi _ => 0
  | .scal _ _ => 0
  | .lanes _ _ _ => 0
  | .lanesTo _ _ _ => 0
  | .sregs _ _ _ => 0
  | .addr64 _ => 0
  | .raw _ => 0

/-- The fields of an F3 instruction with two 32-bit sources (R61). -/
def f3 (d a b : BitVec 8) : List Opd := [.dst d, .src a, .src b, .scal d a, .scal d b]
/-- The fields of an F3 instruction with one 32-bit source (R61, R207). -/
def f3u (d a : BitVec 8) : List Opd := [.dst d, .src a, .scal d a]

/-- The registers of one lane that an access of size code SZ names (R250). -/
def accWords (z : BitVec 3) : Nat := if z.toNat == 5 then 2 else if z.toNat == 6 then 4 else 1
/-- The size codes of a load (R250). -/
def loadSize (z : BitVec 3) : Bool := z.toNat != 7
/-- The size codes of a store (R250). -/
def storeSize (z : BitVec 3) : Bool := z.toNat != 7 && z.toNat != 2 && z.toNat != 4
/-- The registers of one lane that an atomic names: v, and for CAS also c (R258). -/
def atomWords (p : BitVec 4) (w : BitVec 1) : Nat := (if p.toNat == 12 then 2 else 1) * (w.toNat + 1)
/-- The operations of an atomic that exist in its width (R257). -/
def atomOp (p : BitVec 4) (w : BitVec 1) : Bool :=
  p.toNat != 15 && !(w.toNat == 1 && (p.toNat == 1 || p.toNat == 6 || p.toNat == 7 || p.toNat == 13 || p.toNat == 14))
/-- The operations RED has (R257). -/
def redOp (p : BitVec 4) : Bool := p.toNat != 11 && p.toNat != 12
/-- The options of CPY: P needs DS (R274). -/
def copyOpts (f : BitVec 4) : Bool := !(f.getLsbD 2 && !f.getLsbD 1)
/-- The formats of a view, a constant or a store of the deferred tile engine (R386). -/
def tileFmt (f : BitVec 4) : Bool :=
  f.toNat ≤ 3 || f.toNat == 7 || f.toNat == 15
/-- The binary operations of TOP (R73). -/
def topBinary (p : BitVec 6) : Bool := p.toNat ≤ 4 || p.toNat == 0x10 || p.toNat == 0x11
/-- The operations of TOP (R73). -/
def topOp (p : BitVec 6) : Bool :=
  topBinary p || (0x08 ≤ p.toNat && p.toNat ≤ 0x0F) || (0x18 ≤ p.toNat && p.toNat ≤ 0x1B) || p.toNat == 0x20
/-- The number of parameter registers of a map (R73). -/
def tmapParams (p : BitVec 6) : Nat :=
  match p.toNat with
  | 1 => 4 | 2 => 1 | 3 => 1 | 4 => 2 | 5 => 4 | 6 => 2 | 7 => 2 | _ => 0
/-- The fields of TMAP: the parameters are s-registers from number B (R73). -/
def tmapOpds (b p : BitVec 6) : List Opd :=
  [.raw (p.toNat ≤ 7),
   if tmapParams p == 0 then .raw (b == 0) else .sregs (BitVec.ofNat 8 (0x80 + b.toNat)) (tmapParams p) 1]
/-- The fields of MMOV by its COND (R69, R237). -/
def mmovOpds (m : BitVec 3) (c : BitVec 5) (a b : BitVec 8) : List Opd :=
  match c.toNat with
  | 0 => [.raw (a.toNat ≤ 8), .raw (b == 0)]
  | 1 => [.raw (a.toNat ≤ 8), .raw (b == 0), .raw (m == 0)]
  | 2 => [.sregs a 3 1, .raw (b == 0)]
  | 3 => [.sregs a 3 1, .raw (b == 0)]
  | 4 => [.sregs a 1 1, .raw (b == 0)]
  | 5 => [.sregs a 1 1, .raw (b == 0)]
  | _ => [.raw false]

/-- The operand fields of each instruction, with the checks on its raw fields.  The steps of the device have none. -/
def operands : Instr → List Opd
  | .movCompact d s => [.lanes (d.setWidth 8) 1 1, .src (compactSrc s)]
  | .addI32Compact d s => [.lanes (d.setWidth 8) 1 1, .src (compactSrc s)]
  | .subI32Compact d s => [.lanes (d.setWidth 8) 1 1, .src (compactSrc s)]
  | .andCompact d s => [.lanes (d.setWidth 8) 1 1, .src (compactSrc s)]
  | .orCompact d s => [.lanes (d.setWidth 8) 1 1, .src (compactSrc s)]
  | .xorCompact d s => [.lanes (d.setWidth 8) 1 1, .src (compactSrc s)]
  | .shlCompact d s => [.lanes (d.setWidth 8) 1 1, .src (compactSrc s)]
  | .shrN32Compact d s => [.lanes (d.setWidth 8) 1 1, .src (compactSrc s)]
  | .addF32Compact d s => [.lanes (d.setWidth 8) 1 1, .src (compactSrc s)]
  | .subF32Compact d s => [.lanes (d.setWidth 8) 1 1, .src (compactSrc s)]
  | .mulF32Compact d s => [.lanes (d.setWidth 8) 1 1, .src (compactSrc s)]
  | .maxF32Compact d s => [.lanes (d.setWidth 8) 1 1, .src (compactSrc s)]
  | .minF32Compact d s => [.lanes (d.setWidth 8) 1 1, .src (compactSrc s)]
  | .addF16x2Compact d s => [.lanes (d.setWidth 8) 1 1, .src (compactSrc s)]
  | .mulF16x2Compact d s => [.lanes (d.setWidth 8) 1 1, .src (compactSrc s)]
  | .shrI32Compact d s => [.lanes (d.setWidth 8) 1 1, .src (compactSrc s)]
  | .addI32 d a b => f3 d a b
  | .subI32 d a b => f3 d a b
  | .mulI32 d a b => f3 d a b
  | .mulhiI32 d a b => f3 d a b
  | .mulhiN32 d a b => f3 d a b
  | .madI32 d a b => f3 d a b
  | .minI32 d a b => f3 d a b
  | .maxI32 d a b => f3 d a b
  | .minN32 d a b => f3 d a b
  | .maxN32 d a b => f3 d a b
  | .and d a b => f3 d a b
  | .or d a b => f3 d a b
  | .xor d a b => f3 d a b
  | .andn d a b => f3 d a b
  | .shl d a b => f3 d a b
  | .shrN32 d a b => f3 d a b
  | .shrI32 d a b => f3 d a b
  | .rot d a b => f3 d a b
  | .bfx d a b => f3 d a b
  | .bfi d a b => f3 d a b
  | .bitu d a f => f3u d a ++ [.raw (f.toNat ≤ 4)]
  | .addI64 d a b => [.dst64 d, .src64 a, .src64 b, .scal d a, .scal d b]
  | .subI64 d a b => [.dst64 d, .src64 a, .src64 b, .scal d a, .scal d b]
  | .madN64N32 d a b => [.dst64 d, .src a, .src b, .scal d a, .scal d b]
  | .addF32 d a b => f3 d a b
  | .subF32 d a b => f3 d a b
  | .mulF32 d a b => f3 d a b
  | .fmaF32 d a b => f3 d a b
  | .minF32 d a b => f3 d a b
  | .maxF32 d a b => f3 d a b
  | .addF16x2 d a b => f3 d a b
  | .mulF16x2 d a b => f3 d a b
  | .fmaF16x2 d a b => f3 d a b
  | .addBf16x2 d a b => f3 d a b
  | .fmaBf16x2 d a b => f3 d a b
  | .maxF16x2 d a b => f3 d a b
  | .funF32 d a f => f3u d a ++ [.raw (f.toNat ≤ 8)]
  | .mov64 d a => [.dst64 d, .src64 a, .scal d a]
  | .cvt d a c => f3u d a ++ [.raw (c.toNat ≤ 10)]
  | .cvtp d a b => f3 d a b
  | .qnt d a b => f3 d a b
  | .dqn d a b => f3 d a b
  | .sel d a b => f3 d a b
  | .shfl d a b => [.lanes d 1 1, .src a, .src b]
  | .rdlane d a b => [.dst d, .lanes a 1 1, .uni b]
  | .wrlane d a b => [.lanes d 1 1, .uni a, .uni b]
  | .wred d a f => [.dst d, .lanes a 1 1, .raw (f.toNat ≤ 10)]
  | .wscan d a f => [.lanes d 1 1, .src a, .raw (f.toNat ≤ 10)]
  | .cmpI32 _ c a b => [.raw (c.toNat ≤ 5), .src a, .src b]
  | .cmpN32 _ c a b => [.raw (c.toNat ≤ 5), .src a, .src b]
  | .cmpF32 _ c a b => [.raw (c.toNat ≤ 7), .src a, .src b]
  | .test _ c a b => [.raw (c.toNat ≤ 1), .src a, .src b]
  | .mop _ c a b => [.raw (c.toNat ≤ 5), .raw (a.toNat ≤ 8), .raw (if c.toNat ≤ 3 then b.toNat ≤ 8 else b = 0)]
  | .mmov m c a b => mmovOpds m c a b
  | .movi d _ => [.dstFi d]
  | .movhi d _ => [.dstFi d]
  | .addi d _ => [.dstFi d]
  | .andi d _ => [.dstFi d]
  | .ori d _ => [.dstFi d]
  | .bra _ => []
  | .brany _ _ => []
  | .brall _ _ => []
  | .brs _ _ => []
  | .joinat _ _ => []
  | .call _ => []
  | .ctlJmpr a => [.sregs a 2 2]
  | .ctlReord n a b => [.lanes a 1 1, .lanes b (n.toNat + 1) 1]
  | .ctlSleep a => [.sleep a]
  | .dot4I8 d a b => f3 d a b
  | .dot4N8 d a b => f3 d a b
  | .dot8I4 d a b => f3 d a b
  | .dot4F8 d a b => f3 d a b
  | .dot8F4 d a b => f3 d a b
  | .dot2F16 d a b => f3 d a b
  | .dot2Bf16 d a b => f3 d a b
  | .sclx d a => f3u d a
  | .ld d a z _ => [.lanesTo d (accWords z) (accWords z), .addr64 a, .raw (loadSize z)]
  | .st d a z _ => [.storeSrc d (accWords z), .addr64 a, .raw (storeSize z)]
  | .lds d a z _ => [.lanesTo d (accWords z) (accWords z), .off32 a, .raw (loadSize z)]
  | .sts d a z _ => [.storeSrc d (accWords z), .off32 a, .raw (storeSize z)]
  | .ldc d a z _ => [.lanesTo d (accWords z) (accWords z), .off32 a, .raw (loadSize z)]
  | .stp d a z _ => [.storeSrc d (accWords z), .off32 a, .raw (storeSize z)]
  | .atom d a p w => [.lanesTo d (atomWords p w) (atomWords p w), .addr64 a, .raw (atomOp p w)]
  | .red d a p w => [.storeSrc d (w.toNat + 1), .addr64 a, .raw (atomOp p w && redOp p)]
  | .atoms d a p w => [.lanesTo d (atomWords p w) (atomWords p w), .off32 a, .raw (atomOp p w)]
  | .ldu d a z _ => [.sregs d (accWords z) (accWords z), .sregs a 2 2, .raw (loadSize z)]
  | .stu d a z _ => [.storeU d (accWords z), .sregs a 2 2, .raw (storeSize z)]
  | .ldrec d a w n => [.sregs d (n.toNat + 1) 1, .uni a, .raw (w.toNat + n.toNat + 1 ≤ 8)]
  | .barInit a b => [.uni a, .sregs b 2 2]
  | .barArrive a b => [.uni a, .uni b]
  | .barExpect a b => [.uni a, .uni b]
  | .barArrivex a b => [.uni a, .uni b]
  | .barWait a b => [.uni a, .uni b]
  | .barWaitt _ a b => [.uni a, .sregs b 2 2]
  | .barTest _ a b => [.uni a, .uni b]
  | .barEnroll a => [.uni a]
  | .barDrop a => [.uni a]
  | .barInval a => [.uni a]
  | .pbarArrive a b => [.sregs a 1 1, .sregs b 1 1]
  | .pbarWait a b => [.sregs a 1 1, .sregs b 1 1]
  | .pbarTest _ a b => [.sregs a 1 1, .sregs b 1 1]
  | .fenceOpc => []
  | .fenceIfetch => []
  | .fenceAsync => []
  | .cpyLin f a => [.sregs a 8 8, .raw (copyOpts f)]
  | .cpyTile f a => [.sregs a 8 8, .raw (copyOpts f)]
  | .cpyGather f a => [.sregs a 8 8, .raw (copyOpts f)]
  | .cpyScatter f a => [.sregs a 8 8, .raw (copyOpts f && !f.getLsbD 2)]
  | .cpyXform f a => [.sregs a 8 8, .raw (copyOpts f)]
  | .cpyFill f a => [.sregs a 8 8, .raw (copyOpts f && !f.getLsbD 0)]
  | .cbatchSeal a => [.sregs a 1 1]
  | .cbatchWait a => [.uni a]
  | .cbatchTest _ a => [.uni a]
  | .mmao t _ a b => [.raw (t.toNat ≤ 6), .lanes a 1 1, .lanes b 1 1]
  | .mmat t _ a => [.raw (t.toNat ≤ 6), .sregs a 4 4]
  | .wbufLoad _ a => [.sregs a 8 8]
  | .wbufMcast _ a => [.sregs a 8 8]
  | .wbufInval _ => []
  | .wbufQuery _ a => [.sregs a 2 2]
  | .tsmovToreg n a b => [.sregs a 1 1, .lanes b (n.toNat + 1) 1]
  | .tsmovFromreg n a b => [.sregs a 1 1, .lanes b (n.toNat + 1) 1]
  | .tsmovTomem a b => [.sregs a 4 4, .sregs b 1 1]
  | .tsmovFrommem a b => [.sregs a 4 4, .sregs b 1 1]
  | .tdefView f a b => [.raw (a.toNat ≤ 63), .sregs b 8 8, .raw (tileFmt f)]
  | .tdefConst a b => [.raw (a.toNat ≤ 63), .sregs b 2 2]
  | .top _ _ b p => [.raw (topOp p), .raw (topBinary p || b = 0)]
  | .tmap _ _ b p => tmapOpds b p
  | .tdemStore f a b => [.raw (a.toNat ≤ 63), .sregs b 8 8, .raw (tileFmt f)]
  | .tdemForce a b => [.raw (a.toNat ≤ 63), .sregs b 8 8]
  | .tdemDrop a => [.raw (a.toNat ≤ 63)]
  | .tdemQuery a b => [.raw (a.toNat ≤ 63), .sregs b 2 2]
  | .tdemDiscard b => [.sregs b 1 1]
  | .chBind a b => [.sregs a 4 4, .sregs b 2 2]
  | .chBond a b => [.uni a, .raw (b.toNat ≤ 31)]
  | .chMode a b => [.uni a, .raw (b.toNat ≤ 31)]
  | .chStep a => [.sregs a 2 2]
  | .chRun a b => [.sregs a 2 2, .uni b]
  | .chEnv a => [.uni a]
  | .chQuery a => [.sregs a 4 4]
  | .chReset => []
  | .traceClosest _ a b => [.lanes a 8 8, .sregs b 2 2]
  | .traceAny _ a b => [.lanes a 8 8, .sregs b 2 2]
  | .traceQuery a => [.sregs a 2 2]
  | .smpBil a b => [.lanes a 4 4, .uni b]
  | .smpPt a b => [.lanes a 4 4, .uni b]
  | .smpGather4 _ a b => [.lanes a 4 4, .uni b]
  | .jobLaunch a b => [.sregs a 2 2, .sregs b 2 2]
  | .jobNext a => [.sregs a 4 4]
  | .jobTrig => []
  | .jobDepwait a => [.sregs a 1 1]
  | .jobExit => []
  | .jobExits a => [.sregs a 2 2]
  | .jobYield => []
  | .jobYieldonBar a b => [.sregs a 2 2, .sregs b 2 2]
  | .jobYieldonFlg a b => [.sregs a 2 2, .sregs b 1 1]
  | .sysTrap a => [.uni a]
  | .sysEret => []
  | .sysCtlrd a b => [.sregs a 1 1, .uni b]
  | .sysCtlwr a b => [.uni a, .uni b]
  | .sysParkrd a b => [.sregs a 1 1, .uni b]
  | .sysParkwr a b => [.uni a, .sregs b 1 1]
  | .sysWatch _ a => [.sregs a 4 4]
  | .sysTlbinv a => [.sregs a 4 4]
  | .sysHalt => []
  | .lit _ => []
  | .clauseBegin => []
  | .fragmentAged _ => []
  | .sleepExpire _ => []
  | .waittTimeout _ => []
  | .loadComplete _ _ => []
  | .storeComplete _ _ => []
  | .fullEmptyRetest _ _ => []
  | .hubFlush _ => []
  | .qlaunch _ _ => []
  | .cardRead _ _ => []
  | .crewPlace _ => []
  | .placementHold _ => []
  | .preqExpire _ => []
  | .crewSave _ => []
  | .crewResume _ _ _ => []
  | .waveRetire _ _ => []
  | .doneWrite _ => []
  | .copyUnit _ _ _ => []
  | .copyComplete _ _ => []
  | .getin _ _ => []
  | .putout _ _ => []
  | .endRoutine _ _ => []
  | .args _ _ => []
  | .routineFault _ _ => []
  | .wbufComplete _ _ => []
  | .mmaoComplete _ _ => []
  | .mmatComplete _ _ => []
  | .tsmovComplete _ _ => []
  | .materialise _ _ => []
  | .demandBlock _ _ _ => []
  | .tdemComplete _ _ => []
  | .chainStep _ => []
  | .chainComplete _ _ => []
  | .traceComplete _ _ => []
  | .smpComplete _ _ => []
  | .salamanderBatch _ => []
  | .pageArrive _ _ _ => []
  | .atsCompletion _ _ => []
  | .atsInvalidation _ _ _ _ => []
  | .invalidationComplete _ => []
  | .prgResponse _ _ => []
  | .wrapClear _ => []
  | .cxctl _ _ => []
  | .cxfresp _ _ => []
  | .cxinvc _ _ => []
  | .cxpre _ _ => []
  | .cxfq _ _ => []
  | .cxcwn _ _ => []
  | .cxcwdRead _ => []
  | .cxcwdWrite _ _ => []
  | .hostWrite _ _ => []
  | .snoop _ _ => []
  | .backInvalidation _ _ => []
  | .counterDecay => []
  | .frameFill _ => []
  | .frameDrain _ _ => []
  | .l2Evict _ => []
  | .hbmUncorrectable _ => []
  | .poolFail _ _ _ => []
  | .hostLinkDown => []
  | .hostLinkUp => []
  | .pcclr _ => []
  | .pcclrDone => []
  | .pcmark _ _ => []
  | .keyctl _ => []
  | .keyInstall => []
  | .pooldec _ _ => []
  | .rtload _ => []
  | .fwload _ => []
  | .imageLoadDone => []
  | .attest _ => []
  | .fsclr _ => []
  | .reset => []
  | .startupStep _ _ => []
  | .startupTimeout _ => []
  | .portFail _ => []
  | .pwrlim _ => []
  | .powerCheck _ => []
  | .registerWrite _ _ => []
  | .cxfqhead _ _ => []
  | .tracePark _ _ => []
  | .smpPark _ _ => []

/-- R60, R61, R62, R64, R67 to R71, R73 and R207, R208: the encoding is legal under the card's VREGS and SREGS,
literals aside. -/
def legalIn (v s : Nat) (i : Instr) : Bool := (operands i).all (Opd.ok v s)

/-- How many operand fields of the instruction read the literal (R64). -/
def litUses (i : Instr) : Nat := ((operands i).map Opd.lits).sum

end Sys2Proof.Machine
end

