-- ==== Sys2Proof/Machine/CacheState.lean ====
section
/-! DEFINITION. The plain data of the memory side: frames, the lines L2 holds, access counters, chunks and the
registers of the page cache (R460 to R471). -/

namespace Sys2Proof.Machine

/-- The states of a frame (R460); a page without a frame is Uncached. -/
inductive FrameState where
  | filling | resident | draining
  deriving DecidableEq, Repr, Inhabited

/-- A frame: the tags of its 32 lines (R466; ABSENT where not listed), the lines that differ from their backing, and
the chunks it occupies (R468). -/
structure Frame where
  die    : Nat
  state  : FrameState
  tags   : List (Nat × Nat)
  dirty  : List Nat
  chunks : Nat
  taken  : List Nat        -- while it is Filling: the lines a snoop has taken from the device (R476)
  deriving DecidableEq, Repr, Inhabited

/-- The states of a line in L2 (R465). -/
inductive LineState where
  | sc | s | m
  deriving DecidableEq, Repr, Inhabited

/-- A line of a core's L1 data cache (R247): its core, the tag and generation it was made under (R311), its virtual and its
physical line, and its valid words, bit i for word i. -/
structure L1Line where
  core  : Nat
  tag   : Nat
  gen   : Nat
  vline : Nat
  pline : Nat
  valid : Nat
  deriving DecidableEq, Repr, Inhabited

/-- A die's block of page-cache registers (R471). -/
structure PcDie where
  free     : Nat
  low      : Nat
  high     : Nat
  fillstop : Bool
  refused  : Bool
  wbraw    : Bool
  fills    : Nat
  wb       : Nat
  fwd      : Nat
  deriving DecidableEq, Repr, Inhabited

/-- The page cache (R460 to R475). -/
structure PCache where
  frames   : List (Nat × Frame)        -- by page, physical address / 4096
  l2       : List (Nat × LineState)    -- by line, physical address / 128
  l1       : List L1Line               -- the lines of every core's L1, which are the reverse maps' records too (R247, R313)
  fillKey  : List (Nat × Nat)          -- by line, the KEY of the leaf it was last written or filled through (R467)
  pageKey  : List (Nat × Nat)          -- by page, the KEY of the leaf it was last reached through (R462)
  counters : List (Nat × (Nat × Nat))  -- by 64 KiB region: access counter and touch mask (R461)
  nocmp    : Bool
  promo    : Nat
  decay    : Nat
  decayAt  : Nat                       -- the clock at which the last halving was due
  clrPage  : Option Nat                -- the page a running clear clears (R475)
  clrLeft  : List Nat                  -- its lines still to be cleared, 0 to 31
  clrFail  : Bool
  dies     : List (Nat × PcDie)        -- by die, those that differ from the reset value
  deriving DecidableEq, Repr, Inhabited

/-- The page cache right after reset (R471). -/
def PCache.reset : PCache :=
  { frames := [], l2 := [], l1 := [], fillKey := [], pageKey := [], counters := [], nocmp := false, promo := 16, decay := 20, decayAt := 0, clrPage := none, clrLeft := [],
    clrFail := false, dies := [] }

/-- A die's block right after reset; FREE is set at start-up (R471). -/
def PcDie.reset : PcDie :=
  { free := 0, low := 65536, high := 131072, fillstop := false, refused := false, wbraw := false, fills := 0, wb := 0,
    fwd := 0 }

end Sys2Proof.Machine
end

