-- ==== Sys2Proof/Machine/Engines.lean ====
section
/-! DEFINITION. The plain data of the engines' operations: what each long-latency instruction holds between its issue
and its completion point. -/

namespace Sys2Proof.Machine

/-! ### Lane accesses (R249 to R264) -/

/-- One aligned event of a lane access of at most 8 bytes (R116). -/
structure Piece where
  lane   : Nat
  off    : Nat           -- its place in the lane's access: byte 0, 4, 8 ...
  va     : Nat           -- the virtual address, or the scratchpad offset
  pa     : Option Nat    -- where it lies; none before it is translated
  key    : Nat           -- the leaf's KEY
  size   : Nat
  x      : DWord         -- the data to store or to combine; then the data read
  c      : DWord         -- the comparand of CAS
  window : Bool          -- a windowed RED (R261)
  inHub  : Bool          -- it lies in a fabric hub
  parked : Bool
  absent : Bool          -- it is parked for want of its page
  done   : Bool
  skip   : Bool          -- a handler completed its lane itself (R339)
  deriving DecidableEq, Repr, Inhabited

/-- What a lane access does. -/
inductive MemKind where
  | load (z : Nat)                      -- with the SZ of R250
  | words                               -- LDREC, one word a piece
  | store
  | atomic (op w : Nat) (ret : Bool)    -- with OP and W of R257
  deriving DecidableEq, Repr, Inhabited

/-- A load, store or atomic in flight. -/
structure MemOp where
  kind    : MemKind
  scratch : Bool         -- scratchpad, else virtual memory
  scalar  : Bool         -- LDU, STU, LDREC
  dst     : Nat          -- the lowest destination register
  bits    : Option Bool  -- LDC waits for full lines, STP for empty ones (R263)
  lines   : List Nat     -- its line set
  taken   : Bool         -- the lines are taken
  pieces  : List Piece
  deriving DecidableEq, Repr, Inhabited

/-! ### The chain engine (R413 to R433) -/

/-- The chain state of a crew (R413). -/
structure ChainState where
  bd    : List (Nat × Nat)   -- the bd registers that differ from 1, by rising number
  md    : List (Nat × Nat)   -- the md registers that differ from 1
  bound : Bool
  desc  : DWord
  bbase : Nat
  bsz   : Nat
  modes : List Nat       -- L
  breg  : Nat
  bf    : Nat
  cur   : Nat
  bytes : Nat
  snap  : Nat
  deriving DecidableEq, Repr, Inhabited

/-- The chain state of a crew as it is placed (R413). -/
def ChainState.reset : ChainState :=
  { bd := [], md := [], bound := false, desc := 0#64, bbase := 0, bsz := 0,
    modes := [], breg := 0, bf := 0, cur := 0, bytes := 0, snap := 0 }

/-- A CH instruction that waits for its turn (R422). -/
inductive ChainItem where
  | bind (desc : DWord) (bbase bsz breg bf : Nat) (modes : List Nat) (bytes : Nat)
  | bond (r x : Nat)
  | mode (r x : Nat)
  | reset
  | op (id : Nat)
  deriving DecidableEq, Repr, Inhabited

/-- CH.STEP, CH.RUN or CH.ENV in flight (R421, R431). -/
structure ChainOp where
  sub   : Nat            -- 3 STEP, 4 RUN, 5 ENV
  x     : DWord          -- the step word, the program address or the tag
  n     : Word           -- the count
  steps : Nat            -- NSTEP
  sdone : Nat            -- SDONE
  word  : DWord          -- WORD
  phase : Nat            -- PHASE
  need  : Nat            -- NEED
  got   : Bool           -- the step word of the step in hand is read (R424, R432)
  entry : List Byte      -- its core's entry, read and checked (R419); empty before
  dst   : Option Nat     -- where its boundary goes, once it has passed the overflow test (R418)
  out   : Option (List Byte × List Nat)   -- its boundary, computed and being written, and its events by counter
  part  : List Nat       -- the words already written of the snapshot or boundary being written (R121)
  miss  : List Nat       -- the missing pages it met, by first address
  deriving DecidableEq, Repr, Inhabited

/-- A chain operation with no step done. -/
def ChainOp.start (sub : Nat) (x : DWord) (n : Word) (steps : Nat) (word : DWord) (got : Bool) : ChainOp :=
  { sub := sub, x := x, n := n, steps := steps, sdone := 0, word := word, phase := 0, need := 0, got := got,
    entry := [], dst := none, out := none, part := [], miss := [] }

/-- The step in hand is to be done again from its start, its step word and PHASE kept (R432, R433). -/
def ChainOp.restart (h : ChainOp) : ChainOp := { h with entry := [], dst := none, out := none, part := [] }

/-- The step in hand is done. -/
def ChainOp.next (h : ChainOp) : ChainOp :=
  { h.restart with sdone := h.sdone + 1, phase := 0, need := 0, got := h.sub == 3 }

/-! ### The copy engine and its transform core (R274 to R301) -/

/-- What the copy engine carries out. -/
inductive CopyKind where
  | cpy (sub opts : Nat)              -- CPY: SUB, and the options SS, DS, P, CR in bits 0 to 3 (R274)
  | wbuf (mcast : Bool) (slot : Nat)  -- WBUF.LOAD and WBUF.MCAST (R360)
  | tsmov (toMem : Bool) (stride : Nat)   -- TSMOV.TOMEM and TSMOV.FROMMEM (R377)
  deriving DecidableEq, Repr, Inhabited

/-- A transform routine under way (R290, R291). -/
structure Xform where
  routine : Nat
  image   : List Byte
  rv      : Config.RoutineState   -- of an installed routine or a standard decoder
  inpos   : Nat                   -- INPOS: input bytes consumed
  input   : List Byte             -- what QUANT and TRANSPOSE have read so far
  codes   : List Nat              -- the elements QUANT has quantised, each with one table (R102)
  scales  : List Nat              -- and the scales of their blocks
  pend    : List Byte             -- output appended and not yet written
  outb    : Nat                   -- OUTB: output bytes written
  sent    : Nat                   -- output bytes appended by PUTOUT
  full    : Bool                  -- output beyond the capacity was dropped
  code    : Option Nat            -- CODE, once the routine has ended
  call    : Option Nat            -- the call of R291 it is blocked in, rv its state there (R295)
  deriving DecidableEq, Repr, Inhabited

/-- A command of the copy engine. -/
structure CopyOp where
  kind  : CopyKind
  block : List Word      -- the block read at issue
  prog  : Nat            -- PROG
  map   : List Nat       -- the units complete at or above PROG
  part  : List (Nat × Nat)   -- the words written of units not yet complete: unit, word of memory or scratchpad (R121)
  line  : Option Nat     -- the destination line it has taken and not yet filled (R284)
  idx   : List (Nat × Nat)     -- the indices read for elements of a GATHER or SCATTER not yet complete (R280)
  filled : List Nat            -- the lines it has set full and no LDC has found so (R122)
  seenBy : List (Nat × Nat × Lanes)   -- the LDCs that have found one of its lines full: wave, number, lanes (R122)
  cred  : Nat            -- CRED
  miss  : List Nat
  data  : List Byte      -- what a WBUF load has read
  xf    : Option Xform
  xoff  : Option Nat     -- XOFF: the park-area offset of the transform record
  deriving DecidableEq, Repr, Inhabited

/-- A command as it is issued. -/
def CopyOp.start (kind : CopyKind) (block : List Word) (xf : Option Xform) : CopyOp :=
  { kind := kind, block := block, prog := 0, map := [], part := [], line := none, idx := [], filled := [], seenBy := [], cred := 0,
    miss := [], data := [], xf := xf, xoff := none }

/-! ### The matrix engine (R355 to R381) -/

/-- A weight slot (R355, R358). -/
structure Slot where
  ef   : Nat
  form : Nat
  sc   : Bool
  sb   : Nat
  k    : Nat
  n    : Nat
  tag  : Nat             -- the context it was loaded for
  gen  : Nat
  v    : Bool
  data : List Byte       -- its rows, index bytes and scales, in the order of R358 without gaps
  deriving DecidableEq, Repr, Inhabited

/-- A WBUF.INVAL that waits for its place among its slot's accesses (R361, R362). -/
structure SlotInval where
  core : Nat
  slot : Nat
  turn : Nat             -- State.nfree at issue, or when its crew was restored
  id   : Nat             -- its number among its crew's operations
  crew : Option Nat      -- its crew; none once it goes on without it
  deriving DecidableEq, Repr, Inhabited

/-- An MMAO in flight: for each active lane, the A and scale registers and the starting row of D (R370). -/
structure MmaoOp where
  type : Nat
  slot : Nat
  dst  : Nat
  rows : List (Nat × List Word × List Word)
  deriving DecidableEq, Repr, Inhabited

/-- An MMAT in flight (R372). -/
structure MmatOp where
  type : Nat
  slot : Nat
  ao   : Nat
  ars  : Nat
  dh   : Nat
  m    : Nat
  ng   : Nat
  z    : Bool
  k    : Nat
  gen  : Nat                 -- the crew's generation when it issued (R375)
  deriving DecidableEq, Repr, Inhabited

/-- An entry of the operand cache (R375): its tag, and the A rows and scale rows an MMAT fetched. -/
structure OpcEntry where
  ao   : Nat
  ars  : Nat
  m    : Nat
  type : Nat
  af   : Nat
  span : Nat
  k    : Nat
  gen  : Nat
  rows : List (List Byte)
  deriving DecidableEq, Repr, Inhabited

/-- A register form of TSMOV in flight (R376). -/
structure TsregOp where
  toReg : Bool
  h     : Nat
  n     : Nat
  dst   : Nat
  vals  : List (Nat × Nat × Word)     -- FROMREG: lane, register place, value
  deriving DecidableEq, Repr, Inhabited

/-! ### The deferred tile engine (R383 to R411) -/

/-- What a node is. -/
inductive NodeKind where
  | view (base d1 d2 d3 : Nat) (s1 s2 s3 : Int) (space : Nat)     -- R387
  | const (x : Word)                                              -- R388
  | top (op : Nat)                                                -- R389
  | tmap (op : Nat) (p : List Word)                               -- R393
  | mat (vals : List Word)                                        -- R405
  deriving DecidableEq, Repr, Inhabited

/-- A node of the thunk partition (R383 to R385). -/
structure TNode where
  kind   : NodeKind
  rows   : Nat
  cols   : Nat
  fmt    : Nat             -- the result format: a code of R81 or R83, 15 for FP32
  fmtw   : Word            -- FMT at issue
  origin : DWord × Nat
  srcs   : List Nat        -- the nodes it reads
  seq    : Nat             -- orders nodes by age
  deriving DecidableEq, Repr, Inhabited

/-- What a demand is for. -/
inductive DemandKind where
  | store (fmt base stride space : Nat)   -- R396, R397
  | force (h : Nat)
  | own                                   -- a forcing or a materialisation (R407)
  deriving DecidableEq, Repr, Inhabited

/-- A demand in flight. -/
structure DemandOp where
  kind  : DemandKind
  node  : Nat
  row0  : Nat
  col0  : Nat
  rows  : Nat
  cols  : Nat
  block : List Word
  done  : Nat              -- BLKDONE
  vals  : List Word        -- the current block's patterns once evaluated; all blocks' of a materialisation (R398, R405)
  evts  : List Nat         -- the events of the current block, by counter (R408)
  part  : List Nat         -- the words of the current block written already (R121, R124)
  fresh : Bool             -- an own write over its views was in flight when it issued (R402)
  stop  : Option Nat       -- the node whose read stopped
  miss  : List Nat
  deriving DecidableEq, Repr, Inhabited

/-- A demand with no block done. -/
def DemandOp.start (kind : DemandKind) (node row0 col0 rows cols : Nat) (block : List Word) (fresh : Bool) : DemandOp :=
  { kind := kind, node := node, row0 := row0, col0 := col0, rows := rows, cols := cols, block := block, done := 0,
    vals := [], evts := [], part := [], fresh := fresh, stop := none, miss := [] }

/-- A demand whose current block is to be done again from its start (R398, R410). -/
def DemandOp.restart (t : DemandOp) : DemandOp :=
  match t.kind with
  | .own => t
  | .store _ _ _ _ | .force _ => { t with vals := [], evts := [], part := [] }

/-- The thunk partition of a crew (R384, R400). -/
structure TileState where
  nodes : List (Nat × TNode)     -- by partition index, rising
  names : List (Nat × Nat)       -- bound names and their nodes
  mark  : Nat                    -- TMARK
  seq   : Nat
  deriving DecidableEq, Repr, Inhabited

/-! ### The sample engine (R342 to R353) -/

/-- An SMP in flight. -/
structure SmpOp where
  sub    : Nat
  comp   : Nat
  index  : Nat                         -- DIDX
  desc   : Option (List Byte)          -- DESC, once read and checked
  coords : List (Nat × Word × Word)    -- u and v of each active lane
  done   : Lanes
  miss   : List Nat
  dst    : Nat
  deriving DecidableEq, Repr, Inhabited

/-! ### The traversal engine (R435 to R455) -/

/-- A hit (R448). -/
structure TraceHit where
  t     : Word
  u     : Word
  v     : Word
  prim  : Word
  insta : Word
  instb : Word
  deriving DecidableEq, Repr, Inhabited

/-- A lane of a traversal (R445, R451). -/
structure TraceLane where
  lane   : Nat
  ray    : List Word
  irec   : List Nat                    -- the instance records crossed at levels 1 and 2, zero when none
  best   : Option TraceHit
  level  : Nat
  stack  : List (Word × Word)          -- reference and entry distance, the top first
  visits : Nat
  trunc  : Bool
  bad    : Bool
  badray : Bool
  limit  : Bool
  begun  : Bool
  held   : Bool                        -- its top entry had been taken when it stopped (R449)
  near   : List Nat                    -- the child targets of the node last read (R453)
  ended  : Bool                        -- its result is written
  deriving DecidableEq, Repr, Inhabited

/-- A TRACE in flight. -/
structure TraceOp where
  any   : Bool
  cull  : Bool
  root  : DWord
  dst   : Nat
  lanes : List TraceLane
  miss  : List Nat
  deriving DecidableEq, Repr, Inhabited

/-- The body of an operation, by its engine. -/
inductive OpBody where
  | mem (m : MemOp)
  | chain (h : ChainOp)
  | copy (p : CopyOp)
  | mmao (a : MmaoOp)
  | mmat (a : MmatOp)
  | tsreg (t : TsregOp)
  | demand (t : DemandOp)
  | smp (t : SmpOp)
  | trace (t : TraceOp)
  deriving DecidableEq, Repr, Inhabited

end Sys2Proof.Machine
end

