-- ==== Sys2Proof/Machine/PlatformState.lean ====
section
/-! DEFINITION. The plain data of the die controllers: start-up, signed images, keys and power (R477 to R490). -/

namespace Sys2Proof.Machine

/-- Which signed image a load reads (R486). -/
inductive ImageKind where
  | routine | firmware
  deriving DecidableEq, Repr, Inhabited

/-- Start-up (R484, R485). -/
structure Startup where
  step     : Nat          -- STARTST.STEP: the last step taken, 0 before the first (assumption 20)
  ready    : Bool
  minimal  : Bool
  reason   : Nat
  fscnt    : Nat          -- non-volatile
  reported : List Nat     -- the dies whose controllers have finished the step
  since    : Nat          -- the clock the step began
  deriving DecidableEq, Repr, Inhabited

/-- Signed images and attestation (R486, R487). -/
structure Security where
  loading  : Option (ImageKind × Nat)       -- a load under way, with its host address: RTST.BUSY
  fail     : Bool                           -- RTST.FAIL
  routines : List (Nat × List Byte)         -- installed routines by number, rising
  firmware : List Byte                      -- the running firmware
  staged   : Option (List Byte)             -- firmware that the next reset runs; non-volatile
  keydata  : List (Nat × DWord)             -- KEYDATA0 to 7
  keys     : List (Nat × List DWord)        -- the installed keys by index
  keyBusy  : Option (Nat × List DWord)      -- an installation under way (R488)
  deriving DecidableEq, Repr, Inhabited

/-- Power (R489, R490). -/
structure Power where
  limit   : Nat
  now     : Nat
  steps   : List (Nat × Nat)   -- by quad, the steps of 0.125 GHz below 1.5 GHz its island runs at
  lowered : List (Nat × Nat)   -- by quad, the clock of its last lowering
  asked   : List Nat           -- quads whose crews have been asked to save (R490)
  gated   : List Nat           -- quads that place no crew
  deriving DecidableEq, Repr, Inhabited

/-- The die controllers' part of the device. -/
structure Plat where
  startup : Startup
  sec     : Security
  power   : Power
  privres : Nat                -- PRIVRES, in MiB
  deriving DecidableEq, Repr, Inhabited

/-- The die controllers right after reset (R484, R489). -/
def Plat.reset : Plat :=
  { startup := ⟨0, false, false, 0, 0, [], 0⟩
    sec := ⟨none, false, [], [], none, [], [], none⟩
    power := ⟨2800, 0, [], [], [], []⟩
    privres := 0 }

end Sys2Proof.Machine
end

