-- ==== Sys2Proof/Machine/State.lean ====
section
/-! DEFINITION. The state of the KPN-9600 as plain data: memory, the wave, crew and fragment that issue, every other
crew, the engines' operations, the dispatch engine, the translation and fault engine, the page cache, the ports and
the die controllers; the reasons a step can stop; and the machine right after reset. -/

namespace Sys2Proof.Machine

/-! ### Sparse tables -/

/-- A table from numbers to values, of which only the entries that differ from a default are listed, keys strictly
rising.  Memory is such a table of bytes (Host.Cell). -/
abbrev Tab (α : Type) := List (Nat × α)

/-- The entry at key k, the default d when none is listed. -/
def tabGet {α : Type} (d : α) (t : Tab α) (k : Nat) : α :=
  match t with
  | [] => d
  | (j, v) :: rest => if j = k then v else tabGet d rest k

/-- The table without the entry at key k. -/
def tabDel {α : Type} (t : Tab α) (k : Nat) : Tab α :=
  match t with
  | [] => []
  | (j, v) :: rest => if j = k then tabDel rest k else (j, v) :: tabDel rest k

/-- The table with the entry (k, v) at its place among rising keys. -/
def tabInsert {α : Type} (t : Tab α) (k : Nat) (v : α) : Tab α :=
  match t with
  | [] => [(k, v)]
  | (j, w) :: rest =>
    if k < j then (k, v) :: (j, w) :: rest
    else if k = j then (k, v) :: rest
    else (j, w) :: tabInsert rest k v

/-- The table with value v at key k; the default is not listed. -/
def tabSet {α : Type} [DecidableEq α] (d : α) (t : Tab α) (k : Nat) (v : α) : Tab α :=
  if v = d then tabDel t k else tabInsert t k v

/-- The canonical form: keys strictly rising and no entry equal to the default. -/
def tabWf {α : Type} [DecidableEq α] (d : α) : Tab α → Bool
  | [] => true
  | [(_, v)] => decide (v ≠ d)
  | (j, v) :: (k, w) :: rest => decide (v ≠ d) && decide (j < k) && tabWf d ((k, w) :: rest)

/-! ### Why a step stops -/

/-- The stuck states of the machine: there is none.  Every outcome the manual calls undefined (R3) is a next state. -/
inductive Fault where
  deriving DecidableEq, Repr

/-- The refusals of the model. -/
inductive Refusal where
  /-- Raised by exec for an instruction the model gives no meaning.  Safe. -/
  | notModelled (mnemonic : String)
  deriving DecidableEq, Repr

/-! ### Fragments, waves -/

/-- The role of a wave slot (R194). -/
inductive Role where
  | gen | mat | copy | vec
  deriving DecidableEq, Repr, Inhabited

/-- What a Blocked fragment waits for (R191). -/
inductive WaitFor where
  | barrier (off phase : Nat)              -- BAR.WAIT (R267)
  | barrierT (off phase until_ : Nat)      -- BAR.WAITT: until the clock count `until_` (R267)
  | patch (px py a b index phase : Nat)    -- PBAR.WAIT (R176)
  | batch (n : Nat)                        -- CBATCH.WAIT (R289)
  | seal                                   -- a SEAL beyond 64 batches (R289)
  | tlbinv (id : Nat)                      -- SYS.TLBINV (R313)
  | launch                                 -- JOB.LAUNCH (R157)
  | depwait                                -- JOB.DEPWAIT (R161)
  | exits                                  -- JOB.EXITS (R164)
  | yieldonBar (off phase : Nat)           -- JOB.YIELDON.BAR (R170)
  | yieldonFlg (flag : Nat)                -- JOB.YIELDON.FLG (R170)
  | sleep (until_ : Nat)                   -- CTL.SLEEP (R243)
  | earlier                                -- a waiting instruction behind earlier accesses of its lanes (R115, R156, R191)
  deriving DecidableEq, Repr, Inhabited

/-- The state of a fragment (R191), with the places of R33, R142, R315 and R322 where an instruction or a fetch
waits. -/
inductive FStatus where
  | ready                 -- its next instruction is due
  | stalled               -- its next instruction waits at issue (R33, R196)
  | waiting               -- a clause with a WAIT flag not zero, YLD 0
  | yielded               -- a clause with a WAIT flag not zero, YLD 1
  | fetchWait             -- Yielded on a code page that is not present (R322)
  | yieldedJob            -- JOB.YIELD with a request pending (R169)
  | blocked (w : WaitFor)
  | joining
  deriving DecidableEq, Repr, Inhabited

/-- How a blocked instruction ends when it issues again. -/
inductive Resume where
  | fresh        -- it has not waited
  | released     -- its condition held
  | timedOut     -- its clock limit passed (R267)
  | broken       -- its barrier object was invalidated (R270)
  deriving DecidableEq, Repr, Inhabited

/-- The literal a LIT sequence has supplied so far (R63, R64). -/
structure Literal where
  value : DWord
  first : Nat      -- parcel index of the first LIT
  words : Nat      -- LIT words read
  deriving DecidableEq, Repr, Inhabited

/-- A fragment (R179, R180, R200, R340). -/
structure Frag where
  id      : Nat
  lanes   : Lanes
  exec    : Lanes
  fmt     : Word
  clause  : DWord
  parcel  : Nat            -- 63 for the header (R44)
  latched : Bool           -- the clause below has been fetched and checked
  hdr     : Header
  body    : List Parcel
  lit     : Option Literal
  after   : Bool           -- the instruction at the PC is complete: go on after it once it is fetched (R201)
  join    : Option Nat     -- its innermost join record
  status  : FStatus
  resume  : Resume
  age     : Nat            -- the clock its next instruction became due (R196)
  aged    : Bool           -- R197
  issued  : Nat            -- the clock after its last instruction issued (R197)
  back    : Bool           -- a JOB.YIELD put it behind the ready fragments of its core (R169)
  trapMode : Bool
  epc     : DWord
  epar    : Word
  ecause  : Word
  eexec   : Lanes
  efmt    : Word
  esave   : Tab Word
  erecoff : Word
  etrapv  : Word
  cont    : DWord          -- the clause YIELDON goes on at (R170)
  oneShot : Bool           -- the next instruction to issue matches no watchpoint (R334)
  deriving DecidableEq, Repr, Inhabited

/-- A join record (R184). -/
structure JoinRec where
  id    : Nat
  addr  : DWord
  fmt   : Word
  lanes : Lanes
  outer : Option Nat
  deriving DecidableEq, Repr, Inhabited

/-- A wave (R179). -/
structure Wave where
  idx     : Nat
  slot    : Nat
  role    : Role
  v       : Tab Word       -- lane registers, register r of lane l at key 96·r + l
  rng     : Tab Word       -- generator states by lane
  s       : Tab Word
  m       : Tab Lanes
  flg     : Word
  f       : Tab Nat        -- f0 to f11
  clkHi   : Option Word    -- the half CLK.L latched (R59)
  frags   : List Frag      -- its fragments but the one in focus
  joins   : List JoinRec
  nextJoin : Nat
  fspill  : List Nat       -- park-area offsets of its spilled fragments (R190)
  jspill  : List Nat       -- and of its spilled join records
  enrol     : List (Nat × Nat)   -- its enrolments: the object's offset, the phase of its last arrival (R269)
  nb        : Nat          -- NB (R289)
  unsealed  : List Nat     -- the copies issued since the last SEAL, by operation number
  batches   : List (List Nat)   -- the sealed batches not known to be done, the last one numbered NB - 1
  fetchMark : Nat          -- numbers the overwritten bytes its fetches may still see (R51)
  deriving DecidableEq, Repr, Inhabited

/-! ### Operations of the engines -/

/-- Where a long-latency operation stands. -/
inductive OpStatus where
  | inflight             -- issued or resumed, not complete
  | parked (cause : Nat) -- stopped on missing pages (0x01) or by a forced save (0x12); it resumes without a trap (R36)
  | late (cause : Nat)   -- a trap cause waits for delivery (R321)
  | trapped (frag cause : Nat)   -- delivered to that fragment; it resumes after the fragment's ERET (R321)
  deriving DecidableEq, Repr, Inhabited

/-- A long-latency operation of a crew from its issue to its completion point (R30 to R37). -/
structure Op where
  id     : Nat            -- numbers operations in issue order
  wave   : Nat
  frag   : Nat
  flag   : Option Nat     -- the completion flag it counts on; none for a forcing (R407)
  insn   : Word           -- the instruction word
  lanes  : Lanes          -- EXEC at issue
  order  : Lanes          -- the lanes in whose program order it stands (R115)
  fmt    : Word           -- FMT at issue (R87)
  clause : DWord          -- its PC
  parcel : Nat
  status : OpStatus
  recOff : Option Nat     -- the park-area offset of its replay record; none while running or for want of room (R37)
  recSize : Nat           -- the bytes of that record
  va     : DWord          -- the record's faulting address (R329)
  tampered : Bool         -- PARKWR rewrote its live record (R339)
  born   : Nat            -- the model's own: State.nfree when it issued (R102)
  turn   : Nat            -- the model's own: State.nfree when it issued, or when its crew was restored (R362, R381)
  memMark : Nat           -- Dev.histSeq when it issued: the overwritten bytes its reads may still see (R120)
  scMark : Nat            -- Crew.shistSeq when it issued, likewise
  follows : List (Nat × Nat)   -- lanes whose own later events its reads of memory follow, with Dev.histSeq then (R120)
  watched : List Nat      -- the addresses of watchpoints it has delivered at units that are still to be done (R296, R334)
  quiet   : Bool          -- issued under the one-shot mark: it matches no watchpoint (R334)
  awaits  : List Nat      -- the pages, by first address, whose Translation Completion its engine waits for (R315)
  dstV   : List Nat       -- lane registers it is still to write in its lanes (R31)
  dstS   : List Nat       -- scalar registers it is still to write (R31)
  wrote  : Lanes          -- the lanes in which it has written its registers already (R253)
  taintV : List Nat       -- entries 96·r + l the program wrote meanwhile (R31)
  taintS : List Nat
  srcV   : List Nat       -- lane registers it would read again on resumption (R32)
  srcS   : List Nat
  srcTaint : Bool         -- the program wrote one of them since (R32)
  body   : OpBody
  deriving DecidableEq, Repr, Inhabited

/-! ### Job cards -/

/-- The fields of a job card (R148), as the card holds them. -/
structure Card where
  entry    : DWord
  recbase  : DWord
  recsize  : Nat
  reccount : Nat
  x0       : Nat
  y0       : Nat
  w        : Nat
  h        : Nat
  waves    : Nat
  vregs    : Nat
  sregs    : Nat
  prio     : Nat
  idem     : Bool
  roles    : Word
  scratch  : Nat
  tiles    : Nat
  park     : Nat
  thunks   : Nat
  retries  : Nat
  ctag     : Nat
  deadline : Nat
  doneAddr : DWord
  doneVal  : DWord
  chainbuf : DWord
  deps     : List DWord
  reserved : Bool          -- a reserved field is not zero, or a DEP has bits [63:59] set (check 9 of R149)
  deriving DecidableEq, Repr, Inhabited

/-- Records dealt together (R159). -/
structure Chunk where
  first : Nat
  count : Nat
  deriving DecidableEq, Repr, Inhabited

/-! ### Crews -/

/-- The states of R172 that last from one step to the next: the save and the restore are one step each. -/
inductive CrewState where
  | running | requested | saved
  deriving DecidableEq, Repr, Inhabited

/-- A crew (R27, R154, R202). -/
structure Crew where
  uid     : Nat
  state   : CrewState
  forced  : Bool           -- its pre-emption deadline expired: fragments stop at clause boundaries (R171)
  prio    : Nat
  ctag    : Nat
  gen     : Nat            -- the generation of its tag when it was placed (R29)
  scratchSize : Nat        -- SCRATCH, rounded (R148)
  tileSize : Nat           -- TILES, rounded
  thunkMax : Nat           -- THUNKS
  deadline : Nat           -- the deadline that acts (R148)
  waveCount : Nat          -- WAVES
  placedAt : Nat           -- orders crews by when they were placed (R167)
  preqFor : Option Nat     -- the waiting crew a pending request makes room for (R167)
  taken   : List Chunk     -- the chunks dealt to it (R174)
  trigged : List Nat       -- its waves that executed TRIG or retired (R160)
  since   : Option Nat     -- saved: the clock since it stands first on its core (R154)
  hold    : Bool           -- saved: it holds back later crews
  succ    : Option (DWord × DWord)   -- the successor's card address and job id (R164, R165)
  scratch : Tab Byte       -- the scratchpad allocation (R27)
  opc     : List OpcEntry  -- its operand-cache entries, newest first (R272, R375)
  opcGen  : Nat            -- its generation, which FENCE.OPC increments (R375)
  shist   : List (Nat × Byte × Nat)   -- scratchpad bytes overwritten: offset, old value, number (R120)
  shistSeq : Nat           -- the number of its next write to the scratchpad
  full    : Tab Bool       -- its full/empty bits by line (R128)
  tile    : Tab Byte       -- the tile-store allocation
  mx      : Tab Nat        -- MXOVF, MXNAN, MXSAT, MXUNF, MXROLL (R107), 0 to 4
  job     : DWord
  index   : Nat            -- CREW (R24)
  cx      : Nat            -- its span position (R204)
  cy      : Nat
  core    : Nat            -- the core it stands on, cx + 48·cy
  ctx     : Nat            -- its context slot
  vregs   : Nat
  sregs   : Nat
  preq    : Option Nat     -- the clock count at which a pending pre-emption expires (R168)
  contained : Option Nat   -- the cause that contains it, until the containment is carried out (R42)
  waves   : List Wave      -- its waves but the one in focus
  ops     : List Op        -- its long-latency operations, in issue order
  nextOp  : Nat
  recSeq  : Nat            -- the sequence number of its next replay record (R329)
  parkSize : Nat           -- the bytes of its park area (R35, R148)
  park    : Tab Byte       -- the park area's contents
  allocs  : List (Nat × Nat)   -- the places taken in it beyond 0x1200, offset and size, rising
  chain   : ChainState     -- R413
  chainQ  : List ChainItem -- the CH instructions whose turn has not come (R422)
  tiles   : TileState      -- R384, R400
  deriving DecidableEq, Repr, Inhabited

/-! ### The translation and fault engine -/

/-- A fault-queue entry Salamander holds or writes (R326). -/
structure FqEntry where
  va   : DWord
  seq  : Nat
  kind : Nat
  acc  : Nat
  die  : Nat
  pa   : DWord
  deriving DecidableEq, Repr, Inhabited

/-- A context slot: the registers of R308 and the context's control words (R109, R200, R256, R260, R340). -/
structure Context where
  en      : Bool
  pasiden : Bool
  prien   : Bool
  tag     : Nat
  gen     : Nat
  pasid   : Nat
  root    : DWord
  fq      : DWord          -- CXFQ: base in [51:12], QSZ in [3:0]
  fqHead  : DWord
  fqTail  : DWord
  inva    : DWord
  prej    : DWord
  cwn     : Nat
  refused : Bool
  invBusy : Bool
  cwErr   : Bool
  fqErr   : Bool
  fqSeq   : Nat            -- the sequence number of the next fault-queue entry (R326)
  held    : List FqEntry   -- entries Salamander holds, oldest first (R326, R492)
  oldTabs : List (Nat × Tab Word)   -- the control words before each companding-table write, with State.nfree then (R102)
  priStop : Bool           -- a Response Failure stopped page requests (R320)
  words   : Tab Word       -- control words that differ from their reset value
  deriving DecidableEq, Repr, Inhabited

/-- A table entry held in the walk cache (R313). -/
structure WalkEntry where
  die   : Nat              -- whose walk cache holds it
  tag   : Nat
  gen   : Nat
  level : Nat              -- the level of the entry, 5 to 2
  base  : Nat              -- the first virtual address it covers
  pte   : DWord
  deriving DecidableEq, Repr, Inhabited

/-- A cached translation (R311, R313). -/
structure TlbEntry where
  place : Nat              -- the L1 TLB of that core, or, from 1,536 on, the L2 TLB of a die
  tag  : Nat
  gen  : Nat
  base : Nat               -- the first virtual address it covers
  size : Nat               -- log2 of the bytes it covers
  pa   : Nat               -- the physical address of that first byte
  key  : Nat               -- the leaf's KEY (R304)
  rd   : Bool
  wr   : Bool
  ex   : Bool
  host : Bool              -- an ATS completion (R315)
  deriving DecidableEq, Repr, Inhabited

/-- What waits for a missing page (R323): an operation of a crew, a fragment's fetch or its waiting instruction, a
card of a host queue, a pending launch, a DONE write, or Salamander itself. -/
inductive Link where
  | op (crew op : Nat)
  | frag (f : FragRef)
  | queue (q : Nat)
  | launch (f : FragRef)
  | done (job : Nat)
  | page (die slot page : Nat)   -- Salamander's own look at a page the host has answered for (R320, R324)
  | none
  deriving DecidableEq, Repr, Inhabited

/-- Who makes an access: the place it is made from, a core, or from 1,536 on a die's own engine, and what waits while it
waits (R313, R315, R316). -/
structure Asker where
  place : Nat
  link  : Link
  deriving DecidableEq, Repr, Inhabited

/-- An outstanding ATS Translation Request (R315, R317). -/
structure AtsReq where
  id    : Nat
  die   : Nat              -- whose L2 TLB sent it (R315)
  links : List Link        -- the accesses that wait for it
  slot  : Nat
  tag   : Nat              -- the context's tag, generation and PASID when it was sent (R311, R317)
  gen   : Nat
  pasid : Nat
  page  : Nat              -- virtual address / 4096
  rd    : Bool             -- what the access wants
  wr    : Bool
  ex    : Bool
  entry : Bool × Bool × Bool   -- RD, WR and EX of the KIND 2 entry that led to it (R316)
  stale : Bool
  again : Bool             -- it takes the place of a stale one (R317)
  pred  : Option Nat       -- the die whose Salamander predicted the page (R325)
  deriving DecidableEq, Repr, Inhabited

/-- A page of which an ATS completion refused a permission wanted by an access, before that access has met it (R316). -/
structure AtsDenied where
  slot : Nat
  link : Link              -- the access
  page : Nat
  rd   : Bool              -- the permissions refused
  wr   : Bool
  ex   : Bool
  deriving DecidableEq, Repr, Inhabited

/-- Where a missing page stands with its Salamander (R323, R324, R320, R327). -/
inductive MissPhase where
  | gathering
  | asked (seq : Nat)      -- in the fault queue under this sequence number
  | requested (group : Nat)   -- in a page request group
  | resolved               -- answered: to be looked for again
  | looking                -- a host page asked for anew after Success (R320)
  | found                  -- that request found it present with a permission wanted (R324)
  deriving DecidableEq, Repr, Inhabited

/-- A missing page (R323). -/
structure Missing where
  die   : Nat
  slot  : Nat
  tag   : Nat
  gen   : Nat
  page  : Nat
  host  : Bool
  acc   : Nat              -- [0] read, [1] write, [2] fetch, as the waiting accesses want
  wants : List Nat         -- what each of them wants, coded likewise (R324)
  since : Nat
  phase : MissPhase
  links : List Link
  wlinks : List Link       -- of them, those that want to write the page (R320)
  deriving DecidableEq, Repr, Inhabited

/-- Who waits for a full invalidation (R313, R318). -/
inductive InvFor where
  | cxinvc (slot : Nat)
  | tlbinv (f : FragRef)
  | ats (tag : Nat)        -- the request's ITag, for the Invalidation Completion
  deriving DecidableEq, Repr, Inhabited

/-- A full invalidation that has not completed (R313). -/
structure Inval where
  id   : Nat
  who  : InvFor
  waits : List (Nat × Nat × List (Nat × Nat))   -- crews and operations, with the lanes and places of those of their accesses that
                                                -- use a removed translation
  deriving DecidableEq, Repr, Inhabited

/-- What the device sends outward: to the host's root port, and as interrupts. -/
inductive OutMsg where
  | atsRequest (id pasid page : Nat) (wr ex : Bool)                 -- R315
  | pageRequest (pasid page acc group : Nat) (last : Bool)          -- R320
  | invalidationCompletion (tag : Nat)                              -- R318
  | msix (vector : Nat)                                             -- R480
  deriving DecidableEq, Repr, Inhabited

/-! ### The dispatch engine -/

/-- The states of a job that outlive the read of its card (R40). -/
inductive JobState where
  | placing | running | draining | done | failed
  | rejected (check : Nat)   -- a card that failed a check, its error status still to be written (R150)
  deriving DecidableEq, Repr, Inhabited

/-- A job from its acceptance on (R39, R40, R151). -/
structure Job where
  id      : DWord
  die     : Nat            -- its owner (R39)
  ctx     : Nat            -- its context slot
  card    : Card
  prio    : Nat            -- the priority it runs at (R152)
  queue   : Option Nat     -- the host queue it came from, 64·die + q (R41)
  state   : JobState
  next    : Nat            -- the dealer's next record (R159)
  returned : List Chunk    -- chunks of contained crews, by rising first index
  used    : Nat            -- relaunches made (R174)
  failedBy : Option (Nat × Nat)   -- the crew that ended it, and the cause (R150)
  placed  : List Nat       -- the crew indices placed at least once (R40)
  trig    : List Nat       -- the crew indices triggered (R160)
  exits   : List (DWord × DWord)  -- successor card addresses its crews named, with the jobs launched (R165)
  zeroSize : Bool          -- it completes at once (R162)
  deriving DecidableEq, Repr, Inhabited

/-- How a crew came to wait for its place (R154). -/
inductive WaitKind where
  | successor | fresh
  deriving DecidableEq, Repr, Inhabited

/-- A crew that waits to be placed (R154, R165, R174). -/
structure Waiting where
  uid    : Nat
  job    : DWord
  index  : Nat
  core   : Nat
  kind   : WaitKind
  pred   : Option DWord            -- the job of the crew whose place a successor takes (R165)
  scratch : Option (Tab Byte × Tab Bool × Tab Byte)   -- the allocations it inherited
  mx     : Tab Nat                 -- the counters its contained predecessor left (R108)
  trigged : Bool                   -- its predecessor was triggered (R160)
  since  : Option Nat              -- the clock since which it stands first on its core (R154)
  hold   : Bool                    -- it holds back later crews of equal or lower priority
  deriving DecidableEq, Repr, Inhabited

/-- A host queue (R152): QCTL's fields, the card addresses waiting, QLASTID and QERR. -/
structure Queue where
  en     : Bool
  prio   : Nat
  ctag   : Nat
  cards  : List DWord
  lastId : DWord
  err    : DWord
  deriving DecidableEq, Repr, Inhabited

/-- A wave's launch that waits to be read (R157). -/
structure Launch where
  die  : Nat
  who  : FragRef
  addr : DWord
  dst  : Nat               -- the even register of sI
  ctx  : Nat
  ctag : Nat
  deriving DecidableEq, Repr, Inhabited

/-- A partial combination in a fabric hub (R133, R134, R261). -/
structure HubEntry where
  slots   : List Nat       -- the contexts of the REDs combined
  jobs    : List DWord     -- their jobs (R41)
  pa      : Nat
  key     : Nat
  op      : Nat
  w       : Nat
  val     : DWord
  members : List (Nat × Nat × Nat × Nat)   -- crew, operation, lane and byte place of each RED combined
  since   : Nat
  deriving DecidableEq, Repr, Inhabited

/-- An entry of a patch-barrier table (R176, R177). -/
structure PBar where
  job     : DWord
  patch   : Word
  index   : Nat
  phase   : Nat
  pending : Nat
  n       : Nat
  spilled : Bool           -- in the device-private region (R177)
  deriving DecidableEq, Repr, Inhabited

/-! ### Ports, decoders, poison -/

/-- A pool decoder (R483), addresses and sizes in 4 KiB pages. -/
structure PoolDec where
  en    : Bool
  base  : Nat
  size  : Nat
  ports : Nat
  deriving DecidableEq, Repr, Inhabited

/-- A pool and peer port (R482). -/
structure Port where
  gen   : Nat
  hdmdb : Bool
  fail  : Bool
  deriving DecidableEq, Repr, Inhabited

/-- What marks lines poison or clears them (R145 to R147, R472 to R475). -/
inductive PoisonMark where
  | lines (first count : Nat) (on : Bool)      -- lines by physical address / 128
  | copies (first count : Nat)                 -- lines whose copies in the device alone are poison (R146, R472)
  | routed (dec : PoolDec) (port : Nat)        -- the lines a decoder sends to a failed port
  | hostCached (held maybe : List Nat) (n : Nat)   -- the class 1 lines that caches held when the host link failed, and those,
                                               -- clean, that L1 or L2 may have given up before (R474)
  deriving DecidableEq, Repr, Inhabited

/-- The host port (R479, R481) and its capabilities (R315, R320). -/
structure HostPort where
  up    : Bool
  gen   : Nat
  width : Nat
  cxl   : Nat
  recov : Bool
  ats   : Bool             -- ATS is enabled
  pri   : Nat              -- the page request groups that may be outstanding
  deriving DecidableEq, Repr, Inhabited

/-- All of the device but the fragment, wave and crew in focus. -/
structure Dev where
  mem      : List Host.Cell
  crews    : List Crew     -- every crew placed and not retired, saved ones too, but the one in focus
  contexts : Tab Context   -- by slot, 0 to 63
  tagGen   : Tab Nat       -- by tag, one more than the generation of its last binding; 0 when never bound (R309)
  wraps    : List Nat      -- the tags whose WRAP stands (R311)
  tlb      : List TlbEntry
  atsReqs  : List AtsReq
  atsDenied : List AtsDenied
  nextAts  : Nat
  missing  : List Missing
  groups   : List (Nat × Nat)   -- outstanding page request groups: PASID and index (R320)
  invals   : List Inval
  nextInv  : Nat
  walks    : List WalkEntry
  lineKey  : Tab Nat       -- by line, the KEY under which it was last written (R467, R488)
  sealed   : Tab (List DWord × List Byte)   -- by line that an installation has reached since: the key its ciphertext was made
                                            -- under, and the bytes that key gives (R488)
  poison   : List PoisonMark   -- newest first
  decs     : Tab PoolDec   -- POOLDEC 0 to 15
  ports    : Tab Port      -- the eight pool and peer ports
  pc       : PCache
  plat     : Plat
  decRefused : Bool        -- PORTST.REFUSED of port 0
  host     : HostPort
  priv     : Nat           -- PCSPLIT.PRIV: bytes of the private region (R459)
  hist     : List (Nat × Byte × Nat)   -- bytes overwritten: address, old value, number (R51)
  histSeq  : Nat
  out      : List OutMsg   -- what has been sent outward, newest first
  jobs     : List Job      -- every job accepted since reset
  waiting  : List Waiting
  queues   : Tab Queue     -- host queue q of die d at 64·d + q
  rotation : Tab Nat       -- per die, the queue served last (R153)
  launches : List Launch
  hubs     : List HubEntry
  slots    : Tab Slot      -- weight slot w of core c at 16·c + w (R355)
  slotInvals : List SlotInval   -- INVALs that wait for their place (R361, R362)
  seqs     : Tab Nat       -- per die, the last job sequence number assigned (R151)
  pbars    : List PBar     -- the patch-barrier entries, most recently used first
  nextUid  : Nat           -- the model's own: numbers crews
  deriving DecidableEq, Repr, Inhabited

/-- What the next step is chosen to do, when it is chosen beforehand (assumption 3). -/
inductive Act where
  | event (i : Instr)      -- a step of the device
  | issue (f : FragRef)    -- that fragment issues
  deriving DecidableEq, Repr, Inhabited

/-- The machine.  `frag` of `wave` of `crew` is in focus: it issues when `active` says so. -/
structure State where
  dev    : Dev
  crew   : Crew
  wave   : Wave
  frag   : Frag
  active : Bool
  agenda : List Act        -- the steps an outside party or a test has named, the next one first
  clk    : Nat             -- the package's count of clocks (R59)
  nfree  : Nat             -- the model's own: counts steps, and numbers the free values (assumption 3)
  deriving DecidableEq, Repr, Inhabited

/-- The device right after reset: no crew, nothing in flight. -/
def Dev.reset : Dev :=
  { mem := [], crews := [], contexts := [], tagGen := [], wraps := [], tlb := [], atsReqs := [], atsDenied := [],
    nextAts := 0, missing := [], groups := [], invals := [], nextInv := 0, walks := [], lineKey := [], sealed := [], pc := PCache.reset, plat := Plat.reset, poison := [], decs := [], ports := [],
    decRefused := false, host := ⟨false, 0, 0, 0, false, true, 512⟩, priv := 0, hist := [], histSeq := 0,
    out := [], jobs := [], waiting := [], queues := [], rotation := [], launches := [], hubs := [], slots := [], slotInvals := [],
    seqs := [], pbars := [], nextUid := 0 }

/-- The machine right after reset. -/
def State.reset : State :=
  { dev := Dev.reset, crew := default, wave := default, frag := default, active := false, agenda := [], clk := 0,
    nfree := 0 }

end Sys2Proof.Machine
end

