-- ==== Sys2Proof/Machine/Ops.lean ====
section
/-! DEFINITION. The named operations over the focused fragment, wave and crew: registers with their special
behaviour (R31, R59, R62, R86, R180 to R183), the program counter (R44, R48), taking a trap (R198, R199) and
returning from one (R201), and the checks every instruction passes before its effect (R67, R72, R195). -/

namespace Sys2Proof.Machine

/-- The outcome of a step of this machine. -/
abbrev Out := Host.Outcome State Fault Refusal

/-! ### Lanes -/

/-- The lanes of a set in ascending order. -/
def laneList (e : Lanes) : List Nat := (List.range laneCount).filter (fun l => e.getLsbD l)

/-- The set of the lanes for which p holds. -/
def lanesWhere (p : Nat → Bool) : Lanes :=
  (List.range laneCount).foldl (fun a l => if p l then a ||| (1#96 <<< l) else a) 0#96

/-! ### Context control words (R109, R110, R200) -/

/-- The reset value of a context control word: the identity companding tables, zero elsewhere (R109, R200). -/
def ctxReset (n : Nat) : Word :=
  if (0x100 ≤ n && n < 0x1C0) || (0x200 ≤ n && n < 0x2C0) then
    if n % 4 == 0 then (if (n / 4) % 16 == 0 then 0#32 else 0x7F800000#32)
    else if n % 4 == 1 then 0x3F800000#32 else 0#32
  else 0#32

/-- The context slot's registers (R308). -/
def ctxOf (d : Dev) (slot : Nat) : Context := tabGet default d.contexts slot

/-- A control word of a context slot (R109, R200). -/
def slotWord (d : Dev) (slot n : Nat) : Word := tabGet (ctxReset n) (ctxOf d slot).words n

/-- A control word of the acting context. -/
def ctxWord (s : State) (n : Nat) : Word := slotWord s.dev s.crew.ctx n

/-- The trap vector of the acting context (R199, R200). -/
def tvec (s : State) : DWord := ctxWord s 0x401 ++ ctxWord s 0x400

/-- The trap enables of the acting context (R110). -/
def fptrap (s : State) : Word := ctxWord s 0x301

/-- A companding table, `base` 0x100 forward or 0x200 inverse, number t from 1 to 3 (R100, R109). -/
def compandTable (d : Dev) (slot base t : Nat) : List CompandSeg :=
  (List.range 16).map (fun i =>
    let n := base + 0x40 * (t - 1) + 4 * i
    ⟨slotWord d slot n, slotWord d slot (n + 1), slotWord d slot (n + 2)⟩)

/-! ### FMT (R85, R86) -/

/-- The fields of FMT (R85). -/
def fmtAF (f : Word) : Nat := (f.extractLsb' 0 4).toNat
/-- FMT.BF. -/
def fmtBF (f : Word) : Nat := (f.extractLsb' 4 4).toNat
/-- FMT.QF. -/
def fmtQF (f : Word) : Nat := (f.extractLsb' 8 4).toNat
/-- FMT.ACC. -/
def fmtACC (f : Word) : Nat := (f.extractLsb' 12 2).toNat
/-- FMT.RM. -/
def fmtRM (f : Word) : Nat := (f.extractLsb' 14 3).toNat
/-- FMT.SAT. -/
def fmtSAT (f : Word) : Bool := f.getLsbD 17
/-- FMT.CMP. -/
def fmtCMP (f : Word) : Nat := (f.extractLsb' 18 2).toNat
/-- FMT.FTZ. -/
def fmtFTZ (f : Word) : Bool := f.getLsbD 20
/-- FMT.DAZ. -/
def fmtDAZ (f : Word) : Bool := f.getLsbD 21
/-- FMT.SBLK. -/
def fmtSBLK (f : Word) : Nat := (f.extractLsb' 22 2).toNat

/-- Companding by the acting context's tables as FMT asks (R101). -/
def compandCtx (d : Dev) (slot base : Nat) (fmt : Word) (x : Ext) : Ext :=
  if fmtCMP fmt == 0 then x else compand (fmtSAT fmt) (compandTable d slot base (fmtCMP fmt)) x

/-- R86: a value FMT accepts. -/
def fmtLegal (f : Word) : Bool :=
  fmtAF f ≤ 9 && fmtBF f ≤ 9 && fmtQF f ≤ 9 && fmtACC f ≤ 2 && fmtRM f ≤ 5 && f.toNat < 2 ^ 24

/-- The accumulate format of FMT.ACC (R85). -/
def accFormat (f : Word) : Format := match fmtACC f with
  | 1 => .f16
  | 2 => .bf16
  | _ => .f32

/-- The rounding environment of a lane instruction, or of a scalar one, in which STO reads as RNE (R91). -/
def laneEnv (f : Word) (scalar : Bool) : RoundEnv :=
  ⟨if scalar && fmtRM f == 5 then 0 else fmtRM f, fmtSAT f, fmtFTZ f⟩

/-! ### Registers (R31, R179 to R183) -/

/-- An outstanding operation of wave w is still to write lane register r of lane l (R31). -/
def pendingV (ops : List Op) (w r l : Nat) : Bool :=
  ops.any (fun o => o.wave == w && o.dstV.contains r && o.lanes.getLsbD l && !o.wrote.getLsbD l)

/-- An outstanding operation of wave w is still to write scalar register r (R31). -/
def pendingS (ops : List Op) (w r : Nat) : Bool :=
  ops.any (fun o => o.wave == w && o.dstS.contains r)

/-- What a load read for a lane, as a number (R250). -/
def laneNat (m : MemOp) (l : Nat) : Nat :=
  (m.pieces.filter (fun p => p.lane == l)).foldl (fun a p => a + p.x.toNat % 2 ^ (8 * p.size) * 2 ^ (8 * p.off)) 0

/-- The words a load by SZ z puts into its registers (R250). -/
def loadWords (z x : Nat) : List Word :=
  match z with
  | 1 => [BitVec.ofNat 32 (x % 256)]
  | 2 => [(BitVec.ofNat 8 x).signExtend 32]
  | 3 => [BitVec.ofNat 32 (x % 65536)]
  | 4 => [(BitVec.ofNat 16 x).signExtend 32]
  | 5 => [BitVec.ofNat 32 x, BitVec.ofNat 32 (x / 2 ^ 32)]
  | 6 => [BitVec.ofNat 32 x, BitVec.ofNat 32 (x / 2 ^ 32), BitVec.ofNat 32 (x / 2 ^ 64), BitVec.ofNat 32 (x / 2 ^ 96)]
  | _ => [BitVec.ofNat 32 x]

/-- The registers an access writes for a lane (R254, R255, R258). -/
def laneResultWords (m : MemOp) (l : Nat) : List Word :=
  match m.kind with
  | .load z => loadWords z (laneNat m l)
  | .words => m.pieces.map (fun p => p.x.setWidth 32)
  | .atomic _ w true => loadWords (if w == 0 then 0 else 5) (laneNat m l)
  | .atomic _ _ false => []
  | .store => []

/-- Word k of an access's result for a lane, once the event that reads it has taken its place. -/
def wordArrived (m : MemOp) (l k : Nat) : Option Word :=
  if m.pieces.any (fun p => (p.lane == l || m.scalar) && p.done && decide (p.off ≤ 4 * k) && decide (4 * k < p.off + p.size)) then
    (laneResultWords m l)[k]?
  else none

/-- The new value of a register an access is still to write, the place of its word in the access's result taken from
the lowest destination register. -/
def arriving (o : Op) (l r : Nat) : Option Word :=
  match o.body with
  | .mem m => if m.dst ≤ r then wordArrived m l (r - m.dst) else none
  | .chain _ | .copy _ | .mmao _ | .mmat _ | .tsreg _ | .demand _ | .smp _ | .trace _ => none

/-- Lane register r of lane l.  While an outstanding long-latency instruction is still to write it, a read returns the
old value, or the new one where that has been read from memory already (R31; assumption 6). -/
def readV (s : State) (r l : Nat) : Word :=
  let old := tabGet 0#32 s.wave.v (96 * r + l)
  if pendingV s.crew.ops s.wave.idx r l && Config.freeBit s.nfree (96 * r + l) then
    ((s.crew.ops.filter (fun o => o.wave == s.wave.idx && o.dstV.contains r && o.lanes.getLsbD l)).findSome?
      (fun o => arriving o l r)).getD old
  else old

/-- Scalar register r, under R31 as lane registers are. -/
def readS (s : State) (r : Nat) : Word :=
  let old := tabGet 0#32 s.wave.s r
  if pendingS s.crew.ops s.wave.idx r && Config.freeBit s.nfree (100000 + r) then
    ((s.crew.ops.filter (fun o => o.wave == s.wave.idx && o.dstS.contains r)).findSome?
      (fun o => arriving o 0 r)).getD old
  else old

/-- A scalar pair, the even register low (R60). -/
def readS64 (s : State) (r : Nat) : DWord := readS s (r + 1) ++ readS s r

/-- The operations with a program's write to lane register r of the given lanes noted: a final value still to come is
then unspecified (R31), and so are the values an operation that has r as a source would read again (R32). -/
def taintLanes (ops : List Op) (w r : Nat) (ls : List Nat) : List Op :=
  ops.map (fun o =>
    if o.wave == w then
      { o with
        taintV := if o.dstV.contains r then (ls.filter (fun l => o.lanes.getLsbD l && !o.wrote.getLsbD l)).map (96 * r + ·) ++ o.taintV
          else o.taintV
        srcTaint := o.srcTaint || o.srcV.contains r }
    else o)

/-- The operations with a program's write to scalar register r noted (R31, R32). -/
def taintScalar (ops : List Op) (w r : Nat) : List Op :=
  ops.map (fun o =>
    if o.wave == w then
      { o with
        taintS := if o.dstS.contains r then r :: o.taintS else o.taintS
        srcTaint := o.srcTaint || o.srcS.contains r }
    else o)

/-- The register file with value `f l` in register r of each lane l listed. -/
def setLanes (v : Tab Word) (r : Nat) (f : Nat → Word) (ls : List Nat) : Tab Word :=
  ls.foldl (fun v l => tabSet 0#32 v (96 * r + l) (f l)) v

/-- Register r of each lane listed becomes `f l`; every `f l` is formed before any write (R206). -/
def writeLanes (s : State) (r : Nat) (ls : List Nat) (f : Nat → Word) : State :=
  { s with
    wave := { s.wave with v := setLanes s.wave.v r f ls }
    crew := { s.crew with ops := taintLanes s.crew.ops s.wave.idx r ls } }

/-- Scalar register r becomes x. -/
def writeS (s : State) (r : Nat) (x : Word) : State :=
  { s with
    wave := { s.wave with s := tabSet 0#32 s.wave.s r x }
    crew := { s.crew with ops := taintScalar s.crew.ops s.wave.idx r } }

/-- A scalar pair becomes x. -/
def writeS64 (s : State) (r : Nat) (x : DWord) : State :=
  writeS (writeS s r (x.setWidth 32)) (r + 1) ((x >>> 32).setWidth 32)

/-- Mask k (R179). -/
def readM (s : State) (k : Nat) : Lanes := tabGet 0#96 s.wave.m k

/-- A mask write by a fragment changes only the bits of its lane set (R233). -/
def writeM (s : State) (k : Nat) (x : Lanes) : State :=
  let old := readM s k
  { s with wave := { s.wave with
      m := tabSet 0#96 s.wave.m k ((x &&& s.frag.lanes) ||| (old &&& ~~~ s.frag.lanes)) } }

/-- A mask selector: m0 to m7, or 8 for EXEC (R69). -/
def readSel (s : State) (k : Nat) : Lanes := if k == 8 then s.frag.exec else readM s k

/-- EXEC written, never beyond the lane set (R180). -/
def writeExec (s : State) (x : Lanes) : State :=
  { s with frag := { s.frag with exec := x &&& s.frag.lanes } }

/-- Flags committed to FLG (R96). -/
def commitFlags (s : State) (fl : Flags) : State :=
  { s with wave := { s.wave with flg := s.wave.flg ||| fl.setWidth 32 } }

/-- Generator states of lanes written back (R90). -/
def setRng (s : State) (ls : List (Nat × Word)) : State :=
  { s with wave := { s.wave with rng := ls.foldl (fun t p => tabSet 0#32 t p.1 p.2) s.wave.rng } }

/-- The generator state of a lane (R90). -/
def readRng (s : State) (l : Nat) : Word := tabGet 0#32 s.wave.rng l

/-! ### The program counter (R44, R48, R49) -/

/-- The parcel index of the PC: a prefixed instruction is named by its first LIT (R64). -/
def pcParcel (f : Frag) : Nat := match f.lit with
  | some l => l.first
  | none => f.parcel

/-- The address of the clause header after the fragment's clause (R44). -/
def nextClause (f : Frag) : DWord := f.clause + BitVec.ofNat 64 (clauseBytes f.hdr.len.toNat)

/-- The parcels of the instruction at the fragment's parcel index. -/
def curParcels (f : Frag) : Nat := instrParcels (f.body.getD f.parcel 0)

/-- The fragment at (address, 63): it begins the clause there (R48). -/
def gotoClause (f : Frag) (a : DWord) (clk : Nat) : Frag :=
  { f with clause := a, parcel := 63, latched := false, lit := none, after := false,
           status := .ready, resume := .fresh, age := clk + 1, issued := clk + 1, aged := false, back := false,
           oneShot := false }

/-- The fragment past `n` parcels of its clause, or at the next clause header (R44, R49). -/
def pastParcels (f : Frag) (n clk : Nat) : Frag :=
  if f.body.length ≤ f.parcel + n then gotoClause f (nextClause f) clk
  else { f with parcel := f.parcel + n, lit := none, status := .ready, resume := .fresh,
                age := clk + 1, issued := clk + 1, aged := false, back := false, oneShot := false }

/-- The focused fragment goes on after its instruction (R49, R196). -/
def advance (s : State) : State := { s with frag := pastParcels s.frag (curParcels s.frag) s.clk }

/-- The focused fragment transfers to a clause header (R48). -/
def jump (s : State) (a : DWord) : State := { s with frag := gotoClause s.frag a s.clk }

/-- Canonical: bits 63:57 equal bit 56 (R303). -/
def canonical (a : DWord) : Bool :=
  let top := a.extractLsb' 56 8
  top == 0#8 || top == 0xFF#8

/-- The trap a transfer to this address takes, if any: misaligned 0x07, non-canonical 0x05 (R48); misaligned first where it is
both (DESIGN CHOICE; assumption 73). -/
def targetTrap (a : DWord) : Option Nat :=
  if a.extractLsb' 0 2 != 0#2 then some 0x07 else if !canonical a then some 0x05 else none

/-- The target of a branch with displacement OFF20 (R70). -/
def branchTarget (f : Frag) (o : BitVec 20) : DWord := f.clause + (o.signExtend 64 <<< 2)

/-! ### Taking a trap and returning from it (R198 to R201) -/

/-- The trap word EPAR: parcel index and DONE (R200). -/
def eparWord (parcel : Nat) (done : Bool) : Word := BitVec.ofNat 32 (parcel + if done then 64 else 0)

/-- R198: a fragment enters trap mode at the vector `vec`: its PC, cause, EXEC and FMT are saved, EXEC keeps its
value, FMT becomes 0, and it transfers to (vec, 63).  `rec` is the park-area offset of the trap's record. -/
def trapEntry (f : Frag) (vec : DWord) (cause : Nat) (done : Bool) (rec : Option Nat) (clk : Nat) : Frag :=
  { gotoClause f vec clk with
    trapMode := true
    epc := f.clause
    epar := eparWord (pcParcel f) done
    ecause := BitVec.ofNat 32 cause
    eexec := f.exec
    efmt := f.fmt
    fmt := 0
    erecoff := match rec with
      | some o => BitVec.ofNat 32 o
      | none => 0xFFFFFFFF#32 }

/-- R198, R199: the focused fragment takes a precise trap.  With TVEC 0, or in trap mode already, the crew is
contained with the cause instead (R42). -/
def takeTrapRec (s : State) (cause : Nat) (done : Bool) (rec : Option Nat) : State :=
  if s.frag.trapMode || tvec s == 0 then { s with crew := { s.crew with contained := some cause } }
  else { s with frag := trapEntry s.frag (tvec s) cause done rec s.clk }

/-- A precise trap without a record. -/
def takeTrap (s : State) (cause : Nat) (done : Bool) : State := takeTrapRec s cause done none

/-- R201: the return from trap mode.  The clause named by EPC is fetched again; with DONE the fragment goes on after
the instruction at the saved PC, or after the whole clause when PARCEL is 63.  A bad clause address is a double
fault. -/
def trapReturn (s : State) : State :=
  match targetTrap s.frag.epc with
  | some c => takeTrap s c false
  | none =>
    let par := s.frag.epar.toNat % 64
    let done := s.frag.epar.getLsbD 6
    let f := gotoClause s.frag s.frag.epc s.clk
    { s with frag := { f with
        trapMode := false
        exec := s.frag.eexec &&& s.frag.lanes
        fmt := s.frag.efmt
        parcel := par
        after := done
        oneShot := true } }

/-! ### The checks before an instruction's effect (R64, R67, R72, R195) -/

/-- The classes of R194. -/
inductive RoleClass where
  | control | laneArith | laneMem | copy | matrix | traversal
  deriving DecidableEq, Repr

/-- R194: the classes a role allows. -/
def roleAllows (r : Role) (c : RoleClass) : Bool :=
  match c, r with
  | .control, _ => true
  | .laneArith, .gen => true | .laneArith, .vec => true | .laneArith, .mat => false | .laneArith, .copy => false
  | .laneMem, .gen => true | .laneMem, .vec => true | .laneMem, .mat => false | .laneMem, .copy => false
  | .copy, .gen => true | .copy, .copy => true | .copy, .mat => false | .copy, .vec => false
  | .matrix, .gen => true | .matrix, .mat => true | .matrix, .copy => false | .matrix, .vec => false
  | .traversal, .gen => true | .traversal, .mat => false | .traversal, .copy => false | .traversal, .vec => false

/-- The class of an F3 or FI instruction by its destination (R61, R194). -/
def classByDst (d : BitVec 8) : RoleClass := if scalarDst d then .control else .laneArith

/-- The instruction is legal here: its encoding under the card's VREGS and SREGS, and one literal exactly when one
operand field reads it (R60, R64, R67). -/
def legalHere (s : State) (i : Instr) : Bool :=
  legalIn s.crew.vregs s.crew.sregs i && (litUses i == if s.frag.lit.isSome then 1 else 0)

/-- Reading CLK.L latches bits 63:32 of the count for the wave (R59). -/
def latchClk (s : State) (codes : List (BitVec 8)) : State :=
  if codes.any (fun c => c.toNat == 0xE9) then
    { s with wave := { s.wave with clkHi := some (BitVec.ofNat 32 (s.clk / 2 ^ 32)) } }
  else s

/-- The uniform operand and store source codes of an instruction (R208, R251). -/
def uniformCodes (i : Instr) : List (BitVec 8) :=
  (operands i).filterMap (fun x => match x with
    | .uni c => some c
    | .storeSrc c _ => some c
    | .storeU c _ => some c
    | .src _ | .src64 _ | .dst _ | .dst64 _ | .dstFi _ | .scal _ _ | .lanes _ _ _ | .lanesTo _ _ _ | .sregs _ _ _
    | .addr64 _ | .off32 _ | .sleep _ | .raw _ => none)

/-- R67, then R195, then the effect; a uniform operand CLK.L latches as it is read (R59; assumption 16). -/
def checked (i : Instr) (c : RoleClass) (s : State) (k : State → State) : Out :=
  if !legalHere s i then .next (takeTrap s 0x08 false)
  else if !s.frag.trapMode && !roleAllows s.wave.role c then .next (takeTrap s 0x10 false)
  else .next (k (latchClk s (uniformCodes i)))

/-- R96, R97: after its results are written, an instruction commits its flags; an enabled flag then takes the
arithmetic trap with DONE 1, and otherwise the fragment goes on. -/
def finishFlags (s : State) (fl : Flags) : State :=
  let s' := commitFlags s fl
  if (fl.extractLsb' 0 5 &&& (fptrap s).extractLsb' 0 5) != 0#5 then takeTrap s' 0x0B true else advance s'

end Sys2Proof.Machine
end

