-- ==== Sys2Proof/Machine/Memory.lean ====
section
/-! DEFINITION. Physical memory: the address classes and the pool decoders (R457, R458, R483), poison (R145 to R147),
reads and writes of bytes in little-endian order (R4, R114), and the bytes a stale fetch may still see (R51). -/

namespace Sys2Proof.Machine

/-- The bytes of x, lowest first (R4). -/
def bytesLE : Nat → Nat → List Byte
  | 0, _ => []
  | n + 1, x => BitVec.ofNat 8 x :: bytesLE n (x / 256)

/-- The number whose bytes these are, lowest first (R4). -/
def natLE : List Byte → Nat
  | [] => 0
  | b :: bs => b.toNat + 256 * natLE bs

/-- The class of a physical address, its bits 51 to 48 (R457). -/
def paClass (pa : Nat) : Nat := pa / 2 ^ 48 % 16

/-- The offset within its class, bits 47 to 0. -/
def paOffset (pa : Nat) : Nat := pa % 2 ^ 48

/-- The number of set bits below bit 8 of a port mask. -/
def portCount (m : Nat) : Nat := ((List.range 8).filter (fun i => m.testBit i)).length

/-- The enabled decoder that covers a class 2 address (R483). -/
def decOf (d : Dev) (pa : Nat) : Option PoolDec :=
  let page := paOffset pa / 4096
  ((d.decs.map Prod.snd).find? (fun e => e.en && e.base ≤ page && decide (page < e.base + e.size)))

/-- The port a decoder sends a page to: the n-th set port, n the page number modulo their count (R483). -/
def decPort (e : PoolDec) (page : Nat) : Nat :=
  ((List.range 8).filter (fun i => e.ports.testBit i)).getD (page % portCount e.ports) 0

/-- R457, R458, R483: the address exists. -/
def paExists (d : Dev) (pa : Nat) : Bool :=
  match paClass pa with
  | 0 => decide (paOffset pa < d.priv)
  | 1 => true
  | 2 => (decOf d pa).isSome
  | _ => false

/-- A poison mark concerns a line: whether it poisons it, or clears it. -/
def markOf (line : Nat) (m : PoisonMark) : Option Bool :=
  match m with
  | .lines first count on => if first ≤ line && line < first + count then some on else none
  | .copies first count => if first ≤ line && line < first + count then some true else none
  | .routed e port =>
    let page := paOffset (line * 128) / 4096
    if paClass (line * 128) == 2 && e.base ≤ page && page < e.base + e.size && decPort e page == port then some true
    else none
  | .hostCached held maybe n =>
    if held.contains line || (maybe.contains line && Config.freeBit n line) then some true else none

/-- The mark stands in the line's backing, not only in a copy the device holds (R146). -/
def inBacking (m : PoisonMark) : Bool :=
  match m with
  | .lines _ _ _ | .routed _ _ => true
  | .copies _ _ | .hostCached _ _ _ => false

/-- The newest mark that concerns the line. -/
def markedPoison (line : Nat) : List PoisonMark → Bool
  | [] => false
  | m :: rest => match markOf line m with
    | some b => b
    | none => markedPoison line rest

/-- R145, R474: a read of this line returns poison. -/
def linePoisoned (d : Dev) (line : Nat) : Bool :=
  (paClass (line * 128) == 1 && !d.host.up) || markedPoison line d.poison

/-- The canonical form of memory: addresses strictly rising, and no byte listed that equals what an unlisted address
reads as, zero. -/
def Memory.wf (m : List Host.Cell) : Bool := tabWf 0#8 m

/-- A byte of memory. -/
def byteAt (d : Dev) (pa : Nat) : Byte := tabGet 0#8 d.mem pa

/-- n bytes of memory from pa on. -/
def bytesAt (d : Dev) (pa n : Nat) : List Byte := (List.range n).map (fun i => byteAt d (pa + i))

/-- The number n bytes of memory hold. -/
def natAt (d : Dev) (pa n : Nat) : Nat := natLE (bytesAt d pa n)

/-- Some byte of the range reads as poison. -/
def rangePoisoned (d : Dev) (pa n : Nat) : Bool :=
  (List.range n).any (fun i => linePoisoned d ((pa + i) / 128))

/-- The one operation that changes a byte of memory: the byte it held is kept, under the number of the step, for stale
fetches (R51) and for the reads of asynchronous operations in flight (R120). -/
def putByte (d : Dev) (pa : Nat) (b : Byte) : Dev :=
  { d with
    mem := tabSet 0#8 d.mem pa b
    hist := (pa, byteAt d pa, d.histSeq) :: d.hist }

/-- A byte written by the device under a leaf's key; a poisoned line discards it (R146). -/
def storeByte (key : Nat) (d : Dev) (pa : Nat) (b : Byte) : Dev :=
  if linePoisoned d (pa / 128) then d
  else
    let d1 := putByte d pa b
    if paClass pa == 0 then d1
    else { d1 with lineKey := tabSet 0 d1.lineKey (pa / 128) key, sealed := tabDel d1.sealed (pa / 128) }

/-- Bytes written from pa on. -/
def storeBytes (key : Nat) : Dev → Nat → List Byte → Dev
  | d, _, [] => d
  | d, pa, b :: bs => storeBytes key (storeByte key d pa b) (pa + 1) bs

/-! ### What a location held at a free moment (R120) -/

/-- The numbers of the steps since mark m that wrote a byte of the aligned word at a, newest first. -/
def wordTimes (h : List (Nat × Byte × Nat)) (m a : Nat) : List Nat :=
  ((h.filter (fun e => decide (a ≤ e.1) && decide (e.1 < a + 4) && decide (m ≤ e.2.2))).map (fun e => e.2.2)).eraseDups

/-- What a byte held before step t. -/
def byteThen (h : List (Nat × Byte × Nat)) (now : Byte) (t a : Nat) : Byte :=
  match (h.filter (fun e => e.1 == a && decide (t ≤ e.2.2))).getLast? with
  | some e => e.2.1
  | none => now

/-- A byte as its aligned 4-byte word stood at some moment since mark m, the same for the bytes of one word (R120). -/
def byteSince (h : List (Nat × Byte × Nat)) (m n key : Nat) (now : Byte) (a : Nat) : Byte :=
  match wordTimes h m (a / 4 * 4) with
  | [] => now
  | ts => match ts[Config.freeNat n (key + a / 4) % (ts.length + 1)]? with
    | some t => byteThen h now t a
    | none => now

/-- A byte of memory as an asynchronous operation that issued at mark m reads it (R120; assumption 24). -/
def memSince (d : Dev) (m n pa : Nat) : Byte := byteSince d.hist m n (2 ^ 60) (byteAt d pa) pa

/-- The bytes a fetch by a wave that last synchronised at mark `m` may see at pa: the value now, or one the byte has
held since (R51). -/
def staleBytes (d : Dev) (m pa : Nat) : List Byte :=
  (d.hist.filter (fun h => h.1 == pa && m ≤ h.2.2)).map (fun h => h.2.1)

/-- R51: the byte a fetch sees. -/
def fetchByte (d : Dev) (m n pa : Nat) : Byte :=
  match staleBytes d m pa with
  | [] => byteAt d pa
  | l => (byteAt d pa :: l).getD (Config.freeNat n pa % (l.length + 1)) 0#8

/-! ### Bits of numbers -/

/-- Bits hi to lo of a number. -/
def bitsOf (x hi lo : Nat) : Nat := x / 2 ^ lo % 2 ^ (hi - lo + 1)

end Sys2Proof.Machine
end

