-- ==== Sys2Proof/Machine/Park.lean ====
section
/-! DEFINITION. Room in the park area: where records and spilled split-table entries lie (R35, R190, R331). -/

namespace Sys2Proof.Machine

/-- The first offset from `pos` on at which `size` bytes are free below `limit`, past the places taken. -/
def parkFind (size limit : Nat) : Nat → List (Nat × Nat) → Option Nat
  | pos, [] => if pos + size ≤ limit then some pos else none
  | pos, (o, n) :: rest => if pos + size ≤ o then some pos else parkFind size limit (max pos (o + n)) rest

/-- A place added among rising places. -/
def parkInsert (a : Nat × Nat) : List (Nat × Nat) → List (Nat × Nat)
  | [] => [a]
  | b :: rest => if a.1 < b.1 then a :: b :: rest else b :: parkInsert a rest

/-- R35, R331: `size` bytes of the park area at 0x1200 or beyond, at the first place that is free (assumption 7). -/
def parkAlloc (c : Crew) (size : Nat) : Option (Nat × Crew) :=
  match parkFind size c.parkSize 0x1200 c.allocs with
  | some o => some (o, { c with allocs := parkInsert (o, size) c.allocs })
  | none => none

/-- The place at offset o given back. -/
def parkFree (c : Crew) (o : Nat) : Crew := { c with allocs := c.allocs.filter (fun a => a.1 != o) }

/-- `k` places of `size` bytes each, or none when they do not all fit (R190). -/
def parkAllocMany (size : Nat) : Nat → Crew → Option (List Nat × Crew)
  | 0, c => some ([], c)
  | k + 1, c => match parkAlloc c size with
    | none => none
    | some (o, c1) => match parkAllocMany size k c1 with
      | none => none
      | some (os, c2) => some (o :: os, c2)

/-- R190: places for a wave that comes to hold nf fragments and nj join records: 16 of each lie in the split table,
each further one takes 128 or 32 bytes of the park area.  Places no longer needed are given back.  What those bytes read as
is nowhere given: they keep what stood there (DESIGN CHOICE; assumption 75). -/
def splitRoom (c : Crew) (w : Wave) (nf nj : Nat) : Option (Crew × Wave) :=
  let wantF := nf - 16
  let wantJ := nj - 16
  let c1 := (w.fspill.drop wantF).foldl parkFree c
  let c2 := (w.jspill.drop wantJ).foldl parkFree c1
  match parkAllocMany 128 (wantF - w.fspill.length) c2 with
  | none => none
  | some (fs, c3) => match parkAllocMany 32 (wantJ - w.jspill.length) c3 with
    | none => none
    | some (js, c4) =>
      some (c4, { w with fspill := w.fspill.take wantF ++ fs, jspill := w.jspill.take wantJ ++ js })

/-- The wave and crew after fragments or join records went away. -/
def splitShrink (c : Crew) (w : Wave) (nf nj : Nat) : Crew × Wave := (splitRoom c w nf nj).getD (c, w)

/-- The least fragment number no live fragment of the wave has: its split-table entry, 0 to 95 (R190, R329). -/
def freeFragId (used : List Nat) : Nat := ((List.range laneCount).find? (fun k => !used.contains k)).getD 0

/-- A join record of the wave by its number. -/
def findJoin (w : Wave) (id : Nat) : Option JoinRec := w.joins.find? (fun j => j.id == id)

/-- The join chain from a link outward (R184), at most `fuel` records. -/
def joinChain (w : Wave) : Nat → Option Nat → List JoinRec
  | 0, _ => []
  | _ + 1, none => []
  | n + 1, some id => match findJoin w id with
    | none => []
    | some j => j :: joinChain w n j.outer

end Sys2Proof.Machine
end

