-- ==== Sys2Proof/Machine/Cache.lean ====
section
/-! DEFINITION. How an access of the device passes the page cache: the lines L2 holds, the frames, the access counters
and promotion (R460 to R465).  No value a read returns depends on it (R112). -/

namespace Sys2Proof.Machine

/-- The tag ABSENT (R466). -/
def tagAbsent : Nat := 5

/-- The tag POISON (R466). -/
def tagPoison : Nat := 7

/-- The home slice of a line, one of 1,536: a hash that is fixed and not architectural (R17; assumption 10). -/
def homeSlice (line : Nat) : Nat := Config.freeNat 0 line % 1536

/-- The die of a line's home slice: each holds 256 (R1, R9). -/
def lineDie (line : Nat) : Nat := homeSlice line / 256

/-- The die whose stacks hold a page's frame: fixed, and not architectural (R468; assumption 10). -/
def frameDie (page : Nat) : Nat := Config.freeNat 0 (2 ^ 60 + page) % 6

/-- A die's page-cache block. -/
def pcDie (p : PCache) (die : Nat) : PcDie := tabGet PcDie.reset p.dies die

/-- The page cache with a die's block changed. -/
def updPcDie (p : PCache) (die : Nat) (f : PcDie → PcDie) : PCache :=
  { p with dies := tabSet PcDie.reset p.dies die (f (pcDie p die)) }

/-- The frame of a page, if it has one. -/
def frameOf (p : PCache) (page : Nat) : Option Frame := (p.frames.find? (fun e => e.1 == page)).map Prod.snd

/-- The state of a line in L2, if it is held. -/
def l2Of (p : PCache) (line : Nat) : Option LineState := (p.l2.find? (fun e => e.1 == line)).map Prod.snd

/-- The tag of a line in its frame. -/
def frameTag (f : Frame) (line : Nat) : Nat := tabGet tagAbsent f.tags (line % 32)

/-! ### Encodings and chunks (R466 to R468) -/

/-- Tags of R466. -/
def tagRaw : Nat := 0
/-- Every byte zero. -/
def tagZero : Nat := 1

/-- The 32-byte units of a tag (R466). -/
def tagUnits (t : Nat) : Nat := [4, 0, 1, 2, 3, 0, 0, 0].getD t 0

/-- The words of a line. -/
def lineWords (d : Dev) (line : Nat) : List Word :=
  (List.range 32).map (fun i => BitVec.ofNat 32 (natAt d (line * 128 + 4 * i) 4))

/-- Every word is a base and a signed delta of `bits` bits (R466). -/
def deltaFits (bits : Nat) (ws : List Word) : Bool :=
  ws.all (fun w =>
    let x := (w - ws.headD 0#32).toInt
    decide (-(2 : Int) ^ (bits - 1) ≤ x) && decide (x < (2 : Int) ^ (bits - 1)))

/-- R467: the encoding of a line: the first that fits. -/
def encodeTag (ws : List Word) (key : Nat) (nocmp : Bool) : Nat :=
  if key != 0 || nocmp then tagRaw
  else if ws.all (fun w => w == 0#32) then tagZero
  else if ws.all (fun w => w == ws.headD 0#32) then 2
  else if deltaFits 8 ws then 3
  else if deltaFits 16 ws then 4
  else tagRaw

/-- The tag a line takes when it is encoded under a KEY (R466, R467, R145). -/
def tagUnder (d : Dev) (line key : Nat) : Nat :=
  if linePoisoned d line then tagPoison else encodeTag (lineWords d line) key d.pc.nocmp

/-- The tag a line would take now: KEY is that of the leaf it was last written or filled through (R467). -/
def lineTag (d : Dev) (line : Nat) : Nat := tagUnder d line (tabGet 0 d.pc.fillKey line)

/-- The chunks a frame with these tags occupies (R468). -/
def chunksOf (tags : List (Nat × Nat)) : Nat := ((tags.map (fun t => tagUnits t.2)).sum + 15) / 16

/-- R469: a die's free chunks set: FILLSTOP is entered at LOW and left above HIGH. -/
def setFree (x : PcDie) (free : Nat) : PcDie :=
  { x with free := free, fillstop := if free ≤ x.low then true else if x.high < free then false else x.fillstop }

/-- A frame put into the page cache, its chunks charged to its die (R468). -/
def putFrame (p : PCache) (page : Nat) (f : Frame) : PCache :=
  let had := match frameOf p page with
    | some g => g.chunks
    | none => 0
  updPcDie { p with frames := tabInsert p.frames page f } f.die (fun x => setFree x (x.free + had - f.chunks))

/-- A frame gone, its chunks returned. -/
def dropFrame (p : PCache) (page : Nat) : PCache :=
  match frameOf p page with
  | none => p
  | some f => updPcDie { p with frames := tabDel p.frames page } f.die (fun x => setFree x (x.free + f.chunks))

/-- The frame with a line under another tag. -/
def retag (f : Frame) (line tag : Nat) (dirty : Bool) : Frame :=
  let tags := tabSet tagAbsent f.tags (line % 32) tag
  let others := f.dirty.filter (fun x => x != line % 32)
  { f with tags := tags, dirty := if dirty then line % 32 :: others else others, chunks := chunksOf tags }

/-- A line under another tag in the frame of its page, if it has one. -/
def retagLine (p : PCache) (line tag : Nat) (dirty : Bool) : PCache :=
  match frameOf p (line / 32) with
  | none => p
  | some f => putFrame p (line / 32) (retag f line tag dirty)

/-- Lines written back to their backing counted (R471). -/
def countWb (p : PCache) (die n : Nat) : PCache := updPcDie p die (fun x => { x with wb := x.wb + n })

/-- R470: a modified line evicted from L2 into its frame, or to its backing. -/
def evictModified (d : Dev) (line : Nat) : PCache :=
  let p := { d.pc with l2 := tabDel d.pc.l2 line }
  match frameOf p (line / 32) with
  | none => if paClass (line * 128) == 0 then p else countWb p (lineDie line) 1
  | some f =>
    if f.state == .draining then countWb (putFrame p (line / 32) (retag f line tagAbsent false)) f.die 1
    else
      let g := retag f line (lineTag d line) true
      if f.chunks < g.chunks && (pcDie p f.die).free < g.chunks - f.chunks then
        let p1 := countWb (putFrame p (line / 32) (retag f line tagAbsent false)) f.die 1
        updPcDie p1 f.die (fun x => { x with wbraw := true })
      else putFrame p (line / 32) g

/-- The lines a slice of L2 holds: 6 GiB over 1,536 slices (R1). -/
def sliceLines : Nat := 32768

/-- R1: a full slice evicts one of its lines for another; which one is left free. -/
def makeRoomFor (d : Dev) (n line : Nat) : Dev :=
  let here := d.pc.l2.filter (fun e => homeSlice e.1 == homeSlice line)
  if here.length < sliceLines then d
  else match here[Config.freeNat n (2 ^ 61 + line) % here.length]? with
    | none => d
    | some (x, .m) => { d with pc := evictModified d x }
    | some (x, _) => { d with pc := { d.pc with l2 := tabDel d.pc.l2 x } }

/-! ### Accesses (R460, R461, R463 to R465) -/

/-- The device may hold the line in a cache: a class 2 line needs a port of CXL 3.x whose far end offers back-invalidation
(R457, R463, R464, R482). -/
def cacheable (d : Dev) (line : Nat) : Bool :=
  match paClass (line * 128) with
  | 0 => true
  | 1 => d.host.cxl != 0
  | 2 => match decOf d (line * 128) with
    | none => false
    | some e =>
      let port := tabGet default d.ports (decPort e (paOffset (line * 128) / 4096))
      port.gen == 2 && port.hdmdb
  | _ => false

/-- R461, R463, R464: the pages of a region that its touch mask names, have no frame and may be held. -/
def pagesDue (d : Dev) (p : PCache) (region mask : Nat) : List Nat :=
  ((List.range 16).map (fun i => region * 16 + i)).filter (fun page =>
    mask.testBit (page % 16) && (frameOf p page).isNone && cacheable d (page * 32))

/-- Fills are stopped on the die whose stacks would hold the page (R469). -/
def fillsStopped (p : PCache) (page : Nat) : Bool := (pcDie p (frameDie page)).fillstop

/-- R461: a region whose counter stands at PROMO: its touched pages start to fill, and counter and mask return to zero; while
fills are stopped for one of them, that page is not started and the counter keeps its value (R476). -/
def promoteRegion (d : Dev) (p : PCache) (region cnt mask : Nat) : PCache :=
  let due := pagesDue d p region mask
  let go := due.filter (fun page => !fillsStopped p page)
  let p1 := go.foldl (fun p page =>
    { p with frames := tabInsert p.frames page ⟨frameDie page, .filling, [], [], 0, []⟩ }) p
  if due.any (fillsStopped p) then { p1 with counters := tabInsert p1.counters region (cnt, mask) }
  else { p1 with counters := tabDel p1.counters region }

/-- R461: a line access that was forwarded is counted, from zero where the region's counter has been dropped, which may be at
any time; at PROMO the touched pages are promoted. -/
def countForward (d : Dev) (n line : Nat) : PCache :=
  let p := d.pc
  let region := line / 512
  let old := if Config.freeBit n (2 ^ 63 + region) then (0, 0) else tabGet (0, 0) p.counters region
  let cnt := min 255 (old.1 + 1)
  let mask := old.2 ||| (1 <<< (line / 32 % 16))
  let p1 := updPcDie p (lineDie line) (fun x => { x with fwd := x.fwd + 1 })
  if p1.promo != 0 && p1.promo ≤ cnt then promoteRegion d p1 region cnt mask
  else { p1 with counters := tabInsert p1.counters region (cnt, mask) }

/-- R462, R467: the KEY of the leaf through which a line, and its page, has been reached now. -/
def noteKey (p : PCache) (line key : Nat) : PCache :=
  { p with fillKey := tabSet 0 p.fillKey line key, pageKey := tabSet 0 p.pageKey (line / 32) key }

/-- The line is held by the device again: a fill that comes to it reads it (R476). -/
def notTaken (p : PCache) (line : Nat) : PCache :=
  match frameOf p (line / 32) with
  | none => p
  | some f => { p with frames := tabInsert p.frames (line / 32) { f with taken := f.taken.filter (fun i => i != line % 32) } }

/-- A line fetched into L2: encoded from its frame, or forwarded from its backing and counted (R460, R461, R465). -/
def missLine (d0 : Dev) (n line : Nat) (own counted : Bool) : Dev :=
  let d := if (l2Of d0.pc line).isSome then d0 else makeRoomFor d0 n line
  let held := match frameOf d.pc (line / 32) with
    | some f => frameTag f line != tagAbsent
    | none => false
  let p := if held || !counted then d.pc else countForward d n line
  let q := notTaken p line
  { d with pc := { q with l2 := tabInsert q.l2 line (if own then .m else if held then .sc else .s) } }

/-- A line that L2 holds in a state it may serve from, owned where the access writes. -/
def hitLine (d : Dev) (line : Nat) (own : Bool) : Dev :=
  if own then { d with pc := { d.pc with l2 := tabInsert d.pc.l2 line .m } } else d

/-- An access to a line through a leaf of this KEY: a hit in L2, from the frame, or forwarded; a write owns the line (R460,
R461, R463 to R465, R467).  A clean line may have left L2 meanwhile. -/
def touchLine (d0 : Dev) (n line : Nat) (own : Bool) (key : Nat) : Dev :=
  let counted := paClass (line * 128) != 0
  let d := if counted then { d0 with pc := noteKey d0.pc line key } else d0
  if !cacheable d line then
    if counted then { d with pc := countForward d n line } else d
  else match l2Of d.pc line with
    | some .m => d
    | none => missLine d n line own counted
    | some .s | some .sc => if Config.freeBit n line then hitLine d line own else missLine d n line own counted

/-- Lines read through a leaf of one KEY. -/
def touchLines (d : Dev) (n key : Nat) (lines : List Nat) : Dev := lines.foldl (fun d l => touchLine d n l false key) d

/-- Lines owned for a write through a leaf of one KEY. -/
def ownLines (d : Dev) (n key : Nat) (lines : List Nat) : Dev := lines.foldl (fun d l => touchLine d n l true key) d

/-- The lines that n bytes of physical memory lie in. -/
def linesOfRange (pa len : Nat) : List Nat :=
  if len == 0 then [] else (List.range ((pa + len - 1) / 128 - pa / 128 + 1)).map (fun i => pa / 128 + i)

/-! ### The L1 data caches (R247, R313, R314) -/

/-- The words of a line that the range of bytes at an address touches, or, with `whole`, those it covers. -/
def wordMask (a size : Nat) (whole : Bool) : Nat :=
  let o := a % 128
  ((List.range 32).filter (fun i =>
    if whole then decide (o ≤ 4 * i) && decide (4 * i + 4 ≤ o + size)
    else decide (o < 4 * i + 4) && decide (4 * i < o + size))).foldl (fun m i => m ||| (1 <<< i)) 0

/-- The line of a core's L1 that an access under a tag and generation hits, by its virtual address (R247, R311). -/
def l1Line (p : PCache) (core tag gen va : Nat) : Option L1Line :=
  p.l1.find? (fun x => x.core == core && x.tag == tag && x.gen == gen && x.vline == va / 128)

/-- R247: the L1 serves a load of these bytes: its words are valid, and their lease covers the wave's timestamp, which is free
(R117). -/
def l1Serves (d : Dev) (n core tag gen va size pa : Nat) : Bool :=
  match l1Line d.pc core tag gen va with
  | none => false
  | some x =>
    let want := wordMask va size false
    x.pline == pa / 128 && x.valid &&& want == want && Config.freeBit n (2 ^ 71 + 2 ^ 58 * core + va / 128)

/-- The lines of an L1: 1,024 in 8 ways, the set chosen by the virtual line (R247). -/
def l1Ways : Nat := 8

/-- R247: a line put into a core's L1; where its set is full, one of the set, left free, goes. -/
def l1Put (p : PCache) (n : Nat) (x : L1Line) : PCache :=
  let rest := p.l1.filter (fun y => !(y.core == x.core && y.tag == x.tag && y.gen == x.gen && y.vline == x.vline))
  let set := rest.filter (fun y => y.core == x.core && y.vline % 128 == x.vline % 128)
  let kept := if set.length < l1Ways then rest
    else match set[Config.freeNat n (2 ^ 72 + x.vline) % set.length]? with
      | some y => rest.filter (fun z => z != y)
      | none => rest
  { p with l1 := x :: kept }

/-- R314: the copies of a physical line held under another virtual address go before the fill is answered. -/
def dropSynonyms (p : PCache) (pline vline tag : Nat) : PCache :=
  { p with l1 := p.l1.filter (fun y => !(y.pline == pline && !(y.vline == vline && y.tag == tag))) }

/-- The copies that L1s hold of a physical line go (R314, R463, R464, R475). -/
def dropL1 (p : PCache) (line : Nat) : PCache := { p with l1 := p.l1.filter (fun x => x.pline != line) }

/-- A load of a crew's lane: it hits in the core's L1, or the line is filled from its home, merged with the words that were
valid (R247, R314). -/
def loadLine (d : Dev) (n core tag gen va size pa key : Nat) : Dev :=
  if l1Serves d n core tag gen va size pa then d
  else
    let d1 := touchLine d n (pa / 128) false key
    if !cacheable d1 (pa / 128) then d1
    else
      let p := dropSynonyms d1.pc (pa / 128) (va / 128) tag
      { d1 with pc := l1Put p n ⟨core, tag, gen, va / 128, pa / 128, 2 ^ 32 - 1⟩ }

/-- A store of a crew's lane: written through to its home, the words it writes whole valid in the core's L1, which allocates
the line without fetching it (R247). -/
def storeLine (d : Dev) (n core tag gen va size pa key : Nat) : Dev :=
  let d1 := touchLine d n (pa / 128) true key
  if !cacheable d1 (pa / 128) then d1
  else
    let old := match l1Line d1.pc core tag gen va with
      | some x => if x.pline == pa / 128 then x.valid else 0
      | none => 0
    let p := dropSynonyms d1.pc (pa / 128) (va / 128) tag
    { d1 with pc := l1Put p n ⟨core, tag, gen, va / 128, pa / 128, old ||| wordMask va size true⟩ }

end Sys2Proof.Machine
end

