-- ==== Sys2Proof/Machine/Translate.lean ====
section
/-! DEFINITION. Translation of virtual addresses: the walk of the device page tables (R303 to R307), the cached
translations (R311 to R313), host translation (R315, R316), and the missing pages of Salamander (R323). -/

namespace Sys2Proof.Machine

/-- What an access wants of its page. -/
structure Want where
  rd : Bool
  wr : Bool
  ex : Bool
  deriving DecidableEq, Repr

/-- The die of a core (R9). -/
def dieOf (core : Nat) : Nat := core % 48 / 16 + 3 * (core / 48 / 16)

/-- A crew's access, made from its core. -/
def crewAsker (c : Crew) (k : Link) : Asker := ⟨c.core, k⟩

/-- An operation of a crew as it translates. -/
def opAsker (c : Crew) (o : Op) : Asker := ⟨c.core, .op c.uid o.id⟩

/-- A die's own engine as it translates. -/
def dieAsker (die : Nat) (k : Link) : Asker := ⟨1536 + die, k⟩

/-- The die an access is made on. -/
def Asker.die (a : Asker) : Nat := if a.place < 1536 then dieOf a.place else a.place - 1536

/-- A load, or a read of an asynchronous operation. -/
def wantRead : Want := ⟨true, false, false⟩
/-- A store. -/
def wantWrite : Want := ⟨false, true, false⟩
/-- A read-modify-write. -/
def wantBoth : Want := ⟨true, true, false⟩
/-- An instruction fetch. -/
def wantFetch : Want := ⟨false, false, true⟩

/-- The permissions cover what is wanted. -/
def grants (rd wr ex : Bool) (w : Want) : Bool := (!w.rd || rd) && (!w.wr || wr) && (!w.ex || ex)

/-- R252, R321: the trap of a present page without a permission wanted: 0x02 for a write to a page that may be read,
else 0x03. -/
def refusalCause (rd : Bool) (w : Want) : Nat := if w.wr && rd then 0x02 else 0x03

/-- The outcome of a translation (R321). -/
inductive Tr where
  | ok (pa key : Nat)
  | wait              -- a Translation Completion is outstanding (R315)
  | miss (host : Bool)
  | trap (cause : Nat)
  deriving DecidableEq, Repr

/-- The bytes an entry of a level covers (R303). -/
def levelSize (level : Nat) : Nat := 2 ^ (12 + 9 * (level - 1))

/-- The index bits of a level (R303). -/
def levelIndex (va level : Nat) : Nat := va / levelSize level % 512

/-- What an entry says by itself (R304, R305). -/
inductive Pte where
  | absent
  | malformed
  | table (pa : Nat)
  | leaf (pa key : Nat) (c64 rd wr ex : Bool)
  | host (rd wr ex : Bool)
  deriving DecidableEq, Repr

/-- R304, R305: an entry of a level read. -/
def readPte (level : Nat) (e : DWord) : Pte :=
  let addr := (e.extractLsb' 12 40).toNat * 4096
  let key := (e.extractLsb' 52 7).toNat
  let c64 := e.getLsbD 6
  let rd := e.getLsbD 3
  let wr := e.getLsbD 4
  let ex := e.getLsbD 5
  if !e.getLsbD 0 then .absent
  else if e.extractLsb' 7 5 != 0#5 || e.extractLsb' 59 5 != 0#5 then .malformed
  else if c64 && level != 1 then .malformed
  else match (e.extractLsb' 1 2).toNat with
    | 0 => if level == 1 then .malformed else .table addr
    | 1 =>
      if 4 ≤ level || addr % levelSize level != 0 || (c64 && addr % 65536 != 0) then .malformed
      else .leaf addr key c64 rd wr ex
    | 2 => if addr != 0 || key != 0 then .malformed else .host rd wr ex
    | _ => .malformed

/-- The outcome of a walk. -/
inductive Walk where
  | absent
  | malformed
  | poison
  | leaf (base size pa key : Nat) (rd wr ex : Bool)   -- size as a power of two
  | host (rd wr ex : Bool)
  deriving DecidableEq, Repr

/-- The entry of a level, from the die's walk cache or from memory, and the line read for it; no entry stands for poison or for
an address that does not exist, told apart by the flag (R307, R458). -/
def walkEntry (d : Dev) (die tag gen n va level table : Nat) : Option DWord × Bool × List Nat :=
  let base := va / levelSize level * levelSize level
  let a := table + 8 * levelIndex va level
  let fresh :=
    if !paExists d a then (none, false, [])
    else if linePoisoned d (a / 128) then (none, true, [a / 128])
    else (some (BitVec.ofNat 64 (natAt d a 8)), false, [a / 128])
  match d.walks.filter (fun w => w.die == die && w.tag == tag && w.gen == gen && w.level == level && w.base == base) with
  | [] => fresh
  | l =>
    match l[Config.freeNat n (va / 128 * 8 + level) % (l.length + 1)]? with
    | some w => (some w.pte, false, [])
    | none => fresh

/-- The outcome of an entry that ends a walk at a level. -/
def endWalk (va level : Nat) (p : Pte) : Walk :=
  match p with
  | .absent => .absent
  | .malformed | .table _ => .malformed
  | .host rd wr ex => .host rd wr ex
  | .leaf pa key c64 rd wr ex =>
    let size := if c64 then 16 else 12 + 9 * (level - 1)
    .leaf (va / 2 ^ size * 2 ^ size) size pa key rd wr ex

/-- The entry is a C64 leaf. -/
def pteC64 : Pte → Bool
  | .leaf _ _ c64 _ _ _ => c64
  | .absent | .malformed | .table _ | .host _ _ _ => false

/-- R306: where a group of 16 level-1 entries has a C64 entry, any one of the 16 may be the one that serves. -/
def groupLeaf (d : Dev) (n va table : Nat) (own : Pte) : Pte :=
  let g := levelIndex va 1 / 16 * 16
  let entry := fun k => readPte 1 (BitVec.ofNat 64 (natAt d (table + 8 * (g + k)) 8))
  if pteC64 own || (List.range 16).any (fun k => pteC64 (entry k)) then
    match entry (Config.freeNat n (va / 128) % 16) with
    | .table _ => .malformed
    | e => e
  else own

/-- What a walk comes to: its outcome, the table entries it may keep in the walk cache, and the lines it read. -/
structure Walked where
  out   : Walk
  seen  : List WalkEntry
  lines : List Nat

/-- R303 to R307: a walk from a level's table down. -/
def walkFrom (d : Dev) (die tag gen n va : Nat) : Nat → Nat → Walked
  | 0, _ => ⟨.malformed, [], []⟩
  | l + 1, table =>
    let level := l + 1
    match walkEntry d die tag gen n va level table with
    | (none, true, ls) => ⟨.poison, [], ls⟩
    | (none, false, ls) => ⟨.malformed, [], ls⟩
    | (some e, _, ls) =>
      match if level == 1 then groupLeaf d n va table (readPte 1 e) else readPte level e with
      | .table next =>
        let r := walkFrom d die tag gen n va l next
        ⟨r.out, ⟨die, tag, gen, level, va / levelSize level * levelSize level, e⟩ :: r.seen, ls ++ r.lines⟩
      | p => ⟨endWalk va level p, [], ls⟩

/-- A walk of the context in a slot, from its root, by a die's walkers (R303). -/
def walk (d : Dev) (die slot n va : Nat) : Walked :=
  let c := ctxOf d slot
  walkFrom d die c.tag c.gen n va 5 ((c.root.extractLsb' 12 40).toNat * 4096)

/-- The bits of ACC that name what an access wants (R326). -/
def accBits (w : Want) : Nat := (if w.rd then 1 else 0) + (if w.wr then 2 else 0) + (if w.ex then 4 else 0)

/-- A cached translation covers the address for this tag and generation (R311). -/
def tlbCovers (tag gen va : Nat) (e : TlbEntry) : Bool :=
  e.tag == tag && e.gen == gen && decide (e.base ≤ va) && decide (va < e.base + 2 ^ e.size)

/-- The translations that an access made from a place finds for an address: those of the core's L1 TLB and of its die's L2 TLB
(R313). -/
def tlbFor (d : Dev) (who : Asker) (slot va : Nat) : List TlbEntry :=
  let c := ctxOf d slot
  d.tlb.filter (fun e => (e.place == who.place || e.place == 1536 + who.die) && tlbCovers c.tag c.gen va e)

/-- A cached translation of an address; a host address has 48 bits (R457). -/
def tlbApply (e : TlbEntry) (va : Nat) : Tr :=
  if e.host then .ok (2 ^ 48 + (e.pa + (va - e.base)) % 2 ^ 48) e.key else .ok (e.pa + (va - e.base)) e.key

/-- The entries of a cache of `cap` entries after another comes to it: where the set it falls into is full, one of those there
goes.  Which entries share a set is not architectural: below the ways of one set none goes, at the capacity one does, and
between them that is left free (R313). -/
def cacheRoom {α : Type} [DecidableEq α] (n ways cap : Nat) (mine : α → Bool) (l : List α) : List α :=
  let here := l.filter mine
  if here.length < ways || (here.length < cap && Config.freeBit n (2 ^ 73 + here.length)) then l
  else match here[Config.freeNat n (2 ^ 73 + here.length) % here.length]? with
    | some x => l.filter (fun y => y != x)
    | none => l

/-- The ways and the entries of the TLB at a place: an L1 TLB of 64 entries, fully associative, or an L2 TLB of 4,096 in 8 ways
(R313). -/
def tlbSize (place : Nat) : Nat × Nat := if place < 1536 then (64, 64) else (8, 4096)

/-- A translation kept in the TLB at its place. -/
def keepTlb (n : Nat) (l : List TlbEntry) (e : TlbEntry) : List TlbEntry :=
  if l.contains e then l
  else e :: cacheRoom n (tlbSize e.place).1 (tlbSize e.place).2 (fun x => x.place == e.place) l

/-- A table entry kept in its die's walk cache of 256 entries; its ways are nowhere given (R313). -/
def keepWalk (n : Nat) (l : List WalkEntry) (w : WalkEntry) : List WalkEntry :=
  if l.contains w then l else w :: cacheRoom n 1 256 (fun x => x.die == w.die) l

/-- A translation found for an access kept in its die's L2 TLB and, of a core, in its L1 TLB, with the table entries that led to
it (R313). -/
def learn (d : Dev) (who : Asker) (n : Nat) (es : List TlbEntry) (ws : List WalkEntry) : Dev :=
  let both := fun e : TlbEntry =>
    { e with place := 1536 + who.die } :: (if who.place < 1536 then [{ e with place := who.place }] else [])
  { d with tlb := (es.flatMap both).foldl (keepTlb n) d.tlb, walks := ws.foldl (keepWalk n) d.walks }

/-- The request is for this page of the context bound to the slot, from this die. -/
def atsFor (d : Dev) (die slot page : Nat) (r : AtsReq) : Bool :=
  let c := ctxOf d slot
  r.die == die && r.slot == slot && r.tag == c.tag && r.gen == c.gen && r.page == page

/-- Links joined to others. -/
def addLinks (old links : List Link) : List Link := links.filter (fun k => !old.contains k) ++ old

/-- An ATS Translation Request sent by a die for a page (R315). -/
def sendAts (d : Dev) (die slot page : Nat) (w : Want) (entry : Bool × Bool × Bool) (again : Bool) (links : List Link)
    (pred : Option Nat) : Dev :=
  let c := ctxOf d slot
  { d with
    atsReqs := d.atsReqs ++
      [⟨d.nextAts, die, links, slot, c.tag, c.gen, c.pasid, page, w.rd, w.wr, w.ex, entry, false, again, pred⟩]
    nextAts := d.nextAts + 1
    out := .atsRequest d.nextAts c.pasid page w.wr w.ex :: d.out }

/-- R315: an ATS Translation Request for a page, unless the die has one like it outstanding, which the access then waits
for. -/
def askAts (d : Dev) (die slot page : Nat) (w : Want) (entry : Bool × Bool × Bool) (links : List Link) (pred : Option Nat) : Dev :=
  let same := fun r : AtsReq => atsFor d die slot page r && r.rd == w.rd && r.wr == w.wr && r.ex == w.ex
  if d.atsReqs.any same then
    { d with atsReqs := d.atsReqs.map (fun r => if same r then { r with links := addLinks r.links links } else r) }
  else sendAts d die slot page w entry false links pred

/-- The note is of this access, for this page. -/
def deniedTo (who : Asker) (slot page : Nat) (a : AtsDenied) : Bool := a.link == who.link && a.slot == slot && a.page == page

/-- The completion this access waited for has refused a permission it wants of the page (R316). -/
def deniedHere (d : Dev) (who : Asker) (slot page : Nat) (w : Want) : Bool :=
  d.atsDenied.any (fun a => deniedTo who slot page a && ((a.rd && w.rd) || (a.wr && w.wr) || (a.ex && w.ex)))

/-- The access has met what its completion refused. -/
def forgetNote (d : Dev) (who : Asker) (slot page : Nat) : Dev :=
  { d with atsDenied := d.atsDenied.filter (fun a => !deniedTo who slot page a) }

/-- R315, R316, R320: an address in a range delegated to the host. -/
def hostTranslate (d : Dev) (who : Asker) (slot n va : Nat) (w : Want) (rd wr ex : Bool) : Tr × Dev :=
  let c := ctxOf d slot
  let page := va / 4096
  if !c.pasiden || !d.host.ats then (.trap 0x03, d)
  else if !grants rd wr ex w then (.trap (refusalCause rd w), d)
  else match (tlbFor d who slot va).find? (fun e => e.host && grants e.rd e.wr e.ex w) with
    | some e => (tlbApply e va, learn d who n [e] [])
    | none =>
      if deniedHere d who slot page w then
        if c.prien then (.miss true, d) else (.trap 0x03, forgetNote d who slot page)
      else if !d.host.up then (.wait, d)
      else (.wait, askAts d who.die slot page w (rd, wr, ex) [who.link] none)

/-- A translation by a walk (R303, R312, R321). -/
def walkTranslate (d0 : Dev) (who : Asker) (slot n va : Nat) (w : Want) : Tr × Dev :=
  let c := ctxOf d0 slot
  let r := walk d0 who.die slot n va
  let d := touchLines d0 n 0 r.lines
  match r.out with
  | .absent => (.miss false, d)
  | .malformed => (.trap 0x03, d)
  | .poison => (.trap 0x04, d)
  | .host rd wr ex => hostTranslate (learn d who n [] r.seen) who slot n va w rd wr ex
  | .leaf base size pa key rd wr ex =>
    if !grants rd wr ex w then (.trap (refusalCause rd w), d)
    else if !paExists d (pa + (va - base)) then (.trap 0x03, d)
    else (.ok (pa + (va - base)) key,
      learn d who n [⟨0, c.tag, c.gen, base, size, pa, key, rd, wr, ex, false⟩] r.seen)

/-- R307, R311, R312, R321: the translation of a canonical address, its low 57 bits in `va`, for an access of the
context in a slot as `who` makes it.  Where cached translations stand, any of them or a fresh walk may serve; one that
refuses the access is followed by a walk. -/
def translatePlain (d : Dev) (who : Asker) (slot n va : Nat) (w : Want) : Tr × Dev :=
  match tlbFor d who slot va with
  | [] => walkTranslate d who slot n va w
  | l =>
    match l[Config.freeNat n (va / 128) % (l.length + 1)]? with
    | some e => if grants e.rd e.wr e.ex w then (tlbApply e va, learn d who n [e] []) else walkTranslate d who slot n va w
    | none => walkTranslate d who slot n va w

/-- R488: a key is being installed; accesses under its index wait. -/
def keyWaits (d : Dev) (key : Nat) : Bool :=
  match d.plat.sec.keyBusy with
  | some (k, _) => k == key
  | none => false

/-- A translation, its page's key at hand (R488). -/
def translate (d : Dev) (who : Asker) (slot n va : Nat) (w : Want) : Tr × Dev :=
  match translatePlain d who slot n va w with
  | (.ok pa key, d1) => (if keyWaits d1 key then .wait else .ok pa key, d1)
  | (.wait, d1) => (.wait, d1)
  | (.miss h, d1) => (.miss h, d1)
  | (.trap c, d1) => (.trap c, d1)

/-- The 57 bits of a canonical address that translation uses (R27, R303). -/
def vaBits (a : Nat) : Nat := a % 2 ^ 57

/-- The canonical virtual address of a page number (R27, R326). -/
def pageVa (page : Nat) : DWord := ((BitVec.ofNat 57 (page * 4096)).signExtend 64)

/-- R321: the translation of a 64-bit address: a non-canonical one traps. -/
def translate64 (d : Dev) (who : Asker) (slot n : Nat) (a : Nat) (w : Want) : Tr × Dev :=
  if canonical (BitVec.ofNat 64 a) then translate d who slot n (vaBits a) w else (.trap 0x05, d)

/-! ### Missing pages (R323) -/

/-- A missing page with another waiting access. -/
def Missing.join (m : Missing) (w : Want) (links : List Link) : Missing :=
  { m with
    links := addLinks m.links links, wlinks := if w.wr then addLinks m.wlinks links else m.wlinks, acc := m.acc ||| accBits w
    wants := if m.wants.contains (accBits w) then m.wants else accBits w :: m.wants }

/-- R323: a stop on a page joins the die's missing page for it, or makes a new one; `w` is what the access wants. -/
def addMissing (d : Dev) (die slot page clk : Nat) (host : Bool) (w : Want) (links : List Link) : Dev :=
  let c := ctxOf d slot
  let same := fun m : Missing => m.die == die && m.tag == c.tag && m.gen == c.gen && m.page == page
  let d0 := { d with atsDenied := d.atsDenied.filter (fun a => !(a.slot == slot && a.page == page && links.contains a.link)) }
  if d0.missing.any same then
    { d0 with missing := d0.missing.map (fun m => if same m then m.join w links else m) }
  else
    { d0 with missing := d0.missing ++ [⟨die, slot, c.tag, c.gen, page, host, accBits w, [accBits w], clk, .gathering, links,
        if w.wr then links else []⟩] }

/-- The missing pages an operation or fragment waits for: its missing-page count (R323). -/
def missingCount (d : Dev) (k : Link) : Nat := (d.missing.filter (fun m => m.links.contains k)).length

/-- A link withdrawn everywhere: from missing pages, from the translations asked for, and from what those refused. -/
def dropLink (d : Dev) (p : Link → Bool) : Dev :=
  { d with
    missing := d.missing.map (fun m => { m with
      links := m.links.filter (fun k => !p k), wlinks := m.wlinks.filter (fun k => !p k) })
    atsReqs := d.atsReqs.map (fun r => { r with links := r.links.filter (fun k => !p k) })
    atsDenied := d.atsDenied.filter (fun a => !p a.link) }

/-- What was asked for, and refused, in one name stands in another: a fragment's access issues as an operation (R315, R316). -/
def adoptLink (d : Dev) (old new : Link) : Dev :=
  let f := fun k : Link => if k == old then new else k
  { d with
    atsReqs := d.atsReqs.map (fun r => { r with links := r.links.map f })
    atsDenied := d.atsDenied.map (fun a => { a with link := f a.link }) }

/-- R325: a page predicted for a die without a link; its walk is a speculative one. -/
def predictPage (d : Dev) (die slot n page clk : Nat) (w : Want) : Dev :=
  let va := page * 4096
  if page ≥ 2 ^ 45 then d
  else
    let r := walk d die slot n va
    let d1 := touchLines d n 0 r.lines
    match r.out with
    | .absent => addMissing d1 die slot page clk false w []
    | .host rd wr ex =>
      if grants rd wr ex w && (ctxOf d slot).pasiden && d.host.ats && d.host.up &&
          !(tlbFor d (dieAsker die .none) slot va).any (fun e => grants e.rd e.wr e.ex w) then
        askAts d1 die slot page w (rd, wr, ex) [] (some die)
      else d1
    | _ => d1

end Sys2Proof.Machine
end

