-- ==== Sys2Proof/Machine/Record.lean ====
section
/-! DEFINITION. Replay records: the common header, the record index and the bodies of each unit, written into the
crew's park area and freed (R35, R37, R253, R329 to R331). -/

namespace Sys2Proof.Machine

/-- A byte of the park area. -/
def parkByte (c : Crew) (o : Nat) : Byte := tabGet 0#8 c.park o

/-- The number n bytes of the park area hold. -/
def parkNat (c : Crew) (o n : Nat) : Nat := natLE ((List.range n).map (fun i => parkByte c (o + i)))

/-- Bytes written into the park area. -/
def putPark (t : Tab Byte) (o : Nat) : List Byte → Tab Byte
  | [] => t
  | b :: bs => putPark (tabSet 0#8 t o b) (o + 1) bs

/-- The crew with bytes written into its park area. -/
def parkPut (c : Crew) (o : Nat) (bs : List Byte) : Crew := { c with park := putPark c.park o bs }

/-- Bytes of the scratchpad. -/
def scratchBytes (c : Crew) (o n : Nat) : List Byte := (List.range n).map (fun i => tabGet 0#8 c.scratch (o + i))

/-- Bytes written into the scratchpad; those they replace are kept under the number of the write (R120). -/
def putScratch (c : Crew) (o : Nat) (bs : List Byte) : Crew :=
  let old := (List.range bs.length).map (fun i => (o + i, tabGet 0#8 c.scratch (o + i), c.shistSeq))
  { c with scratch := putPark c.scratch o bs, shist := old ++ c.shist, shistSeq := c.shistSeq + 1 }

/-- A byte of the scratchpad as an asynchronous operation that issued at mark m reads it (R120; assumption 24). -/
def scratchSince (c : Crew) (m n o : Nat) : Byte := byteSince c.shist m n (2 ^ 61) (tabGet 0#8 c.scratch o) o

/-- n zero bytes. -/
def zeroBytes (n : Nat) : List Byte := List.replicate n 0#8

/-- The fields of a record header that differ from record to record (R329). -/
structure RecHead where
  kind  : Nat
  cause : Nat
  orig  : Option (DWord × Nat)   -- the origin PC
  late  : Bool
  wave  : Nat
  frag  : Nat
  nmiss : Nat
  lanes : Lanes
  va    : DWord
  pccl  : DWord
  pcpar : Nat

/-- R329: the 64 bytes of a header over a body of `bsize` bytes. -/
def recHeader (h : RecHead) (bsize seq : Nat) : List Byte :=
  bytesLE 1 h.kind ++ bytesLE 1 1 ++ bytesLE 1 h.cause ++
  bytesLE 1 ((if h.orig.isSome then 1 else 0) + (if h.late then 2 else 0)) ++
  bytesLE 1 h.wave ++ bytesLE 1 h.frag ++ bytesLE 2 h.nmiss ++ bytesLE 12 h.lanes.toNat ++ bytesLE 4 bsize ++
  bytesLE 8 h.va.toNat ++ bytesLE 8 h.pccl.toNat ++ bytesLE 1 h.pcpar ++
  bytesLE 1 (match h.orig with
    | some p => p.2
    | none => 0) ++ zeroBytes 6 ++
  bytesLE 8 (match h.orig with
    | some p => p.1.toNat
    | none => 0) ++ bytesLE 4 seq ++ zeroBytes 4

/-- The first free entry of the record index (R331). -/
def freeIndex (c : Crew) : Option Nat := (List.range 512).find? (fun i => parkNat c (8 * i) 4 == 0)

/-- The entry of the record index that names the record at offset o (R331). -/
def indexOf (c : Crew) (o : Nat) : Option Nat := (List.range 512).find? (fun i => parkNat c (8 * i) 4 == o)

/-- R331: an index entry. -/
def indexBytes (o kind cause size : Nat) : List Byte :=
  bytesLE 4 o ++ bytesLE 1 kind ++ bytesLE 1 cause ++ bytesLE 2 (size / 64)

/-- The bytes a record of this body takes: whole units of 64 (R331). -/
def recBytes (body : List Byte) : Nat := (64 + body.length + 63) / 64 * 64

/-- R35, R37, R331: a record written, at the place `at?` it already has or at a new one; none when it has no room. -/
def writeRecord (c : Crew) (h : RecHead) (body : List Byte) (at? : Option Nat) : Option (Nat × Crew) :=
  let size := recBytes body
  match at? with
  | some o =>
    let c1 := parkPut c o (recHeader h body.length c.recSeq ++ body)
    let c2 := match indexOf c o with
      | some i => parkPut c1 (8 * i) (indexBytes o h.kind h.cause size)
      | none => c1
    some (o, { c2 with recSeq := (c.recSeq + 1) % 2 ^ 32 })
  | none =>
    match freeIndex c with
    | none => none
    | some i => match parkAlloc c size with
      | none => none
      | some (o, c1) =>
        let c2 := parkPut c1 o (recHeader h body.length c.recSeq ++ body)
        some (o, { parkPut c2 (8 * i) (indexBytes o h.kind h.cause size) with recSeq := (c.recSeq + 1) % 2 ^ 32 })

/-- R35, R331: a record freed: its place given back, its index entry cleared. -/
def freeRecord (c : Crew) (o : Nat) : Crew :=
  let c1 := match indexOf c o with
    | some i => parkPut c (8 * i) (zeroBytes 8)
    | none => c
  parkFree c1 o

/-! ### The bodies -/

/-- The lanes of the pieces for which p holds; a scalar access stands for its fragment's lanes. -/
def pieceLanes (o : Op) (m : MemOp) (p : Piece → Bool) : Lanes :=
  if m.scalar then (if m.pieces.any p then o.lanes else 0#96)
  else lanesWhere (fun l => m.pieces.any (fun q => q.lane == l && p q))

/-- The lanes all of whose events are complete (R253). -/
def doneLanes (o : Op) (m : MemOp) : Lanes :=
  let some? := pieceLanes o m (fun _ => true)
  some? &&& ~~~ pieceLanes o m (fun q => !(q.done || q.skip))

/-- The distinct missing pages of a lane access in lane order (R253). -/
def missedPages (m : MemOp) : List Nat :=
  ((m.pieces.filter (fun q => q.absent)).map (fun q => q.va / 4096 * 4096)).eraseDups

/-- R253: the body of a KIND 1 record. -/
def memBody (o : Op) (m : MemOp) : List Byte :=
  let pages := (missedPages m).take 27
  bytesLE 12 (doneLanes o m).toNat ++ bytesLE 12 (pieceLanes o m (fun q => q.parked)).toNat ++
  bytesLE 4 o.insn.toNat ++ bytesLE 1 (if m.taken then 1 else 0) ++ zeroBytes 3 ++ bytesLE 4 pages.length ++ zeroBytes 4 ++
  (pages.map (bytesLE 8)).flatten ++ zeroBytes (216 - 8 * pages.length)

/-- Bytes cut or padded with zeros to a length. -/
def fitBytes (n : Nat) (b : List Byte) : List Byte := b.take n ++ zeroBytes (n - b.length)

/-- A page list: its count, `gap` zero bytes, and up to `room` addresses. -/
def pageList (ps : List Nat) (gap room : Nat) : List Byte :=
  bytesLE 4 (ps.take room).length ++ zeroBytes gap ++ fitBytes (8 * room) (((ps.take room).map (bytesLE 8)).flatten)

/-- R299: the body of a copy record. -/
def copyBody (o : Op) (p : CopyOp) : List Byte :=
  let produce := match p.kind with
    | .cpy _ f => f.testBit 2
    | .wbuf _ _ => false
    | .tsmov _ _ => false
  bytesLE 4 o.insn.toNat ++ bytesLE 4 o.fmt.toNat ++ fitBytes 32 ((p.block.map (fun w => bytesLE 4 w.toNat)).flatten) ++
  bytesLE 8 p.prog ++
  bytesLE 8 ((List.range 64).foldl (fun a j => if p.map.contains (p.prog + j) then a + 2 ^ j else a) 0) ++
  bytesLE 4 p.cred ++ bytesLE 1 (if produce then 0 else 2) ++ bytesLE 1 (if p.xoff.isSome then 1 else 0) ++ zeroBytes 2 ++
  bytesLE 8 (p.xoff.getD 0) ++ pageList p.miss 4 54

/-- R431: the body of a chain record. -/
def chainBody (o : Op) (h : ChainOp) : List Byte :=
  bytesLE 4 o.insn.toNat ++ bytesLE 4 o.fmt.toNat ++ bytesLE 8 h.x.toNat ++ bytesLE 8 h.n.toNat ++ bytesLE 4 h.steps ++
  bytesLE 4 h.sdone ++ bytesLE 8 h.word.toNat ++ bytesLE 1 h.phase ++ zeroBytes 3 ++
  (pageList h.miss 0 25).take 4 ++ bytesLE 4 h.need ++ zeroBytes 4 ++ (pageList h.miss 0 25).drop 4

/-- The blocks a region is divided into at every multiple of 64 (R398). -/
def blockCount (row0 col0 rows cols : Nat) : Nat :=
  if rows == 0 || cols == 0 then 0
  else ((row0 + rows - 1) / 64 - row0 / 64 + 1) * ((col0 + cols - 1) / 64 - col0 / 64 + 1)

/-- R409: the body of a tile-demand record. -/
def demandBody (o : Op) (t : DemandOp) : List Byte :=
  let own := t.kind == .own
  bytesLE 4 o.insn.toNat ++ bytesLE 4 o.fmt.toNat ++
  (if own then zeroBytes 32 else fitBytes 32 ((t.block.map (fun w => bytesLE 4 w.toNat)).flatten)) ++
  bytesLE 4 (blockCount t.row0 t.col0 t.rows t.cols) ++ bytesLE 4 t.done ++ bytesLE 2 (t.stop.getD 0xFFFF) ++ zeroBytes 2 ++
  pageList t.miss 8 120

/-- The lanes of a sample that are still to be written. -/
def smpPend (t : SmpOp) : Lanes :=
  t.coords.foldl (fun a p => if t.done.getLsbD p.1 then a else a ||| (1#96 <<< p.1)) 0#96

/-- R351: the body of a sample record. -/
def smpBody (o : Op) (t : SmpOp) : List Byte :=
  let coord := fun l => match t.coords.find? (fun p => p.1 == l) with
    | some p => bytesLE 4 p.2.1.toNat ++ bytesLE 4 p.2.2.toNat
    | none => zeroBytes 8
  bytesLE 12 t.done.toNat ++ bytesLE 12 (smpPend t).toNat ++ bytesLE 4 o.insn.toNat ++ bytesLE 4 t.index ++
  fitBytes 32 (t.desc.getD []) ++ bytesLE 1 (if t.desc.isSome then 1 else 0) ++ zeroBytes 3 ++
  (pageList t.miss 0 23).take 4 ++ ((List.range laneCount).map coord).flatten ++ (pageList t.miss 0 23).drop 4

/-- The lanes of a traversal with a flag. -/
def traceLanes (t : TraceOp) (p : TraceLane → Bool) : Lanes :=
  t.lanes.foldl (fun a x => if p x then a ||| (1#96 <<< x.lane) else a) 0#96

/-- The words of a hit, or those of a miss (R448). -/
def hitWords (h : Option TraceHit) : List Word :=
  match h with
  | some x => [x.t, x.u, x.v, x.prim, x.insta, x.instb]
  | none => [0x7F800000#32, 0#32, 0#32, 0xFFFFFFFF#32, 0xFFFFFFFF#32, 0xFFFFFFFF#32]

/-- R451: a lane block. -/
def laneBlock (x : TraceLane) : List Byte :=
  let flag := fun (b : Bool) k => if b then 2 ^ k else 0
  fitBytes 32 ((x.ray.map (fun w => bytesLE 4 w.toNat)).flatten) ++ fitBytes 16 ((x.irec.map (bytesLE 8)).flatten) ++
  ((hitWords x.best).map (fun w => bytesLE 4 w.toNat)).flatten ++
  bytesLE 4 (x.stack.length + 64 * x.level + flag x.best.isSome 8 + flag x.trunc 9 + flag x.bad 10 + flag x.badray 11 +
    flag x.limit 12) ++ bytesLE 4 x.visits ++
  fitBytes 256 ((x.stack.reverse.map (fun e => bytesLE 4 e.1.toNat ++ bytesLE 4 e.2.toNat)).flatten)

/-- R450: the body of a traversal record. -/
def traceBody (o : Op) (t : TraceOp) : List Byte :=
  let block := fun l => match t.lanes.find? (fun x => x.lane == l) with
    | some x => laneBlock x
    | none => zeroBytes 336
  bytesLE 4 o.insn.toNat ++ zeroBytes 4 ++ bytesLE 8 t.root.toNat ++ bytesLE 12 (traceLanes t TraceLane.ended).toNat ++
  bytesLE 12 (traceLanes t (fun x => !x.ended)).toNat ++ pageList t.miss 4 58 ++ ((List.range laneCount).map block).flatten

/-- The KIND of an operation's record and its body (R330); operations that touch no page have none. -/
def opRecord (o : Op) : Nat × List Byte :=
  match o.body with
  | .mem m => (1, memBody o m)
  | .chain h => (7, chainBody o h)
  | .copy p => (2, copyBody o p)
  | .mmao _ => (0, [])
  | .mmat _ => (0, [])
  | .tsreg _ => (0, [])
  | .demand t => (6, demandBody o t)
  | .smp t => (5, smpBody o t)
  | .trace t => (4, traceBody o t)

/-- The lanes a record of an operation concerns (R329). -/
def opRecLanes (o : Op) : Lanes :=
  match o.body with
  | .mem m => pieceLanes o m (fun q => q.parked)
  | .chain _ => o.order
  | .copy _ => o.order
  | .mmao _ => o.lanes
  | .mmat _ => o.order
  | .tsreg _ => o.lanes
  | .demand _ => o.order
  | .smp t => smpPend t
  | .trace t => traceLanes t (fun x => !x.ended)

/-- A node of a crew's partition. -/
def nodeAt (c : Crew) (n : Nat) : Option TNode := (c.tiles.nodes.find? (fun p => p.1 == n)).map Prod.snd

/-- The origin PC of an operation's record: for a tile demand, that of the node whose read stopped (R330, R408). -/
def opOrigin (c : Crew) (o : Op) : Option (DWord × Nat) :=
  match o.body with
  | .demand t => (t.stop.bind (nodeAt c)).map TNode.origin
  | .mem _ | .chain _ | .copy _ | .mmao _ | .mmat _ | .tsreg _ | .smp _ | .trace _ => none

/-! ### The bodies of operations by their engines -/

/-- The operation is a lane access. -/
def memOf (o : Op) : Option MemOp :=
  match o.body with
  | .mem x => some x
  | .chain _ | .copy _ | .mmao _ | .mmat _ | .tsreg _ | .demand _ | .smp _ | .trace _ => none

/-- The operation is a chain operation. -/
def chainOf (o : Op) : Option ChainOp :=
  match o.body with
  | .chain x => some x
  | .mem _ | .copy _ | .mmao _ | .mmat _ | .tsreg _ | .demand _ | .smp _ | .trace _ => none

/-- The operation is a copy. -/
def copyOf (o : Op) : Option CopyOp :=
  match o.body with
  | .copy x => some x
  | .mem _ | .chain _ | .mmao _ | .mmat _ | .tsreg _ | .demand _ | .smp _ | .trace _ => none

/-- The operation is an MMAO. -/
def mmaoOf (o : Op) : Option MmaoOp :=
  match o.body with
  | .mmao x => some x
  | .mem _ | .chain _ | .copy _ | .mmat _ | .tsreg _ | .demand _ | .smp _ | .trace _ => none

/-- The operation is an MMAT. -/
def mmatOf (o : Op) : Option MmatOp :=
  match o.body with
  | .mmat x => some x
  | .mem _ | .chain _ | .copy _ | .mmao _ | .tsreg _ | .demand _ | .smp _ | .trace _ => none

/-- The operation is a register TSMOV. -/
def tsregOf (o : Op) : Option TsregOp :=
  match o.body with
  | .tsreg x => some x
  | .mem _ | .chain _ | .copy _ | .mmao _ | .mmat _ | .demand _ | .smp _ | .trace _ => none

/-- The operation is a demand. -/
def demandOf (o : Op) : Option DemandOp :=
  match o.body with
  | .demand x => some x
  | .mem _ | .chain _ | .copy _ | .mmao _ | .mmat _ | .tsreg _ | .smp _ | .trace _ => none

/-- The operation is an SMP. -/
def smpOf (o : Op) : Option SmpOp :=
  match o.body with
  | .smp x => some x
  | .mem _ | .chain _ | .copy _ | .mmao _ | .mmat _ | .tsreg _ | .demand _ | .trace _ => none

/-- The operation is a TRACE. -/
def traceOf (o : Op) : Option TraceOp :=
  match o.body with
  | .trace x => some x
  | .mem _ | .chain _ | .copy _ | .mmao _ | .mmat _ | .tsreg _ | .demand _ | .smp _ => none

/-- An asynchronous operation: any long-latency one but a lane access, MMAO or a register TSMOV (R120, R271). -/
def opAsync (o : Op) : Bool :=
  match o.body with
  | .mem _ | .mmao _ | .tsreg _ => false
  | .chain _ | .copy _ | .mmat _ | .demand _ | .smp _ | .trace _ => true

/-! ### Operations of a crew -/

/-- The operation with this number. -/
def findOp (c : Crew) (id : Nat) : Option Op := c.ops.find? (fun o => o.id == id)

/-- The crew with operation o in the place of the one of its number. -/
def setOp (c : Crew) (o : Op) : Crew := { c with ops := c.ops.map (fun p => if p.id == o.id then o else p) }

/-- Bytes padded with zeros to a multiple of 64. -/
def pad64 (b : List Byte) : List Byte := b ++ zeroBytes ((64 - b.length % 64) % 64)

/-- The bytes of working memory a routine's image declares (R300, R486). -/
def routineWlen (x : Xform) : Nat :=
  if 64 ≤ x.routine then natLE ((x.image.drop 12).take 4) else Config.routineWlen x.routine

/-- R300: the body of a transform record; the registers stand in the order of Config.RoutineState, x0 and the last word of
the CSR group reading zero.  The output buffer holds what the routine has put out and the engine has not written, then
what the routine keeps there (assumption 60). -/
def xformBody (x : Xform) : List Byte :=
  let wlen := min 65536 (routineWlen x)
  let inb := x.rv.inbuf.take 8192
  let outb := (x.pend ++ x.rv.outbuf).take 8192
  let bufs := pad64 inb ++ pad64 outb ++ pad64 ((List.range wlen).map (fun i => tabGet 0#8 x.rv.work i))
  let regs := (x.rv.regs.set 1 0#64).set 72 0#64
  bytesLE 4 (2664 + bufs.length) ++ bytesLE 1 x.routine ++ zeroBytes 3 ++
  fitBytes 2632 ((regs.map (fun w => bytesLE 8 w.toNat)).flatten) ++
  bytesLE 4 inb.length ++ bytesLE 4 outb.length ++ bytesLE 4 wlen ++ zeroBytes 4 ++ bytesLE 8 x.inpos ++ bufs

/-- The transform record of an XFORM whose routine runs or whose output is still to be written, written anew (R295, R298);
none without room. -/
def recordXform (c : Crew) (o : Op) (cause : Nat) : Option (Crew × Op) :=
  match copyOf o with
  | none => some (c, o)
  | some p => match p.xf with
    | none => some (c, o)
    | some x =>
      if x.code.isSome && x.pend.isEmpty then some (c, o)
      else
        let c0 := match p.xoff with
          | some q => freeRecord c q
          | none => c
        let h : RecHead := ⟨3, cause, none, false, o.wave, o.frag, 0, opRecLanes o, 0#64, o.clause, o.parcel⟩
        match writeRecord c0 h (xformBody x) none with
        | some (q, c1) => some (c1, { o with body := .copy { p with xoff := some q } })
        | none => none

/-- R35 to R37: the operation's record written or written anew, its transform record first; without room for all of
it, it stays in place. -/
def recordOp (c0 : Crew) (o0 : Op) (cause : Nat) (late : Bool) (nmiss : Nat) : Crew × Op :=
  match recordXform c0 o0 cause with
  | none =>
    ((match o0.recOff with
      | some p => freeRecord c0 p
      | none => c0), { o0 with recOff := none, recSize := 0 })
  | some (c, o) =>
    let (kind, body) := opRecord o
    let h : RecHead := ⟨kind, cause, opOrigin c o, late, o.wave, o.frag, nmiss, opRecLanes o, o.va, o.clause, o.parcel⟩
    -- a record of another length moves
    let (c1, at?) := match o.recOff with
      | some p => if o.recSize == recBytes body then (c, some p) else (freeRecord c p, none)
      | none => (c, none)
    match writeRecord c1 h body at? with
    | some (p, c2) => (c2, { o with recOff := some p, recSize := recBytes body })
    | none => (c1, { o with recOff := none, recSize := 0 })

/-- R299: a line taken and not written is not taken any more when the command parks. -/
def releaseLine : OpBody → OpBody
  | .copy p => .copy { p with line := none }
  | .mem m => .mem m
  | .chain h => .chain h
  | .mmao a => .mmao a
  | .mmat a => .mmat a
  | .tsreg a => .tsreg a
  | .demand t => .demand t
  | .smp t => .smp t
  | .trace t => .trace t

/-- R36, R321: the operation stops with a cause. -/
def stopOp (c : Crew) (o : Op) (cause : Nat) (late : Bool) (nmiss : Nat) (va : Nat) : Crew :=
  let o1 := { o with status := if late then .late cause else .parked cause, va := BitVec.ofNat 64 va, body := releaseLine o.body }
  let (c1, o2) := recordOp c o1 cause late nmiss
  setOp c1 o2

/-- R36: a parked operation goes on, its parts translated afresh. -/
def resumeBody : OpBody → OpBody
  | .mem m => .mem { m with pieces := m.pieces.map (fun q => if q.parked then { q with parked := false, absent := false, pa := none } else q) }
  | .chain h => .chain { h.restart with miss := [], need := 0 }
  | .copy p => .copy { p with miss := [], part := [], idx := [] }
  | .mmao a => .mmao a
  | .mmat a => .mmat a
  | .tsreg a => .tsreg a
  | .demand t => .demand { t.restart with miss := [], stop := none }
  | .smp t => .smp { t with miss := [] }
  | .trace t => .trace { t with miss := [] }

/-- R36, R301, R321: an operation of crew c resumes; it reads its sources afresh. -/
def resumeOp (d : Dev) (c : Crew) (o : Op) : Op :=
  { o with status := .inflight, memMark := d.histSeq, scMark := c.shistSeq, follows := [], awaits := [], body := resumeBody o.body }

/-- The wave of a crew with this index. -/
def findWave (c : Crew) (w : Nat) : Option Wave := c.waves.find? (fun x => x.idx == w)

/-- The crew with one of its waves changed. -/
def updWave (c : Crew) (w : Nat) (f : Wave → Wave) : Crew :=
  { c with waves := c.waves.map (fun x => if x.idx == w then f x else x) }

/-- A completion flag of a wave (R30). -/
def flagOf (w : Wave) (k : Nat) : Nat := tabGet 0 w.f k

/-- The flag counts one operation more. -/
def flagUp (w : Wave) (k : Nat) : Wave := { w with f := tabSet 0 w.f k (flagOf w k + 1) }

/-- The flag counts one operation fewer. -/
def flagDown (w : Wave) (k : Nat) : Wave := { w with f := tabSet 0 w.f k (flagOf w k - 1) }

/-- A lane belongs to a fragment of the wave. -/
def laneAlive (c : Crew) (w l : Nat) : Bool :=
  match findWave c w with
  | some x => x.frags.any (fun f => f.lanes.getLsbD l)
  | none => false

/-- R2: a value the manual calls unspecified: zero, or a word of some register of the wave, of the crew's scratchpad or tile
store, or of memory its context may read; which one is left free (assumption 3). -/
def unspecWord (d : Dev) (c : Crew) (w : Wave) (n key : Nat) : Word :=
  let k := Config.freeNat n (2 ^ 63 + key)
  match Config.freeNat n (2 ^ 62 + key) % 6 with
  | 0 => 0#32
  | 4 => BitVec.ofNat 32 (natLE ((List.range 4).map (fun i => tabGet 0#8 c.tile (k + i))))
  | 1 => tabGet 0#32 w.v k
  | 2 => tabGet 0#32 w.s k
  | 3 => BitVec.ofNat 32 (natLE (scratchBytes c k 4))
  | _ => match (translate d (crewAsker c .none) c.ctx n (k % 2 ^ 57 / 4 * 4) wantRead).1 with
    | .ok pa _ => if linePoisoned d (pa / 128) then 0#32 else BitVec.ofNat 32 (natAt d pa 4)
    | .wait | .miss _ | .trap _ => 0#32

/-- A register an operation writes: the value x, or, where the program wrote the register meanwhile, the program's value,
the operation's, or another unspecified one (R31; assumption 6). -/
def settled (d : Dev) (c : Crew) (w : Wave) (n key : Nat) (tainted : Bool) (now x : Word) : Word :=
  if tainted then
    match Config.freeNat n (2 ^ 64 + key) % 3 with
    | 0 => now
    | 1 => x
    | _ => unspecWord d c w n key
  else x

/-- Lane registers (key 96·r + l) and scalar registers of an operation's wave written by it, those of exited lanes
left (R180). -/
def putResults (d : Dev) (c : Crew) (o : Op) (n : Nat) (vs : List (Nat × Word)) (ss : List (Nat × Word)) : Crew :=
  updWave c o.wave (fun w =>
    { w with
      v := (vs.filter (fun p => laneAlive c o.wave (p.1 % 96))).foldl (fun t p => tabSet 0#32 t p.1
        (settled d c w n p.1 (o.taintV.contains p.1) (tabGet 0#32 w.v p.1) p.2)) w.v
      s := ss.foldl (fun t p => tabSet 0#32 t p.1
        (settled d c w n (100000 + p.1) (o.taintS.contains p.1) (tabGet 0#32 w.s p.1) p.2)) w.s })

/-- R30: the operation reaches its completion point: lane registers (key 96·r + l) and scalar registers written, its
record freed, its flag lowered. -/
def completeOp (d : Dev) (c : Crew) (o : Op) (n : Nat) (vs : List (Nat × Word)) (ss : List (Nat × Word)) : Crew :=
  let c0 := match o.recOff with
    | some p => freeRecord c p
    | none => c
  let c1 := match (copyOf o).bind CopyOp.xoff with
    | some p => freeRecord c0 p
    | none => c0
  let c2 := updWave (putResults d c1 o n vs ss) o.wave (fun w => match o.flag with
    | some k => flagDown w k
    | none => w)
  { c2 with ops := c2.ops.filter (fun p => p.id != o.id) }

/-- The registers an operation is still to write, each lane of its lane registers apart, with unspecified words. -/
def unspecResults (d : Dev) (c : Crew) (o : Op) (n : Nat) : List (Nat × Word) × List (Nat × Word) :=
  match findWave c o.wave with
  | none => ([], [])
  | some w =>
    let ls := (laneList o.lanes).filter (fun l => !o.wrote.getLsbD l)
    (o.dstV.flatMap (fun r => ls.map (fun l => (96 * r + l, unspecWord d c w n (96 * r + l)))),
     o.dstS.map (fun r => (r, unspecWord d c w n (100000 + r))))

/-- A cause of containment left free, for an outcome the manual leaves undefined (R3, R328; assumption 63). -/
def freeCause (n key : Nat) : Nat := 1 + Config.freeNat n (2 ^ 68 + key) % 0x13

/-- R36, R339: operation o of crew c resumes.  The outcome of one whose live record a handler rewrote is undefined, and
stays its crew's own (R3): it goes on as it stood, ends with unspecified results, or contains the crew; which of them is
left free (assumption 63). -/
def resumeIn (d : Dev) (n : Nat) (c : Crew) (o : Op) : Crew :=
  if !o.tampered then setOp c (resumeOp d c o)
  else match Config.freeNat n (2 ^ 67 + o.id) % 3 with
    | 0 => setOp c { resumeOp d c o with tampered := false }
    | 1 =>
      let r := unspecResults d c o n
      completeOp d c o n r.1 r.2
    | _ => { c with contained := c.contained.orElse (fun _ => some (freeCause n o.id)) }

end Sys2Proof.Machine
end

