-- ==== Sys2Proof/Machine/Focus.lean ====
section
/-! DEFINITION. The focus: putting the fragment that issues back among the others and taking another, and the crews,
waves and fragments reached by name while nothing is in focus. -/

namespace Sys2Proof.Machine

/-- A fragment put among its wave's, by rising number. -/
def insertFrag (f : Frag) : List Frag → List Frag
  | [] => [f]
  | g :: rest => if f.id < g.id then f :: g :: rest else g :: insertFrag f rest

/-- A wave put among its crew's, by rising index. -/
def insertWave (w : Wave) : List Wave → List Wave
  | [] => [w]
  | x :: rest => if w.idx < x.idx then w :: x :: rest else x :: insertWave w rest

/-- A crew put among the device's, by rising number. -/
def insertCrew (c : Crew) : List Crew → List Crew
  | [] => [c]
  | x :: rest => if c.uid < x.uid then c :: x :: rest else x :: insertCrew c rest

/-- The wave in focus with its fragment, or without it when it has gone, put back into crew and device. -/
def putBack (s : State) (w : Wave) : State :=
  let c := { s.crew with waves := insertWave w s.crew.waves }
  { s with dev := { s.dev with crews := insertCrew c s.dev.crews }, crew := default, wave := default, frag := default,
           active := false }

/-- Nothing in focus: every fragment, wave and crew stands in the lists. -/
def stow (s : State) : State :=
  if s.active then putBack s { s.wave with frags := insertFrag s.frag s.wave.frags } else s

/-- The fragment in focus has vanished; the rest is put back. -/
def stowGone (s : State) : State := putBack s s.wave

/-- A crew by its number. -/
def findCrew (d : Dev) (uid : Nat) : Option Crew := d.crews.find? (fun c => c.uid == uid)

/-- A fragment of a wave by its number. -/
def findFrag (w : Wave) (id : Nat) : Option Frag := w.frags.find? (fun f => f.id == id)

/-- The device with one crew changed. -/
def updCrew (d : Dev) (uid : Nat) (f : Crew → Crew) : Dev :=
  { d with crews := d.crews.map (fun c => if c.uid == uid then f c else c) }

/-- The wave with one fragment changed. -/
def updFragW (w : Wave) (id : Nat) (f : Frag → Frag) : Wave :=
  { w with frags := w.frags.map (fun x => if x.id == id then f x else x) }

/-- The device with one fragment changed. -/
def updFrag (d : Dev) (r : FragRef) (f : Frag → Frag) : Dev :=
  updCrew d r.crew (fun c => updWave c r.wave (fun w => updFragW w r.frag f))

/-- A fragment of the device. -/
def fragAt (d : Dev) (r : FragRef) : Option Frag :=
  match findCrew d r.crew with
  | none => none
  | some c => match findWave c r.wave with
    | none => none
    | some w => findFrag w r.frag

/-- The fragment taken into focus, or the state as it stands when there is none of that name. -/
def focusOn (s : State) (r : FragRef) : State :=
  match findCrew s.dev r.crew with
  | none => s
  | some c => match findWave c r.wave with
    | none => s
    | some w => match findFrag w r.frag with
      | none => s
      | some f =>
        { s with
          dev := { s.dev with crews := s.dev.crews.filter (fun x => x.uid != r.crew) }
          crew := { c with waves := c.waves.filter (fun x => x.idx != r.wave) }
          wave := { w with frags := w.frags.filter (fun x => x.id != r.frag) }
          frag := f
          active := true }

/-- The name of the fragment in focus. -/
def selfRef (s : State) : FragRef := ⟨s.crew.uid, s.wave.idx, s.frag.id⟩

/-- All waves of the crew in focus, the one in focus with its fragments included. -/
def allWaves (s : State) : List Wave := { s.wave with frags := s.frag :: s.wave.frags } :: s.crew.waves

/-- The meaning of a step of the device: it acts with nothing in focus. -/
def event (s : State) (k : State → State) : Out := .next (k (stow s))

/-- A step of anything but the host port, and a host write to a register outside the blocks that respond in minimal mode:
in minimal mode nothing happens (R485). -/
def hostReg (s : State) (k : State → State) : Out :=
  event s (fun s => if s.dev.plat.startup.minimal then s else k s)

/-- The instruction word at the fragment's parcel index. -/
def curWord (f : Frag) : Word := f.body.getD (f.parcel + 1) 0#16 ++ f.body.getD f.parcel 0#16

/-- The completion flag of the long-latency instruction at the parcel index: SETA for the first of the clause, SETB
for the others (R45). -/
def flagHere (f : Frag) : Nat :=
  let first := match (((bodyItems 0 f.body).getD []).find? BodyItem.longLatency) with
    | some x => x.parcel
    | none => f.parcel
  if first == f.parcel then f.hdr.seta.toNat else f.hdr.setb.toNat

/-- The instruction waits at issue, its PC unchanged (R33). -/
def stall (s : State) : State := { s with frag := { s.frag with status := .stalled } }

/-- An operation as it stands when the instruction in focus issues it, `order` the lanes whose program order it has. -/
def newOp (s : State) (g : Option Nat) (order : Lanes) (body : OpBody) : Op :=
  { id := s.crew.nextOp, wave := s.wave.idx, frag := s.frag.id, flag := g, insn := curWord s.frag,
    lanes := s.frag.exec, order := order, fmt := s.frag.fmt, clause := s.frag.clause, parcel := pcParcel s.frag,
    status := .inflight, recOff := none, recSize := 0, va := 0#64, tampered := false, born := s.nfree, turn := s.nfree,
    memMark := s.dev.histSeq, scMark := s.crew.shistSeq, follows := [], watched := [], quiet := s.frag.oneShot,
    awaits := [],
    dstV := [], dstS := [], wrote := 0#96, taintV := [], taintS := [], srcV := [], srcS := [], srcTaint := false, body := body }

end Sys2Proof.Machine
end

