-- ==== Sys2Proof/Machine/Operands.lean ====
section
/-! DEFINITION. The operand codes as sources and destinations: registers, constants, specials and the literal (R57 to
R63), in 32 bits, in 64 bits and in packed halves (R58), and the shapes of lane and scalar instructions (R61, R206). -/

namespace Sys2Proof.Machine

/-- The integers of codes 0xC0 to 0xCF (R57). -/
def intConst (k : Nat) : Int :=
  [0, 1, 2, 3, 4, 8, 16, 32, 64, 128, 255, 0xFFFF, -1, -2, -4, -8].getD k 0

/-- The FP32 patterns of codes 0xD0 to 0xDF (R58). -/
def fpConst (k : Nat) : Word :=
  [0x3F000000#32, 0x3F800000#32, 0x40000000#32, 0x40800000#32, 0x41000000#32, 0x3E800000#32, 0x3E000000#32,
   0xBF000000#32, 0xBF800000#32, 0xC0000000#32, 0xC0800000#32, 0x7F800000#32, 0x7F7FFFFF#32, 0x3F317218#32,
   0x3FB8AA3B#32, 0x40490FDB#32].getD k 0#32

/-- The FP16 patterns of the same codes (R58). -/
def f16Const (k : Nat) : BitVec 16 :=
  [0x3800#16, 0x3C00#16, 0x4000#16, 0x4400#16, 0x4800#16, 0x3400#16, 0x3000#16, 0xB800#16, 0xBC00#16, 0xC000#16,
   0xC400#16, 0x7C00#16, 0x7BFF#16, 0x398C#16, 0x3DC5#16, 0x4248#16].getD k 0#16

/-- The BF16 patterns of the same codes (R58). -/
def bf16Const (k : Nat) : BitVec 16 :=
  if k == 12 then 0x7F7F#16 else if k == 14 then 0x3FB9#16 else (fpConst k).extractLsb' 16 16

/-- The patch word of the crew's own core (R175). -/
def patchId (c : Crew) : Word := BitVec.ofNat 32 (c.cx % 64 + 64 * (c.cy % 32))

/-- PREQ: the clocks before a pending pre-emption deadline, 1 at the last, and 0 when none is pending (R59, R168). -/
def preqWord (s : State) : Word := match s.crew.preq with
  | some t => BitVec.ofNat 32 (max 1 (t - s.clk))
  | none => 0#32

/-- The special sources 0xE0 to 0xEF (R57, R59).  CLK.L: R59 lets two reads at one instant on two core pairs differ by
up to 64; here both read the one count `clk` (DESIGN CHOICE; assumption 78). -/
def specialSrc (s : State) (k l : Nat) : Word :=
  match k with
  | 0 => BitVec.ofNat 32 l
  | 1 => BitVec.ofNat 32 s.wave.idx
  | 2 => BitVec.ofNat 32 s.crew.cx
  | 3 => BitVec.ofNat 32 s.crew.cy
  | 4 => s.frag.exec.extractLsb' 0 32
  | 5 => s.frag.exec.extractLsb' 32 32
  | 6 => s.frag.exec.extractLsb' 64 32
  | 7 => s.frag.fmt
  | 8 => s.wave.flg
  | 9 => BitVec.ofNat 32 s.clk
  | 10 => match s.wave.clkHi with
    | some h => h
    | none => BitVec.ofNat 32 (s.clk / 2 ^ 32)
  | 11 => preqWord s
  | 12 => BitVec.ofNat 32 (l / 8)
  | 13 => BitVec.ofNat 32 s.crew.index
  | 14 => s.crew.job.setWidth 32
  | _ => patchId s.crew

/-- The literal of the sequence that prefixes the instruction (R63). -/
def litValue (s : State) : DWord := match s.frag.lit with
  | some x => x.value
  | none => 0#64

/-- A 32-bit source in lane l (R57, R58, R63). -/
def readSrc (s : State) (c : BitVec 8) (l : Nat) : Word :=
  let k := c.toNat
  if k < 0x80 then readV s k l
  else if k < 0xC0 then readS s (k - 0x80)
  else if k < 0xD0 then BitVec.ofInt 32 (intConst (k - 0xC0))
  else if k < 0xE0 then fpConst (k - 0xD0)
  else if k < 0xF0 then specialSrc s (k - 0xE0) l
  else (litValue s).setWidth 32

/-- A 64-bit source in lane l (R58, R60, R63). -/
def readSrc64 (s : State) (c : BitVec 8) (l : Nat) : DWord :=
  let k := c.toNat
  if k < 0x80 then readV s (k + 1) l ++ readV s k l
  else if k < 0xC0 then readS64 s (k - 0x80)
  else if k < 0xD0 then BitVec.ofInt 64 (intConst (k - 0xC0))
  else if k < 0xF0 then (specialSrc s (k - 0xE0) l).setWidth 64
  else litValue s

/-- A packed-half source: an FP code supplies the half format's own pattern in both halves (R58). -/
def readSrcHalf (bf : Bool) (s : State) (c : BitVec 8) (l : Nat) : Word :=
  let k := c.toNat
  if 0xD0 ≤ k && k < 0xE0 then
    let h := if bf then bf16Const (k - 0xD0) else f16Const (k - 0xD0)
    h ++ h
  else readSrc s c l

/-- A destination read as a source (MAD, BFI, FMA, the dot products): its own register or special. -/
def readDst (s : State) (d : BitVec 8) (l : Nat) : Word := readSrc s d l
/-- A destination pair read as a source. -/
def readDst64 (s : State) (d : BitVec 8) (l : Nat) : DWord := readSrc64 s d l

/-- The destination accepts the value: only FMT refuses some (R86). -/
def dstAccepts (d : BitVec 8) (x : Word) : Bool := d.toNat != 0xE7 || fmtLegal x

/-- A scalar instruction's write of x: an s-register, a word of EXEC, FMT, or FLG, which clears (R61, R62). -/
def writeScalarDst (s : State) (d : BitVec 8) (x : Word) : State :=
  let k := d.toNat
  if k < 0xC0 then writeS s (k - 0x80) x
  else if k == 0xE4 then writeExec s ((s.frag.exec &&& ~~~0xFFFFFFFF#96) ||| x.setWidth 96)
  else if k == 0xE5 then writeExec s ((s.frag.exec &&& ~~~(0xFFFFFFFF#96 <<< 32)) ||| (x.setWidth 96 <<< 32))
  else if k == 0xE6 then writeExec s ((s.frag.exec &&& ~~~(0xFFFFFFFF#96 <<< 64)) ||| (x.setWidth 96 <<< 64))
  else if k == 0xE7 then { s with frag := { s.frag with fmt := x } }
  else { s with wave := { s.wave with flg := s.wave.flg &&& ~~~x } }

/-- What one lane, or the scalar unit, computes: the result, the flags, and the generator's new state. -/
abbrev LaneResult := Word × Flags × Word

/-- The results of a lane instruction over the active lanes, each with its lane (R181, R206). -/
def laneResults (s : State) (f : Nat → Word → LaneResult) : List (Nat × LaneResult) :=
  (laneList s.frag.exec).map (fun l => (l, f l (readRng s l)))

/-- The value a list of lane results holds for a lane. -/
def resultAt (rs : List (Nat × LaneResult)) (l : Nat) : Word :=
  match rs with
  | [] => 0#32
  | (j, r) :: rest => if j = l then r.1 else resultAt rest l

/-- All flags of a list of lane results (R96). -/
def resultFlags (rs : List (Nat × LaneResult)) : Flags := rs.foldl (fun a p => a ||| p.2.2.1) 0

/-- The effect of a lane instruction: results in register r, generator states, then the flags (R96, R97, R206). -/
def laneEffect (s : State) (r : Nat) (f : Nat → Word → LaneResult) : State :=
  let rs := laneResults s f
  let s1 := writeLanes s r (rs.map Prod.fst) (resultAt rs)
  finishFlags (setRng s1 (rs.map (fun p => (p.1, p.2.2.2)))) (resultFlags rs)

/-- The effect of a lane instruction that writes its register in the lanes p names only (R222). -/
def laneEffectWhere (s : State) (r : Nat) (p : Nat → Bool) (f : Nat → Word → LaneResult) : State :=
  let rs := laneResults s f
  let s1 := writeLanes s r ((rs.map Prod.fst).filter p) (resultAt rs)
  finishFlags (setRng s1 (rs.map (fun p => (p.1, p.2.2.2)))) (resultFlags rs)

/-- The effect of a scalar instruction: executed once, whatever EXEC holds (R61). -/
def scalarEffect (s : State) (d : BitVec 8) (r : LaneResult) : State :=
  finishFlags (writeScalarDst s d r.1) r.2.1

/-- R61, R206: an F3 instruction by its destination; `codes` are its source codes.  `f s scalar l g` computes in lane l
with generator g.  A scalar write of a value FMT refuses is an illegal instruction with no effect (R86). -/
def f3Effect (s : State) (codes : List (BitVec 8)) (d : BitVec 8) (f : State → Bool → Nat → Word → LaneResult) : State :=
  let s1 := latchClk s codes
  if scalarDst d then
    let r := f s1 true 0 0#32
    if dstAccepts d r.1 then scalarEffect s1 d r else takeTrap s 0x08 false
  else laneEffect s1 d.toNat (f s1 false)

/-- A result with no flag and no rounding. -/
def plain (g x : Word) : LaneResult := (x, 0, g)

/-- The 64-bit instructions: the pair D gets `f l` in each active lane, or once for an s pair (R214). -/
def pairEffect (s : State) (codes : List (BitVec 8)) (d : BitVec 8) (f : State → Nat → DWord) : State :=
  let s1 := latchClk s codes
  if scalarDst d then advance (writeS64 s1 (d.toNat - 0x80) (f s1 0))
  else
    let ls := laneList s1.frag.exec
    let lo := writeLanes s1 d.toNat ls (fun l => (f s1 l).setWidth 32)
    advance (writeLanes lo (d.toNat + 1) ls (fun l => (f s1 l >>> 32).setWidth 32))

end Sys2Proof.Machine
end

