-- ==== Sys2Proof/Machine/Clause.lean ====
section
/-! DEFINITION. Fetching and beginning a clause (R43 to R51, R191, R192, R322), joins and fusion (R186 to R188), the
delivery of late traps (R321), and the LIT words (R63, R64). -/

namespace Sys2Proof.Machine

/-- The die the crew in focus runs on. -/
def dieHere (s : State) : Nat := dieOf s.crew.core

/-- The fragment in focus as it translates: for its fetch, or for the instruction it waits at. -/
def fragAsker (s : State) : Asker := crewAsker s.crew (.frag (selfRef s))

/-! ### Fetch (R51, R322) -/

/-- Bytes fetched at a virtual address, or the first stop; a poisoned line is consumed, cause 0x04 (R322).  A line is accessed
at its first byte: `fresh` says whether the byte at hand is one. -/
def fetchVirt (who : Asker) (slot m n : Nat) : Bool → Dev → Nat → Nat → List Byte × Option (Tr × Nat) × Dev
  | _, d, _, 0 => ([], none, d)
  | fresh, d, va, k + 1 =>
    match translate64 d who slot n va wantFetch with
    | (.ok pa key, d1) =>
      if linePoisoned d1 (pa / 128) then ([], some (.trap 0x04, va), d1)
      else
        let d2 := if fresh then touchLine d1 n (pa / 128) false key else d1
        let r := fetchVirt who slot m n ((va + 1) % 128 == 0) d2 ((va + 1) % 2 ^ 64) k
        (fetchByte d1 m n pa :: r.1, r.2)
    | (t, d1) => ([], some (t, va), d1)

/-- The parcels of bytes, lower address first (R44). -/
def parcelsOf : List Byte → List Parcel
  | a :: b :: rest => (b ++ a) :: parcelsOf rest
  | _ => []

/-- The outcome of fetching a clause. -/
inductive Fetched where
  | clause (h : Header) (body : List Parcel)
  | stop (t : Tr) (va : Nat)

/-- R44, R51: the header at an address and the LEN parcels behind it. -/
def fetchClause (d : Dev) (who : Asker) (slot m n a : Nat) : Fetched × Dev :=
  match fetchVirt who slot m n true d a 4 with
  | (_, some (t, va), d1) => (.stop t va, d1)
  | (hb, none, d1) =>
    let h := Header.ofWord (BitVec.ofNat 32 (natLE hb))
    match fetchVirt who slot m n ((a + 4) % 128 == 0) d1 ((a + 4) % 2 ^ 64) (2 * h.len.toNat) with
    | (_, some (t, va), d2) => (.stop t va, d2)
    | (bb, none, d2) => (.clause h (parcelsOf bb), d2)

/-- The fragment in focus names its clause header: parcel 63. -/
def atHeader (s : State) : State := { s with frag := { s.frag with parcel := 63, lit := none } }

/-- R315, R322, R145: what a stopped fetch does: it waits for the page or for the translation, takes the trap at
(clause, 63), or contains the crew. -/
def stopFetch (s : State) (t : Tr) (va : Nat) : State :=
  match t with
  | .ok _ _ => s
  | .wait => { s with frag := { s.frag with status := .stalled } }
  | .miss host =>
    { s with
      dev := addMissing s.dev (dieHere s) s.crew.ctx (vaBits va / 4096) s.clk host wantFetch [.frag (selfRef s)]
      frag := { s.frag with status := .fetchWait } }
  | .trap c =>
    if c == 0x04 then { s with crew := { s.crew with contained := some 0x04 } }
    else takeTrap (atHeader s) c false

/-! ### Joins (R186 to R188) -/

/-- The fragments of the wave Joining at a record. -/
def joiners (fs : List Frag) (j : Nat) : List Frag := fs.filter (fun f => f.status == .joining && f.join == some j)

/-- The lanes of several fragments. -/
def unionLanes (fs : List Frag) : Lanes := fs.foldl (fun a f => a ||| f.lanes) 0#96

/-- R187: the fragment that the Joining fragments become; it takes the number of the first and a new fragment's
trap-state words (assumption 8). -/
def fusedFrag (j : JoinRec) (fs : List Frag) : Frag :=
  { (default : Frag) with
    id := (fs.map Frag.id).foldl min 95
    lanes := j.lanes
    exec := fs.foldl (fun a f => a ||| f.exec) 0#96
    fmt := j.fmt
    join := j.outer
    clause := j.addr
    parcel := 63
    status := .ready
    erecoff := 0xFFFFFFFF#32
    age := (fs.map Frag.age).foldl min ((fs.map Frag.age).getD 0 0)
    issued := (fs.map Frag.issued).foldl max 0 }

/-- R187: the record's Joining fragments fused, when together they hold its lanes. -/
def fuseAt (w : Wave) (id : Nat) : Option (Frag × Wave) :=
  match findJoin w id with
  | none => none
  | some j =>
    let fs := joiners w.frags id
    if fs.isEmpty || unionLanes fs != j.lanes then none
    else
      some (fusedFrag j fs,
        { w with
          frags := w.frags.filter (fun f => !(f.status == .joining && f.join == some id))
          joins := w.joins.filter (fun k => k.id != id) })

/-- R186, R187: the fragment in focus enters Joining; when that completes the record, the fused fragment takes its
place in focus. -/
def enterJoin (s : State) (id : Nat) : State :=
  let f := { s.frag with status := .joining }
  match fuseAt { s.wave with frags := insertFrag f s.wave.frags } id with
  | none => { s with frag := f }
  | some (h, w) =>
    let (c, w1) := splitShrink s.crew w (w.frags.length + 1) w.joins.length
    { s with crew := c, wave := w1, frag := h }

/-! ### Late traps (R296, R321) -/

/-- The first operation of a wave on one of these flags whose trap waits for delivery. -/
def lateOp (ops : List Op) (w : Nat) (flags : Nat → Bool) : Option Op :=
  ops.find? (fun o => o.wave == w && (match o.status with
    | .late _ => true
    | _ => false) && o.flag.any flags)

/-- R321: the fragment in focus takes the trap of a parked operation, ERECOFF naming its record. -/
def deliverLate (s : State) (o : Op) : State :=
  match o.status with
  | .late c =>
    let s1 := { s with crew := setOp s.crew { o with status := .trapped s.frag.id c } }
    takeTrapRec s1 c false o.recOff
  | _ => s

/-! ### Beginning a clause (R49, R186, R191, R192, R321) -/

/-- A flag is named by a WAIT mask. -/
def inWait (h : Header) (k : Nat) : Bool := h.wait.getLsbD k

/-- Every flag the WAIT mask names reads zero (R30, R49). -/
def waitClear (w : Wave) (h : Header) : Bool := (List.range 12).all (fun k => !inWait h k || flagOf w k == 0)

/-- R197: the fragment has been Ready, and has not issued, for 1,024 clocks. -/
def agedNow (clk : Nat) (x : Frag) : Bool :=
  (x.status == .ready || x.status == .stalled) && decide (max x.age x.issued + 1024 ≤ clk)

/-- R37: the operation has stopped and found no room for a record. -/
def unrecorded (o : Op) : Bool :=
  o.recOff.isNone && (match o.status with
    | .parked _ | .late _ => true
    | .inflight | .trapped _ _ => false)

/-- R37: a flag the WAIT mask names is held by an operation of the wave that has stopped without a record. -/
def waitsUnrecorded (c : Crew) (w : Nat) (h : Header) : Bool :=
  c.ops.any (fun o => o.wave == w && unrecorded o && o.flag.any (inWait h))

/-- R49: the first instruction of the clause becomes due; the fragment keeps its age (R185, R187, R192). -/
def enterClause (s : State) : State :=
  { s with frag := { s.frag with parcel := 0, lit := none, status := .ready, resume := .fresh } }

/-- R321, R49, R191: a clause whose structure is sound: late traps, then WAIT. -/
def testWait (s : State) : State :=
  let late := if s.frag.trapMode then none else lateOp s.crew.ops s.wave.idx (inWait s.frag.hdr)
  match late with
  | some o => deliverLate s o
  | none =>
    if waitClear s.wave s.frag.hdr then enterClause s
    else { s with frag := { s.frag with
      resume := .fresh, status := if s.frag.hdr.yld && !waitsUnrecorded s.crew s.wave.idx s.frag.hdr then .yielded
        else .waiting } }

/-- The address of the innermost join record of the fragment in focus, with its number. -/
def innerJoin (s : State) : Option (Nat × DWord) := match s.frag.join with
  | none => none
  | some id => (findJoin s.wave id).map (fun j => (id, j.addr))

/-- R47, R186: a fetched clause: its structure is checked whole, then the join address, then WAIT. -/
def beginFetched (s : State) : State :=
  if !structureOk s.frag.hdr s.frag.body then takeTrap s 0x09 false
  else match innerJoin s with
    | some (id, a) =>
      if !s.frag.trapMode && a == s.frag.clause then
        if s.frag.hdr.rcv then enterJoin s id else takeTrap s 0x09 false
      else testWait s
    | none => testWait s

/-- The clause at the fragment's address fetched and kept; `k` goes on with it. -/
def withClause (s : State) (k : State → State) : State :=
  match fetchClause s.dev (fragAsker s) s.crew.ctx s.wave.fetchMark s.nfree s.frag.clause.toNat with
  | (.stop t va, d) => stopFetch { s with dev := d } t va
  | (.clause h body, d) =>
    k { s with dev := d, frag := { s.frag with hdr := h, body := body, latched := true, status := .ready } }

/-- R201: after a whole clause: the next header in memory, by the LEN read again. -/
def afterClause (s : State) : State :=
  match fetchVirt (fragAsker s) s.crew.ctx s.wave.fetchMark s.nfree true s.dev s.frag.clause.toNat 4 with
  | (_, some (t, va), d) => stopFetch { s with dev := d } t va
  | (hb, none, d) =>
    let h := Header.ofWord (BitVec.ofNat 32 (natLE hb))
    { s with dev := d,
             frag := { gotoClause s.frag (s.frag.clause + BitVec.ofNat 64 (clauseBytes h.len.toNat)) s.clk with
                         oneShot := s.frag.oneShot } }

/-- CLAUSE_BEGIN: the fragment in focus stands at its clause header (R49).  One whose WAIT was found clear begins
without testing it again (R192). -/
def execClauseBegin (s : State) : Out :=
  .next (
    if s.frag.after then afterClause s
    else if s.frag.latched && s.frag.resume == .released then enterClause s
    else if s.frag.latched && (s.frag.status == .waiting || s.frag.status == .yielded) then testWait s
    else withClause s beginFetched)

/-! ### Going on inside a clause (R49, R201) -/

/-- The parcels of a literal sequence and its instruction that begin at a parcel (R64). -/
def sequenceParcels (body : List Parcel) (k : Nat) : Nat :=
  let isLit := fun i => (body.getD i 0#16).extractLsb' 0 8 == 0xFF#8
  if !isLit k then instrParcels (body.getD k 0#16)
  else if !isLit (k + 2) then 2 + instrParcels (body.getD (k + 2) 0#16)
  else 4 + instrParcels (body.getD (k + 4) 0#16)

/-- R49, R201: the clause of a fragment that resumes inside it is fetched again and its structure checked; an
instruction already complete is passed over.  An index past the body goes on at the next clause (assumption 9). -/
def relatch (s : State) : State :=
  withClause s (fun s =>
    if !structureOk s.frag.hdr s.frag.body then takeTrap (atHeader s) 0x09 false
    else if s.frag.body.length ≤ s.frag.parcel then
      { s with frag := { gotoClause s.frag (nextClause s.frag) s.clk with oneShot := s.frag.oneShot } }
    else if s.frag.after then
      { s with frag := { pastParcels s.frag (sequenceParcels s.frag.body s.frag.parcel) s.clk with
                         after := false, oneShot := s.frag.oneShot } }
    else s)

/-! ### LIT (R63, R64) -/

/-- R64: what follows the LITs at the head of the parcels is one 32-bit instruction that reads the literal in exactly
one field, after no more than `n` further LITs. -/
def litSequenceOk : Nat → List Parcel → Bool
  | n, rest =>
    match decode rest with
    | .error _ => false
    | .ok (.lit _, rest') => match n with
      | 0 => false
      | k + 1 => litSequenceOk k rest'
    | .ok (i, _) => instrParcels (rest.getD 0 0) == 2 && litUses i == 1

/-- The value of the sequence so far with one more LIT (R63). -/
def litJoin (x : Option Literal) (parcel : Nat) (l : BitVec 24) : Literal :=
  match x with
  | none => ⟨l.signExtend 64, parcel, 1⟩
  | some y => ⟨(l ++ y.value.extractLsb' 0 24 : BitVec 48).signExtend 64, y.first, y.words + 1⟩

/-- LIT: the first of a sequence checks it whole; each supplies its 24 bits to the instruction behind (R63, R64). -/
def execLit (l : BitVec 24) (s : State) : Out :=
  .next (
    if s.frag.lit.isNone && !litSequenceOk 1 (s.frag.body.drop (s.frag.parcel + 2)) then takeTrap s 0x08 false
    else { s with frag := { s.frag with lit := some (litJoin s.frag.lit s.frag.parcel l), parcel := s.frag.parcel + 2 } })

/-- R51: a fragment that stands at its clause header fetches the clause again before it begins it. -/
def refetch (f : Frag) : Frag := if f.parcel == 63 then { f with latched := false } else f

/-- FENCE.IFETCH: every clause that begins after it sees the stores that held their place before (R51). -/
def execFenceIfetch (s : State) : Out :=
  checked .fenceIfetch .control s (fun s =>
    advance { s with wave := { s.wave with fetchMark := s.dev.histSeq, frags := s.wave.frags.map refetch } })

end Sys2Proof.Machine
end

