-- ==== Sys2Proof/Machine/Range.lean ====
section
/-! DEFINITION. The thunk partition and the range checker of the deferred tile engine: which nodes live, which views a
write meets, and the forcings and materialisations an instruction waits for (R384, R400, R403 to R407). -/

namespace Sys2Proof.Machine

/-! ### The command block (R274, R275) -/

/-- Word k of a block. -/
def blkWord (b : List Word) (k : Nat) : Nat := (b.getD k 0#32).toNat

/-- SS. -/
def optSS (f : Nat) : Bool := f.testBit 0
/-- DS. -/
def optDS (f : Nat) : Bool := f.testBit 1
/-- P. -/
def optP (f : Nat) : Bool := f.testBit 2
/-- CR. -/
def optCR (f : Nat) : Bool := f.testBit 3

/-- SRC: an offset with SS. -/
def cpySrc (f : Nat) (b : List Word) : Nat := if optSS f then blkWord b 0 else blkWord b 0 + 2 ^ 32 * blkWord b 1

/-- DST: an offset with DS. -/
def cpyDst (f : Nat) (b : List Word) : Nat := if optDS f then blkWord b 2 else blkWord b 2 + 2 ^ 32 * blkWord b 3

/-- The row bytes of TILE. -/
def tileRb (b : List Word) : Nat := blkWord b 4 % 65536
/-- The rows of TILE. -/
def tileRows (b : List Word) : Nat := blkWord b 4 / 65536

/-- The output bound of XFORM (R281). -/
def xformBound (b : List Word) : Nat := if blkWord b 6 % 256 == 5 then blkWord b 4 else blkWord b 7

/-- STAT of XFORM. -/
def xformStat (b : List Word) : Nat := blkWord b 6 / 4096

/-- The extent of a strided range; zero without rows. -/
def rowSpan (rows rb stride : Nat) : Nat := if rows == 0 then 0 else (rows - 1) * stride + rb

/-- The bytes of the destination range the block names (R277, R281); none for SCATTER, whose base is no range. -/
def cpyDstLen (sub : Nat) (b : List Word) : Option Nat :=
  match sub with
  | 1 => some (rowSpan (tileRows b) (tileRb b) (blkWord b 7))
  | 2 => some (blkWord b 7 * blkWord b 4)
  | 3 => none
  | 4 => some (xformBound b)
  | _ => some (blkWord b 4)

/-- The bytes of the source range the block names; none for GATHER and FILL. -/
def cpySrcLen (sub : Nat) (b : List Word) : Option Nat :=
  match sub with
  | 1 => some (rowSpan (tileRows b) (tileRb b) (blkWord b 6))
  | 2 => none
  | 3 => some (blkWord b 7 * blkWord b 4)
  | 5 => none
  | _ => some (blkWord b 4)

/-- The ranges a CPY writes (space, first byte, bytes), as the range checker compares them (R403). -/
def cpyWrites (sub f : Nat) (b : List Word) : List (Nat × Nat × Nat) :=
  let space := if optDS f then 1 else 0
  match sub with
  | 1 => (List.range (tileRows b)).map (fun r => (space, cpyDst f b + r * blkWord b 7, tileRb b))
  | 3 => [(space, 0, 2 ^ 65)]
  | _ => match cpyDstLen sub b with
    | some n => [(space, cpyDst f b, n)]
    | none => []

/-! ### The partition (R384) -/

/-- The demands of a crew that are not complete. -/
def demandsOf (c : Crew) : List (Op × DemandOp) := c.ops.filterMap (fun o => (demandOf o).map (fun t => (o, t)))

/-- A set of nodes with the nodes they read added, `fuel` times over. -/
def closeNodes (nodes : List (Nat × TNode)) : Nat → List Nat → List Nat
  | 0, l => l
  | k + 1, l =>
    closeNodes nodes k ((l ++ (nodes.filter (fun p => l.contains p.1)).flatMap (fun p => p.2.srcs)).eraseDups)

/-- The nodes some of these nodes are computed from, themselves included. -/
def reachFrom (c : Crew) (roots : List Nat) : List Nat := closeNodes c.tiles.nodes 256 roots

/-- R384: nodes without a reference and without a demand in flight are freed. -/
def gcNodes (c : Crew) : Crew :=
  let live := reachFrom c (c.tiles.names.map Prod.snd ++ (demandsOf c).map (fun d => d.2.node))
  { c with tiles := { c.tiles with nodes := c.tiles.nodes.filter (fun p => live.contains p.1) } }

/-- The crew with one node changed. -/
def setNode (c : Crew) (n : Nat) (x : TNode) : Crew :=
  { c with tiles := { c.tiles with nodes := c.tiles.nodes.map (fun p => if p.1 == n then (n, x) else p) } }

/-- A materialised node's words; none for the others. -/
def matVals (x : TNode) : Option (List Word) :=
  match x.kind with
  | .mat v => some v
  | .view _ _ _ _ _ _ _ _ | .const _ | .top _ | .tmap _ _ => none

/-- A pending view leaf. -/
def isView (x : TNode) : Bool :=
  match x.kind with
  | .view _ _ _ _ _ _ _ _ => true
  | .mat _ | .const _ | .top _ | .tmap _ _ => false

/-- The KiB of engine area a node's values take (R405). -/
def nodeKib (x : TNode) : Nat := (4 * x.rows * x.cols + 1023) / 1024

/-- ENGKIB (R399). -/
def engKib (c : Crew) : Nat := (c.tiles.nodes.map (fun p => if (matVals p.2).isSome then nodeKib p.2 else 0)).sum

/-- R405: the node's values fit the free engine area. -/
def fitsEngine (c : Crew) (x : TNode) : Bool := c.tiles.mark + 1024 * (engKib c + nodeKib x) ≤ c.tileSize

/-- The bytes of an element of a view or destination format (R386). -/
def tileSizeOf (fmt : Nat) : Nat := if fmt ≤ 1 then 2 else if fmt == 15 then 4 else 1

/-- The lowest byte of a view's elements and one past the highest (R387). -/
def viewSpan (x : TNode) : Option (Nat × Int × Int) :=
  match x.kind with
  | .view base d1 d2 d3 s1 s2 s3 space =>
    let ext := fun (d : Nat) (s : Int) => ((d : Int) - 1) * s
    let lo := (base : Int) + min 0 (ext d1 s1) + min 0 (ext d2 s2) + min 0 (ext d3 s3)
    let hi := (base : Int) + max 0 (ext d1 s1) + max 0 (ext d2 s2) + max 0 (ext d3 s3) + x.cols * tileSizeOf x.fmt
    some (space, lo, hi)
  | .mat _ | .const _ | .top _ | .tmap _ _ => none

/-- A range about to be written meets a view's pending range (R403). -/
def meetsView (x : TNode) (w : Nat × Nat × Nat) : Bool :=
  match viewSpan x with
  | some (space, lo, hi) => space == w.1 && decide ((w.2.1 : Int) < hi) && decide (lo < (w.2.1 + w.2.2 : Nat)) && w.2.2 != 0
  | none => false

/-- The oldest of some nodes. -/
def oldestNode (l : List (Nat × TNode)) : Option (Nat × TNode) :=
  l.foldl (fun best p => match best with
    | some q => if p.2.seq < q.2.seq then some p else some q
    | none => some p) none

/-! ### Own writes in flight (R402) -/

/-- The rows of a strided range, as ranges of a space. -/
def strideRows (space base rows len stride : Nat) : List (Nat × Nat × Nat) :=
  (List.range rows).map (fun i => (space, base + i * stride, len))

/-- The ranges of memory and scratchpad an operation of R403 in flight has still to write. -/
def opWrites (o : Op) : List (Nat × Nat × Nat) :=
  match o.body with
  | .mem m => match m.kind with
    | .store | .atomic _ _ _ =>
      (m.pieces.filter (fun p => !p.done && !p.skip)).map (fun p => (if m.scratch then 1 else 0, p.va, p.size))
    | .load _ | .words => []
  | .copy p => match p.kind with
    | .cpy sub f => cpyWrites sub f p.block
    | .tsmov true stride =>
      strideRows 0 (blkWord p.block 2 + 2 ^ 32 * blkWord p.block 3) (blkWord p.block 1 / 65536) (blkWord p.block 1 % 65536) stride
    | .tsmov false _ | .wbuf _ _ => []
  | .demand t => match t.kind with
    | .store f base stride space => strideRows space base t.rows (t.cols * tileSizeOf f) stride
    | .force _ | .own => []
  | .chain _ | .mmao _ | .mmat _ | .tsreg _ | .smp _ | .trace _ => []

/-- A pending view that node n is computed from meets these ranges. -/
def viewsMet (c : Crew) (n : Nat) (ws : List (Nat × Nat × Nat)) : Bool :=
  let reach := reachFrom c [n]
  c.tiles.nodes.any (fun p => reach.contains p.1 && isView p.2 && ws.any (meetsView p.2))

/-- R402: an own write of the crew that was in flight before operation id, and is still, meets a view that node n reads:
its bytes are read after it, never in the middle of it. -/
def behindWrites (c : Crew) (id n : Nat) : Bool :=
  viewsMet c n ((c.ops.filter (fun e => decide (e.id < id))).flatMap opWrites)

/-! ### Forcing a node for a waiting instruction (R404 to R407) -/

/-- The operation has delivered its trap, and its handler has not returned. -/
def opTrapped (o : Op) : Bool := match o.status with
  | .trapped _ _ => true
  | .inflight | .parked _ | .late _ => false

/-- The forcing in hand for the crew, if any; one whose trap a handler is at work on keeps no other instruction waiting
(R403, R407). -/
def ownDemand (c : Crew) : Option Op :=
  ((demandsOf c).find? (fun d => d.2.kind == .own && !opTrapped d.1)).map Prod.fst

/-- R407: the instruction in focus waits for the forcing: it takes its trap, is Yielded while pages are missing, or
stalls. -/
def awaitOwn (s : State) (o : Op) : State :=
  match o.status with
  | .late _ => if o.wave == s.wave.idx && o.frag == s.frag.id then deliverLate s o else stall s
  | .parked _ =>
    if o.wave == s.wave.idx && o.frag == s.frag.id then { s with frag := { s.frag with status := .yielded } } else stall s
  | .inflight | .trapped _ _ => stall s

/-- R405, R407: node n is to be materialised before the instruction in focus issues. -/
def forceNode (s : State) (n : Nat) (x : TNode) : State :=
  match ownDemand s.crew with
  | some o => awaitOwn s o
  | none =>
    if !fitsEngine s.crew x then takeTrap s 0x0C false
    else
      let t := DemandOp.start .own n 0 0 x.rows x.cols [] (behindWrites s.crew s.crew.nextOp n)
      let o := { newOp s none s.frag.lanes (.demand t) with lanes := s.frag.lanes }
      stall { s with crew := { s.crew with ops := s.crew.ops ++ [o], nextOp := s.crew.nextOp + 1 } }

/-- A demand in flight, other than a forcing, reads the node (R404). -/
def readByDemand (c : Crew) (n : Nat) : Bool :=
  (demandsOf c).any (fun d => d.2.kind != .own && (reachFrom c [d.2.node]).contains n)

/-- R403, R404: what becomes of an instruction that is about to write these ranges (space, first byte, bytes): it goes
on, or the state in which it waits. -/
def rangeHook (s : State) (writes : List (Nat × Nat × Nat)) : Option State :=
  let hits := s.crew.tiles.nodes.filter (fun p => isView p.2 && writes.any (meetsView p.2))
  match hits with
  | [] => none
  | _ :: _ =>
    match ownDemand s.crew with
    | some o => some (awaitOwn s o)
    | none =>
      if hits.any (fun p => readByDemand s.crew p.1) then some (stall s)
      else match oldestNode hits with
        | some (n, x) => some (forceNode s n x)
        | none => none

end Sys2Proof.Machine
end

