-- ==== Sys2Proof/Machine/Watch.lean ====
section
/-! DEFINITION. Watchpoints (R332 to R335). -/

namespace Sys2Proof.Machine

/-- A watchpoint of a context (R332, R340). -/
structure Watchpoint where
  base : Nat
  size : Nat      -- log2
  mode : Nat
  deriving DecidableEq, Repr

/-- Watchpoint i of the context in a slot, from its four control words (R340). -/
def watchOf (d : Dev) (slot i : Nat) : Watchpoint :=
  let w := fun j => (slotWord d slot (0x610 + 4 * i + j)).toNat
  ⟨w 0 + 2 ^ 32 * w 1, w 2, w 3⟩

/-- Its MODE bits (R332). -/
def Watchpoint.rd (w : Watchpoint) : Bool := w.mode.testBit 0
/-- It matches writes. -/
def Watchpoint.wr (w : Watchpoint) : Bool := w.mode.testBit 1
/-- Its base is physical (R335). -/
def Watchpoint.phys (w : Watchpoint) : Bool := w.mode.testBit 2
/-- It is enabled. -/
def Watchpoint.en (w : Watchpoint) : Bool := w.mode.testBit 3

/-- The ranges [a, a + n) and the watched range share a byte. -/
def Watchpoint.overlaps (w : Watchpoint) (a n : Nat) : Bool :=
  decide (a < w.base + 2 ^ w.size) && decide (w.base < a + n)

/-- R332: an access to n bytes at a virtual address matches some watchpoint of the context. -/
def watchHit (d : Dev) (slot a n : Nat) (reads writes : Bool) : Bool :=
  (List.range 4).any (fun i =>
    let w := watchOf d slot i
    w.en && !w.phys && w.overlaps a n && ((reads && w.rd) || (writes && w.wr)))

/-- R333: the first address of an access at which a watchpoint of the context matches. -/
def watchAt (d : Dev) (slot a n : Nat) (reads writes : Bool) : Option Nat :=
  let hits := (List.range 4).filterMap (fun i =>
    let w := watchOf d slot i
    if w.en && !w.phys && w.overlaps a n && ((reads && w.rd) || (writes && w.wr)) then some (max a w.base) else none)
  match hits with
  | [] => none
  | x :: rest => some (rest.foldl min x)

/-- R335: the physical watchpoints of a context that a write to n bytes at pa matches. -/
def physHits (d : Dev) (slot pa n : Nat) : List Nat :=
  (List.range 4).filter (fun i =>
    let w := watchOf d slot i
    w.en && w.phys && w.overlaps pa n)

end Sys2Proof.Machine
end

