-- ==== Sys2Proof/Machine/Access.lean ====
section
/-! DEFINITION. The issue of long-latency instructions (R30, R33, R50) and of lane accesses: their checks in order,
their translation, and the record of the lanes that park (R249 to R253, R321, R325). -/

namespace Sys2Proof.Machine

/-! ### Long-latency instructions (R30, R33) -/

/-- R67, R195, then R33: the effect of a long-latency instruction on its flag, unless the counter stands at 63; it
then waits at issue. -/
def longLatency (i : Instr) (c : RoleClass) (s : State) (k : State → Nat → State) : Out :=
  checked i c s (fun s =>
    let g := flagHere s.frag
    if 63 ≤ flagOf s.wave g then { s with frag := { s.frag with status := .stalled } } else k s g)

/-- R30: the operation joins the crew's, its flag counts one more, and the fragment goes on. -/
def issueOp (s : State) (o : Op) : State :=
  let w := match o.flag with
    | some g => flagUp s.wave g
    | none => s.wave
  advance { s with crew := { s.crew with ops := s.crew.ops ++ [o], nextOp := s.crew.nextOp + 1 }, wave := w }

/-! ### Lane accesses -/

/-- One lane's access: its address or offset, the data of a store or atomic, the comparand of CAS, and the place of
its first byte in the lane's result. -/
structure LaneAcc where
  lane : Nat
  off  : Nat
  va   : Nat
  x    : Nat
  c    : DWord

/-- What an access instruction asks for. -/
structure MemReq where
  kind    : MemKind
  scratch : Bool
  scalar  : Bool
  size    : Nat
  want    : Want
  bits    : Option Bool
  dst     : Nat
  dstV    : List Nat
  dstS    : List Nat
  srcV    : List Nat
  srcS    : List Nat
  red     : Bool          -- RED: it may be windowed (R261)
  accs    : List LaneAcc

/-- The windows of a context as base and bytes, the enabled ones (R260). -/
def openWindows (d : Dev) (slot : Nat) : List (Nat × Nat) :=
  (List.range 4).filterMap (fun i =>
    let w := fun j => (slotWord d slot (0x520 + 4 * i + j)).toNat
    if (w 2).testBit 31 then some (w 0 / 65536 * 65536 + 2 ^ 32 * w 1, w 2 % 65536 * 65536) else none)

/-- R261: the address lies in an enabled window of the context. -/
def inWindow (d : Dev) (slot va : Nat) : Bool :=
  (openWindows d slot).any (fun w => decide (w.1 ≤ va) && decide (va < w.1 + w.2))

/-- R116: the events of a lane's access: one of up to 8 bytes, or aligned 8-byte ones. -/
def piecesOf (d : Dev) (slot : Nat) (q : MemReq) (a : LaneAcc) : List Piece :=
  let one : Nat → Nat → Nat → Piece := fun off x size =>
    { lane := a.lane, off := a.off + off, va := a.va + off, pa := none, key := 0, size := size,
      x := BitVec.ofNat 64 x, c := a.c, window := q.red && inWindow d slot a.va, inHub := false, parked := false, absent := false,
      done := false, skip := false }
  if q.size ≤ 8 then [one 0 a.x q.size] else [one 0 (a.x % 2 ^ 64) 8, one 8 (a.x / 2 ^ 64) 8]

/-- R252, checks 1 and 2: the cause the access fails with, of those two. -/
def addressCause (s : State) (q : MemReq) (a : LaneAcc) : Option Nat :=
  if q.scratch then (if a.va + q.size ≤ s.crew.scratchSize then none else some 0x06)
  else if canonical (BitVec.ofNat 64 a.va) then none else some 0x05

/-- R252, R329: the record of a precise trap at a lane access, and the trap. -/
def trapAccess (s : State) (q : MemReq) (a : LaneAcc) (cause : Nat) : State :=
  let lanes := if q.scalar then s.frag.lanes else 1#96 <<< a.lane
  let o := newOp s none s.frag.lanes (.mem ⟨q.kind, q.scratch, q.scalar, q.dst, q.bits, [], false, []⟩)
  let h : RecHead := ⟨1, cause, none, false, s.wave.idx, s.frag.id, 0, lanes, BitVec.ofNat 64 a.va, s.frag.clause,
    pcParcel s.frag⟩
  match writeRecord s.crew h (opRecord o).2 none with
  | some (r, c) => takeTrapRec { s with crew := c } cause false (some r)
  | none => takeTrap s cause false

/-- R252, check 4: every piece translated in lane order. -/
def placePieces (who : Asker) (slot n : Nat) (w : Want) : Dev → List Piece → List (Piece × Tr) × Dev
  | d, [] => ([], d)
  | d, p :: ps =>
    let (t, d1) := translate d who slot n (vaBits p.va) w
    let p1 := match t with
      | .ok pa key => { p with pa := some pa, key := key }
      | .miss _ => { p with parked := true, absent := true }
      | .wait => p
      | .trap _ => p
    let r := placePieces who slot n w d1 ps
    ((p1, t) :: r.1, r.2)

/-- R463: an atomic on a host line needs CXL; without it, and where the page refuses, the cause. -/
def pieceCause (d : Dev) (atomic : Bool) (p : Piece × Tr) : Option Nat :=
  match p.2 with
  | .trap c => some c
  | .ok pa _ => if atomic && paClass pa == 1 && d.host.cxl == 0 then some 0x03 else none
  | .wait => none
  | .miss _ => none

/-- Does a miss find the page with the host (R316)? -/
def missHost (t : Tr) : Bool := match t with
  | .miss h => h
  | .ok _ _ => false
  | .wait => false
  | .trap _ => false

/-- R325: where the addresses of an access ascend with its lanes, the page after the highest of those it missed predicted. -/
def predictNext (d : Dev) (die slot n clk : Nat) (w : Want) (vas pages : List Nat) : Dev :=
  if pages.isEmpty || !(vas.zip (vas.drop 1)).all (fun p => decide (p.1 ≤ p.2)) then d
  else predictPage d die slot n (pages.foldl max 0 + 1) clk w

/-- R323, R325: the missing pages of an access linked, and the next one predicted. -/
def linkMisses (d : Dev) (die slot n clk : Nat) (w : Want) (k : Link) (ps : List (Piece × Tr)) : Dev :=
  let miss := ps.filter (fun p => p.1.parked)
  let d1 := miss.foldl (fun d p => addMissing d die slot (vaBits p.1.va / 4096) clk (missHost p.2) w [k]) d
  predictNext d1 die slot n clk w (ps.map (fun p => p.1.va)) (miss.map (fun p => vaBits p.1.va / 4096))

/-- The access in flight: its flag raised, the lanes on missing pages parked with a record (R36, R253). -/
def launchAccess (s : State) (g : Nat) (q : MemReq) (ps : List (Piece × Tr)) : State :=
  let lines := ((q.accs.map (fun a : LaneAcc => a.va / 128)) ++ (q.accs.map (fun a : LaneAcc => (a.va + q.size - 1) / 128))).eraseDups
  let m : MemOp := ⟨q.kind, q.scratch, q.scalar, q.dst, q.bits, if q.bits.isSome then lines else [], false,
    ps.map Prod.fst⟩
  let order := if q.scalar then s.frag.lanes else s.frag.exec
  let o := { newOp s (some g) order (.mem m) with
    lanes := order, dstV := q.dstV, dstS := q.dstS, srcV := q.srcV, srcS := q.srcS }
  let k := Link.op s.crew.uid o.id
  let s0 := issueOp s o
  let s1 := { s0 with dev := adoptLink s0.dev (.frag (selfRef s)) k }
  if ps.any (fun p => p.1.parked) then
    let die := dieOf s.crew.core
    let d := linkMisses s1.dev die s.crew.ctx s.nfree s.clk q.want k ps
    let va := match ps.find? (fun p => p.1.parked) with
      | some p => p.1.va
      | none => 0
    { s1 with dev := d, crew := stopOp s1.crew o 0x01 false (missingCount d k) va }
  else s1

/-- The instruction is a read-modify-write. -/
def isAtomic : MemKind → Bool
  | .atomic _ _ _ => true
  | .load _ => false
  | .words => false
  | .store => false

/-- The access of the fragment in focus ends at its issue: no translation is asked for it any more. -/
def forgetAsks (s : State) : State := { s with dev := dropLink s.dev (fun k => k == .frag (selfRef s)) }

/-- R252: the checks of an access instruction in their order, over all its lanes, and its issue.  While a Translation
Completion is outstanding it waits at issue; where a forced save meets that wait, it issues and parks as an operation in flight
does (R315, R341). -/
def issueAccess (s : State) (g : Nat) (q : MemReq) : State :=
  match q.accs.find? (fun a => a.va % q.size != 0) with
  | some a => trapAccess s q a 0x07
  | none => match q.accs.find? (fun a => (addressCause s q a).isSome) with
    | some a => trapAccess s q a ((addressCause s q a).getD 0)
    | none =>
      match q.accs.find? (fun a => !q.scratch && !s.frag.oneShot &&
          watchHit s.dev s.crew.ctx a.va q.size q.want.rd q.want.wr) with
      | some a => trapAccess s q a 0x0A
      | none =>
        match if q.want.wr then
            rangeHook s (q.accs.map (fun a => (if q.scratch then 1 else 0, a.va, q.size))) else none with
        | some s' => s'
        | none =>
          let pieces := (q.accs.map (piecesOf s.dev s.crew.ctx q)).flatten
          if q.scratch then launchAccess s g q (pieces.map (fun p => ({ p with pa := some p.va }, .ok p.va 0)))
          else
            let (ps, d) := placePieces (fragAsker s) s.crew.ctx s.nfree q.want s.dev pieces
            let s1 := { s with dev := d }
            match ps.find? (fun p => (pieceCause d (isAtomic q.kind) p).isSome) with
            | some p =>
              let cause := (pieceCause d (isAtomic q.kind) p).getD 0
              if cause == 0x04 then { s1 with crew := { s1.crew with contained := some 0x04 } }
              else trapAccess (forgetAsks s1) q ⟨p.1.lane, 0, p.1.va, 0, 0⟩ cause
            | none =>
              if ps.any (fun p => p.2 == .wait) && !s.crew.forced then stall s1 else launchAccess s1 g q ps

/-- R252: an access instruction; one with no active lanes, unless it is scalar, checks nothing and completes at
once. -/
def accessInstr (i : Instr) (c : RoleClass) (s : State) (mk : State → MemReq) : Out :=
  longLatency i c s (fun s g =>
    let q := mk s
    if q.accs.isEmpty then advance s else issueAccess s g q)

end Sys2Proof.Machine
end

