-- ==== Sys2Proof/Machine/Branch.lean ====
section
/-! DEFINITION. Branches, the split branch and its join records, calls, jumps and sleep (R48, R70, R184 to R190, R239
to R243). -/

namespace Sys2Proof.Machine

/-- R48: a transfer checks its target each time it executes, before any effect. -/
def withTarget (s : State) (a : DWord) (k : State) : State :=
  match targetTrap a with
  | some c => takeTrap s c false
  | none => k

/-- BRA (R239). -/
def execBra (o : BitVec 20) (s : State) : Out :=
  checked (.bra o) .control s (fun s =>
    let t := branchTarget s.frag o
    withTarget s t (jump s t))

/-- BRANY: branch when any active lane's bit is set (R239). -/
def execBrany (m : BitVec 3) (o : BitVec 20) (s : State) : Out :=
  checked (.brany m o) .control s (fun s =>
    let t := branchTarget s.frag o
    withTarget s t (if (s.frag.exec &&& readM s m.toNat) != 0#96 then jump s t else jump s (nextClause s.frag)))

/-- BRALL: branch when every active lane's bit is set (R239). -/
def execBrall (m : BitVec 3) (o : BitVec 20) (s : State) : Out :=
  checked (.brall m o) .control s (fun s =>
    let t := branchTarget s.frag o
    withTarget s t (if (s.frag.exec &&& readM s m.toNat) == s.frag.exec then jump s t else jump s (nextClause s.frag)))

/-- The 32-bit words of the fragment's clause. -/
def clauseWords (f : Frag) : List (BitVec 32) :=
  ((bodyItems 0 f.body).getD []).filterMap BodyItem.word

/-- The word of the clause with this major opcode, if it holds one. -/
def clauseMaj (f : Frag) (maj : Nat) : Option (BitVec 32) :=
  (clauseWords f).find? (fun w => (w.extractLsb' 1 7).toNat == maj)

/-- The reconvergence address of the clause's JOINAT (R184). -/
def joinAddr (f : Frag) : Option DWord :=
  (clauseMaj f 0x44).map (fun w => branchTarget f (w.extractLsb' 12 20))

/-- JOINAT: it must name the mask of the BRS that ends its clause; BRS does the rest (R184). -/
def execJoinat (m : BitVec 3) (o : BitVec 20) (s : State) : Out :=
  checked (.joinat m o) .control s (fun s =>
    match clauseMaj s.frag 0x43 with
    | some w => if w.extractLsb' 8 3 == m then advance s else takeTrap s 0x08 false
    | none => takeTrap s 0x08 false)

/-- The innermost join record's address. -/
def innerAddr (s : State) : Option DWord := match s.frag.join with
  | some id => (findJoin s.wave id).map JoinRec.addr
  | none => none

/-- R185: the effect of BRS outside trap mode, once its targets are checked.  `mk` is the address of a join record to
make, if the clause's JOINAT names a new one. -/
def splitBranch (s : State) (m : Lanes) (target : DWord) (mk : Option DWord) : State :=
  let T := s.frag.exec &&& m
  let N := s.frag.exec &&& ~~~m
  let two := T != 0#96 && N != 0#96
  let nf := s.wave.frags.length + 1 + (if two then 1 else 0)
  let nj := s.wave.joins.length + (if mk.isSome then 1 else 0)
  if mk.isSome && decide (256 ≤ (joinChain s.wave 257 s.frag.join).length) then takeTrap s 0x0E false
  else match splitRoom s.crew s.wave nf nj with
    | none => takeTrap s 0x0E false
    | some (c, w) =>
      let w1 := match mk with
        | none => w
        | some a => { w with
            joins := w.joins ++ [⟨w.nextJoin, a, s.frag.fmt, s.frag.lanes, s.frag.join⟩]
            nextJoin := w.nextJoin + 1 }
      let f1 := match mk with
        | none => s.frag
        | some _ => { s.frag with join := some w.nextJoin }
      let next := nextClause s.frag
      if T == 0#96 then { s with crew := c, wave := w1, frag := gotoClause f1 next s.clk }
      else if N == 0#96 then { s with crew := c, wave := w1, frag := gotoClause f1 target s.clk }
      else
        let ids := f1.id :: w1.frags.map Frag.id
        let g : Frag := { (default : Frag) with
          id := freeFragId ids, lanes := T, exec := T, fmt := f1.fmt, join := f1.join, clause := target, parcel := 63,
          status := .ready, erecoff := 0xFFFFFFFF#32, age := s.frag.age, issued := s.clk + 1 }
        let f2 := { gotoClause f1 next s.clk with
          lanes := f1.lanes &&& ~~~T, exec := N, age := s.frag.age }
        { s with crew := c, wave := { w1 with frags := w1.frags ++ [g] }, frag := f2 }

/-- BRS (R184, R185); in trap mode it acts as BRANY (R189). -/
def execBrs (m : BitVec 3) (o : BitVec 20) (s : State) : Out :=
  checked (.brs m o) .control s (fun s =>
    let t := branchTarget s.frag o
    let ja := joinAddr s.frag
    withTarget s t (withTarget s (ja.getD t) (
      if s.frag.trapMode then
        if (s.frag.exec &&& readM s m.toNat) != 0#96 then jump s t else jump s (nextClause s.frag)
      else
        splitBranch s (readM s m.toNat) t (if ja.isSome && innerAddr s != ja then ja else none))))

/-- CALL: the return address goes to s62:s63; it needs all 64 scalar registers (R240). -/
def execCall (o : BitVec 20) (s : State) : Out :=
  checked (.call o) .control s (fun s =>
    if s.crew.sregs != 64 then takeTrap s 0x08 false
    else
      let t := branchTarget s.frag o
      withTarget s t (jump (writeS64 s 62 (nextClause s.frag)) t))

/-- CTL.JMPR: transfer to the clause whose address the pair holds (R242). -/
def execCtlJmpr (a : BitVec 8) (s : State) : Out :=
  checked (.ctlJmpr a) .control s (fun s =>
    let t := readS64 s (a.toNat - 0x80)
    withTarget s t (jump s t))

/-- The focused fragment waits, Blocked, at its instruction (R191). -/
def block (s : State) (w : WaitFor) : State :=
  { s with frag := { s.frag with status := .blocked w, resume := .fresh } }

/-- The clocks CTL.SLEEP waits: its operand unsigned, at most 1,048,576 (R243). -/
def sleepClocks (x : Word) : Nat := min x.toNat 1048576

/-- CTL.SLEEP: Blocked for N clocks; N = 0 has no effect; the sleep over, the fragment goes on (R243). -/
def execCtlSleep (a : BitVec 8) (s : State) : Out :=
  checked (.ctlSleep a) .control s (fun s =>
    let n := sleepClocks (readSrc s a 0)
    if n == 0 || s.frag.resume != .fresh then advance s else block s (.sleep (s.clk + n)))

end Sys2Proof.Machine
end

