-- ==== Sys2Proof/Machine/MemEvents.lean ====
section
/-! DEFINITION. The events of lane accesses as they take their places in the memory order, and their completion: loads,
stores, atomics, full/empty lines and the fabric hubs (R30, R114 to R116, R129 to R134, R141 to R143, R257 to
R264). -/

namespace Sys2Proof.Machine

/-! ### Atomic operations (R257, R259) -/

/-- The rounding environment of the bank units: nearest even, nothing else (R259). -/
def bankEnv : RoundEnv := ⟨0, false, false⟩

/-- round(a + b) in a format (R257, R259). -/
def bankAdd (f : Format) (a b : Nat) : Nat :=
  (roundTo f bankEnv 0 (extSum false [decodeFmt f a, decodeFmt f b]).1).1

/-- Two halves added apart (R257). -/
def bankAddHalves (f : Format) (a b : Nat) : Nat :=
  bankAdd f (a % 65536) (b % 65536) + 65536 * bankAdd f (a / 65536 % 65536) (b / 65536 % 65536)

/-- The new value of OP on a location of n bytes: old, v and the comparand c as patterns (R257). -/
def atomicNew (op n : Nat) (old v c : DWord) : DWord :=
  let w := 8 * n
  let a := BitVec.ofNat 64 (old.toNat % 2 ^ w)
  let b := BitVec.ofNat 64 (v.toNat % 2 ^ w)
  let signed := fun x : DWord => if n == 4 then (x.setWidth 32).toInt else x.toInt
  let r := match op with
    | 0 => a + b
    | 1 => BitVec.ofNat 64 (bankAdd .f32 a.toNat b.toNat)
    | 2 => if signed b < signed a then b else a
    | 3 => if signed a < signed b then b else a
    | 4 => if b.toNat < a.toNat then b else a
    | 5 => if a.toNat < b.toNat then b else a
    | 6 => BitVec.ofNat 64 (minMaxBits .f32 false false a.toNat b.toNat).1
    | 7 => BitVec.ofNat 64 (minMaxBits .f32 false true a.toNat b.toNat).1
    | 8 => a &&& b
    | 9 => a ||| b
    | 10 => a ^^^ b
    | 11 => b
    | 12 => if a.toNat == c.toNat % 2 ^ w then b else a
    | 13 => BitVec.ofNat 64 (bankAddHalves .f16 a.toNat b.toNat)
    | _ => BitVec.ofNat 64 (bankAddHalves .bf16 a.toNat b.toNat)
  BitVec.ofNat 64 (r.toNat % 2 ^ w)

/-! ### Which events may take place (R115, R116, R141, R142, R262, R264) -/

/-- The piece is still to take its place. -/
def pieceOpen (p : Piece) : Bool := !p.done && !p.skip

/-- The lanes for which an access has not taken its place. -/
def pendingLanes (o : Op) : Lanes :=
  match o.body with
  | .mem m =>
    if m.scalar then (if m.pieces.any pieceOpen then o.order else 0#96)
    else lanesWhere (fun l => m.pieces.any (fun p => p.lane == l && pieceOpen p))
  | .chain _ | .copy _ | .mmao _ | .mmat _ | .tsreg _ | .demand _ | .smp _ | .trace _ => 0#96

/-- The lanes of wave w that have found full, by an LDC numbered below `id`, a line that copy e filled, while e is still to write
elsewhere: what follows in them follows every write of e (R122; assumption 72). -/
def seenLanes (e : Op) (w id : Nat) : Lanes :=
  match copyOf e with
  | some p => (p.seenBy.filter (fun x => x.1 == w && decide (x.2.1 < id))).foldl (fun a x => a ||| x.2.2) 0#96
  | none => 0#96

/-- The lanes of operation o's wave that an earlier access of theirs holds (R141, R142), or a copy whose completion they have
observed (R122). -/
def heldLanes (ops : List Op) (o : Op) : Lanes :=
  ops.foldl (fun a e => (if e.wave == o.wave && decide (e.id < o.id) then a ||| pendingLanes e else a) ||| seenLanes e o.wave o.id)
    0#96

/-- Accesses issued by the wave for these lanes have not taken their place, or a copy whose completion they have observed is still
to write. -/
def pendingFor (ops : List Op) (w : Nat) (ls : Lanes) : Bool :=
  ops.any (fun e => (e.wave == w && (pendingLanes e &&& ls) != 0#96) || (seenLanes e w e.id &&& ls) != 0#96)

/-- The two pieces share a location (R112, R116): by their physical places, or, where one is not known, by their addresses. -/
def sharePiece (p q : Piece) : Bool :=
  let meets := fun (a b : Nat) => decide (a < b + q.size) && decide (b < a + p.size)
  match p.pa, q.pa with
  | some a, some b => meets a b
  | some _, none | none, some _ | none, none => meets p.va q.va

/-- Piece q keeps piece p of its own instruction back: it is of a lower lane and writes a shared location, and is still to take
its place; where both are windowed, p may join it in its hub (R116, R133, R261). -/
def goesAfter (p q : Piece) : Bool :=
  pieceOpen q && decide (q.lane < p.lane) && sharePiece p q && !(q.inHub && p.window)

/-- The piece waits for a lower lane of its own instruction on a shared location (R116). -/
def behindSibling (m : MemOp) (p : Piece) : Bool :=
  match m.kind with
  | .load _ => false
  | .words => false
  | .store => m.pieces.any (goesAfter p)
  | .atomic _ _ _ => m.pieces.any (goesAfter p)

/-- The piece may take its place now. -/
def pieceReady (held : Lanes) (o : Op) (m : MemOp) (p : Piece) : Bool :=
  pieceOpen p && !p.parked && !p.inHub && (m.bits.isNone || m.taken) &&
  (if m.scalar then (held &&& o.order) == 0#96 else !held.getLsbD p.lane) && !behindSibling m p

/-! ### One event -/

/-- What an attempt at an event did. -/
inductive EventEnd where
  | done (x : DWord)       -- it took its place, with the data read
  | hub                    -- a windowed RED joined a hub
  | stop (t : Tr)          -- it met a page that is missing, refuses it, or waits for the host
  deriving DecidableEq, Repr

/-- An event in the scratchpad (R254, R258). -/
def scratchEvent (c : Crew) (m : MemOp) (p : Piece) : DWord × Crew :=
  let old := BitVec.ofNat 64 (natLE (scratchBytes c p.va p.size))
  match m.kind with
  | .load _ => (old, c)
  | .words => (old, c)
  | .store => (old, putScratch c p.va (bytesLE p.size p.x.toNat))
  | .atomic op _ _ => (old, putScratch c p.va (bytesLE p.size (atomicNew op p.size old p.x p.c).toNat))

/-- Two combinations for one operation and location made one (R133, R261). -/
def mergeHubs (size : Nat) (g h : HubEntry) : HubEntry :=
  { h with
    slots := h.slots ++ g.slots, jobs := h.jobs ++ g.jobs, val := atomicNew h.op size h.val g.val 0
    members := h.members ++ g.members, since := min g.since h.since }

/-- R133, R261: a windowed RED of crew c joins combinations for its operation and location, of any die and context, or
stands alone; which of them it joins is left free, but for one that holds a lower lane of its own instruction, which goes
before it (R116). -/
def joinHub (d : Dev) (n clk : Nat) (c : Crew) (op w pa key : Nat) (p : Piece) (member : Nat × Nat × Nat × Nat) : Dev :=
  let joins := fun h : HubEntry => h.pa == pa && h.op == op && h.w == w &&
    (h.members.any (fun x => x.1 == c.uid && x.2.1 == member.2.1) ||
      Config.freeBit n (2 ^ 65 + h.since * 1536 + (h.members.map Prod.fst).sum))
  let e : HubEntry := ⟨[c.ctx], [c.job], pa, key, op, w, p.x, [member], clk⟩
  { d with hubs := d.hubs.filter (fun h => !joins h) ++ [(d.hubs.filter joins).foldl (fun g h => mergeHubs p.size g h) e] }

/-- An event in virtual memory of a crew's lane whose place is known (R114, R131, R145, R146, R247). -/
def memoryEvent (d : Dev) (n : Nat) (c : Crew) (m : MemOp) (p : Piece) (pa : Nat) : EventEnd × Dev :=
  let line := pa / 128
  let bad := linePoisoned d line
  match m.kind with
  | .store =>
    (.done 0, storeBytes p.key (storeLine d n c.core c.ctag c.gen (vaBits p.va) p.size pa p.key) pa (bytesLE p.size p.x.toNat))
  | .load _ | .words =>
    if bad then (.stop (.trap 0x04), d)
    else (.done (BitVec.ofNat 64 (natAt d pa p.size)), loadLine d n c.core c.ctag c.gen (vaBits p.va) p.size pa p.key)
  | .atomic op _ _ =>
    if bad then (.stop (.trap 0x04), d)
    else
      let old := BitVec.ofNat 64 (natAt d pa p.size)
      (.done old, storeBytes p.key (touchLine d n line true p.key) pa (bytesLE p.size (atomicNew op p.size old p.x p.c).toNat))

/-- What an access wants of its pages. -/
def kindWant : MemKind → Want
  | .load _ => wantRead
  | .words => wantRead
  | .store => wantWrite
  | .atomic _ _ _ => wantBoth

/-- An unspecified address of an access raises no fault (R2): its page is present and grants the access, and what the access
would consume is no poison. -/
def soundAddress (d : Dev) (c : Crew) (o : Op) (m : MemOp) (n : Nat) (p : Piece) (va : Nat) : Bool :=
  if m.scratch then decide (va + p.size ≤ c.scratchSize)
  else
    let t := (translate64 d (opAsker c o) c.ctx n va (kindWant m.kind)).1
    match t with
    | .ok pa _ => (pieceCause d (isAtomic m.kind) (p, t)).isNone && (m.kind == .store || !linePoisoned d (pa / 128))
    | .wait | .miss _ | .trap _ => false

/-- The operands a resumed access uses: those it had, or, where the program rewrote a source, unspecified ones (R32;
assumption 11). -/
def rereadPiece (d : Dev) (c : Crew) (o : Op) (m : MemOp) (n : Nat) (p : Piece) : Piece :=
  match if o.srcTaint && p.pa.isNone then findWave c o.wave else none with
  | none => p
  | some w =>
    let at_ := 8 * (256 * p.lane + p.off)
    let pair := fun k => unspecWord d c w n (1000000 + at_ + k) ++ unspecWord d c w n (1000000 + at_ + k + 1)
    let va := (pair 0).toNat / p.size * p.size
    let sound := soundAddress d c o m n p va
    let free := fun k => Config.freeBit n (2 ^ 66 + at_ + k)
    { p with
      va := if sound && free 0 then va else p.va
      x := if free 1 then pair 2 else p.x
      c := if free 2 then pair 4 else p.c }

/-- One piece of an access tried: a place translated afresh where it has none (R144, R319, R321), then its event. -/
def tryPiece (d : Dev) (c : Crew) (o : Op) (m : MemOp) (n clk : Nat) (p0 : Piece) : EventEnd × Dev × Crew × Piece :=
  let p := rereadPiece d c o m n p0
  if m.scratch then
    let r := scratchEvent c m p
    (.done r.1, d, r.2, p)
  else
    let (t, d1) := match p.pa with
      | some pa => (if keyWaits d p.key then Tr.wait else Tr.ok pa p.key, d)
      | none => translate64 d (opAsker c o) c.ctx n p.va (kindWant m.kind)
    match t with
    | .ok pa key =>
      let p1 := { p with pa := some pa, key := key }
      match pieceCause d1 (isAtomic m.kind) (p1, t) with
      | some cause => (.stop (.trap cause), d1, c, p1)
      | none =>
        match p1.window, m.kind with
        | true, .atomic op w _ => (.hub, joinHub d1 n clk c op w pa key p1 (c.uid, o.id, p1.lane, p1.off), c, p1)
        | true, .load _ | true, .words | true, .store | false, _ =>
          let r := memoryEvent d1 n c m p1 pa
          (r.1, r.2, c, p1)
    | .wait => (.stop .wait, d1, c, p)
    | .miss h => (.stop (.miss h), d1, c, p)
    | .trap k => (.stop (.trap k), d1, c, p)

/-- The progress of an access over several pieces. -/
structure MemRun where
  dev    : Dev
  crew   : Crew
  pieces : List Piece              -- as they stand after
  late   : Option (Nat × Nat)      -- the first trap cause met, with its address
  poison : Bool

/-- The piece after an attempt. -/
def pieceAfter (e : EventEnd) (p : Piece) : Piece :=
  match e with
  | .done x => { p with x := x, done := true }
  | .hub => { p with inHub := true }
  | .stop (.miss _) => { p with parked := true, absent := true }
  | .stop (.trap _) => { p with parked := true }
  | .stop .wait => p
  | .stop (.ok _ _) => p

/-- The pieces of operation o tried in lane order: those chosen by `pick`, the others left. -/
def runPieces (o : Op) (m : MemOp) (n clk : Nat) (pick : Piece → Bool) : List Piece → MemRun → MemRun
  | [], r => r
  | p :: ps, r =>
    if !pick p || r.poison then runPieces o m n clk pick ps { r with pieces := r.pieces ++ [p] }
    else
      let (e, d, c, p1) := tryPiece r.dev r.crew o m n clk p
      let d1 := match e with
        | .stop (.miss h) =>
          addMissing d (dieOf c.core) c.ctx (vaBits p1.va / 4096) clk h (kindWant m.kind) [.op c.uid o.id]
        | .stop (.trap _) | .stop .wait | .stop (.ok _ _) | .done _ | .hub => d
      let late := match e with
        | .stop (.trap k) => if k == 0x04 then r.late else r.late.orElse (fun _ => some (k, p1.va))
        | .stop (.miss _) | .stop .wait | .stop (.ok _ _) | .done _ | .hub => r.late
      runPieces o m n clk pick ps
        { dev := d1, crew := c, pieces := r.pieces ++ [pieceAfter e p1], late := late,
          poison := e == .stop (.trap 0x04) }

/-! ### Completion -/

/-- The lanes an access writes registers in: not those a handler completed itself (R339). -/
def resultLanes (m : MemOp) : List Nat := (m.pieces.filter (fun p => !p.skip)).map (fun p => p.lane) |>.eraseDups

/-- The registers of lanes, as keys of the register file, with what the access puts there. -/
def accessResults (m : MemOp) (ls : List Nat) : List (Nat × Word) :=
  ls.flatMap (fun l => (laneResultWords m l).mapIdx (fun k x => (96 * (m.dst + k) + l, x)))

/-- R253: the lanes all of whose events have taken their place, and whose registers are still to be written. -/
def lanesDue (o : Op) (m : MemOp) : List Nat :=
  if m.scalar then []
  else (resultLanes m).filter (fun l => !o.wrote.getLsbD l && m.pieces.all (fun p => p.lane != l || p.done))

/-- R253: those lanes' registers written. -/
def writeLanesDone (d : Dev) (c : Crew) (o : Op) (m : MemOp) (n : Nat) : Crew × Op :=
  let ls := lanesDue o m
  let o1 := { o with wrote := o.wrote ||| lanesWhere (fun l => ls.contains l) }
  (setOp (putResults d c o n (accessResults m ls) []) o1, o1)

/-- R30: an access all of whose events have taken their place reaches its completion point. -/
def finishMem (d : Dev) (c : Crew) (o : Op) (m : MemOp) (n : Nat) : Crew :=
  if m.scalar then
    completeOp d c o n [] ((laneResultWords m 0).mapIdx (fun k x => (m.dst + k, x)))
  else completeOp d c o n (accessResults m ((resultLanes m).filter (fun l => !o.wrote.getLsbD l))) []

/-- The record of a parked access brought up to date, its header's missing-page count and lanes with it (R36, R253, R329). -/
def refreshRecord (c : Crew) (o : Op) (nmiss : Nat) : Crew :=
  match o.recOff with
  | some p =>
    parkPut (parkPut c (p + 6) (bytesLE 2 nmiss ++ bytesLE 12 (opRecLanes o).toNat)) (p + 64) (opRecord o).2
  | none => c

/-- The lanes in which pieces have taken their places between two states of an access. -/
def placedLanes (o : Op) (old new : MemOp) : Lanes :=
  if old.scalar then (if (new.pieces.filter (fun p => !pieceOpen p)).length != (old.pieces.filter (fun p => !pieceOpen p)).length
    then o.order else 0#96)
  else lanesWhere (fun l => (new.pieces.filter (fun p => p.lane == l && !pieceOpen p)).length !=
    (old.pieces.filter (fun p => p.lane == l && !pieceOpen p)).length)

/-- The operation reads lane by lane, for each in its own program order (R349, R454). -/
def readsByLane (o : Op) : Bool := (smpOf o).isSome || (traceOf o).isSome

/-- R120: the reads of an asynchronous operation follow, in each of its lanes, what has just taken its place there before
it. -/
def followLanes (d : Dev) (c : Crew) (o : Op) (ls : Lanes) : Crew :=
  { c with ops := c.ops.map (fun e =>
      if e.wave == o.wave && decide (o.id < e.id) && (e.order &&& ls) != 0#96 then
        if readsByLane e then
          { e with follows := (laneList (e.order &&& ls)).map (fun l => (l, d.histSeq + 1)) ++
              e.follows.filter (fun p => !ls.getLsbD p.1) }
        else { e with memMark := d.histSeq + 1, scMark := c.shistSeq }
      else e) }

/-- What an access does after some of its events, as far as its missing pages and trap causes go (R36, R321): it stops on
missing pages, whatever trap cause other parts have met, or on a trap cause; a record that the handler of a delivered trap
looks at is brought up to date. -/
def stopMem (d : Dev) (c : Crew) (o : Op) (m : MemOp) (late : Option (Nat × Nat)) : Crew :=
  let nmiss := missingCount d (.op c.uid o.id)
  let va := match m.pieces.find? (fun p => p.absent) with
    | some p => p.va
    | none => 0
  if nmiss != 0 then
    match o.status with
    | .inflight | .late _ => stopOp c o 0x01 false nmiss va
    | .parked _ | .trapped _ _ => refreshRecord c o nmiss
  else match late, o.status with
    | some _, .trapped _ _ => refreshRecord c o 0
    | some (cause, a), .inflight | some (cause, a), .parked _ | some (cause, a), .late _ => stopOp c o cause true 0 a
    | none, _ => refreshRecord c o 0

/-- R30, R36, R120, R321: an access after some of its events: complete, stopped on missing pages or on a trap cause, or
still in flight. -/
def settleMem (d : Dev) (c : Crew) (o : Op) (m : MemOp) (n : Nat) (late : Option (Nat × Nat)) : Dev × Crew :=
  let c0 := match memOf o with
    | some old => followLanes d c o (placedLanes o old m)
    | none => c
  let (c1, o1) := writeLanesDone d c0 { o with body := .mem m } m n
  if m.pieces.all (fun p => !pieceOpen p) then (d, finishMem d c1 o1 m n)
  else (d, stopMem d c1 o1 m late)

/-- R113: LDREC reads its words in one event: where one of them cannot be read, none has been. -/
def oneEvent (m : MemOp) (ps : List Piece) : List Piece :=
  if m.kind == .words && ps.any pieceOpen then ps.map (fun p => { p with done := false }) else ps

/-- R325: the page after the highest of those that pieces have just missed predicted, where the lanes ascend. -/
def predictAfter (d : Dev) (c : Crew) (m : MemOp) (n clk : Nat) (ps : List Piece) : Dev :=
  let new := (m.pieces.zip ps).filter (fun p => !p.1.absent && p.2.absent)
  predictNext d (dieOf c.core) c.ctx n clk (kindWant m.kind) (ps.map Piece.va) (new.map (fun p => vaBits p.2.va / 4096))

/-- R114: events of an access take their place: the first that may, and any of the others.  One whose last lanes a handler
marked as done ends (R339). -/
def memProgress (s : State) (uid id : Nat) : State :=
  match findCrew s.dev uid with
  | none => s
  | some c => match findOp c id with
    | none => s
    | some o => match memOf o with
      | none => s
      | some m =>
        if c.state == .saved then s else
        let held := heldLanes c.ops o
        let ready := m.pieces.filter (pieceReady held o m)
        match ready with
        | [] =>
          if o.status == .inflight && m.pieces.all (fun p => !pieceOpen p) then
            { s with dev := updCrew s.dev uid (fun _ => (settleMem s.dev c o m s.nfree none).2) }
          else s
        | first :: _ =>
          let pick := fun p : Piece => pieceReady held o m p && (m.kind == .words ||
            (p.lane == first.lane && p.off == first.off) || Config.freeBit s.nfree (400000 + 256 * p.lane + p.off))
          let r := runPieces o m s.nfree s.clk pick m.pieces ⟨s.dev, c, [], none, false⟩
          if r.poison then
            { s with dev := updCrew r.dev uid (fun _ => { c with contained := some 0x04 }) }
          else
            let d1 := predictAfter r.dev r.crew m s.nfree s.clk r.pieces
            let (d, c2) := settleMem d1 r.crew o { m with pieces := oneEvent m r.pieces } s.nfree r.late
            { s with dev := updCrew d uid (fun _ => c2) }

/-- LOAD_COMPLETE: a load or returning atomic takes its places and, the last one taken, writes its registers and
lowers its flag (R30, R114). -/
def execLoadComplete (c o : Nat) (s : State) : Out := event s (fun s => memProgress s c o)

/-- STORE_COMPLETE: a store or reduction holds its places and lowers its flag (R30, R114). -/
def execStoreComplete (c o : Nat) (s : State) : Out := event s (fun s => memProgress s c o)

/-! ### Full/empty lines (R129, R130, R263, R264) -/

/-- The full/empty bit of a line (R128). -/
def lineFull (c : Crew) (line : Nat) : Bool := tabGet false c.full line

/-- Bits of lines set. -/
def setLines (t : Tab Bool) (ls : List Nat) (b : Bool) : Tab Bool := ls.foldl (fun t l => tabSet false t l b) t

/-- The operation is a produce-flagged copy that has taken the line and not filled it yet (R284). -/
def takesLine (o : Op) (line : Nat) : Bool := (copyOf o).any (fun p => p.line == some line)

/-- The copy without the lines among those it has filled; with `who`, an LDC has found them full (R122). -/
def CopyOp.forget (p : CopyOp) (ls : List Nat) (who : Option (Nat × Nat × Lanes)) : CopyOp :=
  if p.filled.any ls.contains then { p with filled := p.filled.filter (fun l => !ls.contains l), seenBy := who.toList ++ p.seenBy }
  else p

/-- The LDC or STP finds every line of its set as it must, taken by no copy, and no earlier access holds its lanes
(R263, R264, R284). -/
def linesReady (c : Crew) (o : Op) (m : MemOp) : Bool :=
  !m.taken && o.status == .inflight && (heldLanes c.ops o &&& o.order) == 0#96 &&
  !m.lines.any (fun l => c.ops.any (fun e => takesLine e l)) &&
  (match m.bits with
    | some b => m.lines.all (fun l => lineFull c l == b)
    | none => false)

/-- FULL_EMPTY_RETEST for an LDC or STP: it takes its lines, its data move, and the lines change (R129, R263). -/
def takeLines (s : State) (uid : Nat) (c : Crew) (o : Op) (m : MemOp) : State :=
  if !linesReady c o m then s
  else
    let m1 := { m with taken := true }
    let r := runPieces o m1 s.nfree s.clk (fun _ => true) m.pieces ⟨s.dev, c, [], none, false⟩
    let loads := m.bits.getD false
    let seen := fun e : Op => match e.body with
      | .copy p => { e with body := .copy (p.forget m.lines (some (o.wave, o.id, o.order))) }
      | .mem _ | .chain _ | .mmao _ | .mmat _ | .tsreg _ | .demand _ | .smp _ | .trace _ => e
    let c1 := { r.crew with full := setLines r.crew.full m.lines (!loads), ops := if loads then r.crew.ops.map seen else r.crew.ops }
    let (d, c2) := settleMem r.dev c1 o { m1 with pieces := r.pieces } s.nfree none
    { s with dev := updCrew d uid (fun _ => c2) }

/-! ### Fabric hubs (R133, R134, R261) -/

/-- A piece of an operation marked as done by a hub. -/
def hubDone (d : Dev) (n : Nat) (x : Nat × Nat × Nat × Nat) : Dev :=
  match findCrew d x.1 with
  | none => d
  | some c => match findOp c x.2.1 with
    | none => d
    | some o => match memOf o with
      | none => d
      | some m =>
        let ps := m.pieces.map (fun p =>
          if p.inHub && p.lane == x.2.2.1 && p.off == x.2.2.2 then { p with done := true, inHub := false } else p)
        let r := settleMem d c o { m with pieces := ps } n none
        updCrew r.1 x.1 (fun _ => r.2)

/-- R133, R134: a combination delivered as one read-modify-write at its home; poison contains the crews whose
reductions it carries (R145). -/
def deliverHub (d : Dev) (n : Nat) (h : HubEntry) : Dev :=
  let size := 4 * (h.w + 1)
  let d0 := { d with hubs := d.hubs.filter (fun x => x != h) }
  if linePoisoned d0 (h.pa / 128) then
    h.members.foldl (fun d x => updCrew d x.1 (fun c => { c with contained := some 0x04 })) d0
  else
    let old := BitVec.ofNat 64 (natAt d0 h.pa size)
    let d1 := storeBytes h.key (touchLine d0 n (h.pa / 128) true h.key) h.pa (bytesLE size (atomicNew h.op size old h.val 0).toNat)
    h.members.foldl (fun d x => hubDone d n x) d1

/-- HUB_FLUSH: a hub delivers a combination (R134); it waits while its page's key is being installed (R488). -/
def execHubFlush (i : Nat) (s : State) : Out :=
  event s (fun s => match s.dev.hubs[i]? with
    | some h => if keyWaits s.dev h.key then s else { s with dev := deliverHub s.dev s.nfree h }
    | none => s)

end Sys2Proof.Machine
end

