-- ==== Sys2Proof/Machine/Barrier.lean ====
section
/-! DEFINITION. Barrier objects in scratchpad and the BAR and FENCE instructions (R125, R126, R265 to R272). -/

namespace Sys2Proof.Machine

/-- The fields of a barrier object (R265), PENDB as the number it stands for; `rsv` keeps bits 127 to 98. -/
structure Bar where
  expa  : Nat
  penda : Nat
  expb  : Nat
  phase : Nat
  pendb : Int
  valid : Bool
  err   : Bool
  rsv   : Nat
  deriving DecidableEq, Repr

/-- The object of 16 bytes as a number, its fields (R265). -/
def Bar.ofNat (x : Nat) : Bar :=
  { expa := bitsOf x 15 0, penda := bitsOf x 31 16, expb := bitsOf x 55 32, phase := bitsOf x 63 56,
    pendb := (BitVec.ofNat 32 (bitsOf x 95 64)).toInt, valid := x.testBit 96, err := x.testBit 97,
    rsv := bitsOf x 127 98 }

/-- The 16 bytes of an object (R265). -/
def Bar.toNat (b : Bar) : Nat :=
  b.expa + 2 ^ 16 * b.penda + 2 ^ 32 * b.expb + 2 ^ 56 * b.phase + 2 ^ 64 * (BitVec.ofInt 32 b.pendb).toNat +
  (if b.valid then 2 ^ 96 else 0) + (if b.err then 2 ^ 97 else 0) + 2 ^ 98 * b.rsv

/-- The object at an offset of the crew's scratchpad. -/
def barAt (c : Crew) (o : Nat) : Bar := Bar.ofNat (natLE (scratchBytes c o 16))

/-- The object written back. -/
def putBar (c : Crew) (o : Nat) (b : Bar) : Crew := putScratch c o (bytesLE 16 b.toNat)

/-- R267: a phase whose arrivals and bytes have all come completes: at most one an event. -/
def Bar.tryComplete (b : Bar) : Bar :=
  if b.penda == 0 && b.pendb == 0 then
    { b with phase := (b.phase + 1) % 256, penda := b.expa, pendb := b.expb }
  else b

/-- R267: phase p is complete. -/
def Bar.done (b : Bar) (p : Nat) : Bool :=
  let k := (b.phase + 256 - p % 256) % 256
  1 ≤ k && k ≤ 128

/-- R267: a wait on phase p is out of range. -/
def Bar.tooFar (b : Bar) (p : Nat) : Bool := 129 ≤ (b.phase + 256 - p % 256) % 256

/-- PENDB changed by x; past the signed 32-bit range its value is free (R268; assumption 12). -/
def Bar.addBytes (b : Bar) (n key : Nat) (x : Int) : Bar :=
  let y := b.pendb + x
  if decide (-(2 ^ 31) ≤ y) && decide (y < 2 ^ 31) then { b with pendb := y }
  else { b with pendb := ((Config.freeWord n key).setWidth 32).toInt }

/-- R267: n arrivals, unless more than are awaited. -/
def Bar.arrive (b : Bar) (n : Nat) : Option Bar :=
  if b.penda < n then none else some { b with penda := b.penda - n }.tryComplete

/-- R268: a credit of n bytes; an invalid object discards it and sets ERR. -/
def Bar.credit (b : Bar) (n key bytes : Nat) : Bar :=
  if b.valid then (b.addBytes n key (-(bytes : Int))).tryComplete else { b with err := true }

/-- R269: what an enrolment does to its object when its wave retires or drops: EXPA falls, and an arrival is made for
a wave that has not arrived in the current phase. -/
def Bar.leave (b : Bar) (recorded : Nat) : Bar :=
  let b1 := { b with expa := b.expa - 1 }
  if recorded != b1.phase && 0 < b1.penda then { b1 with penda := b1.penda - 1 }.tryComplete else b1

/-- R125, R268: a copy's credit to an object of a crew. -/
def creditBar (c : Crew) (n o bytes : Nat) : Crew := putBar c o ((barAt c o).credit n (500000 + o) bytes)

/-- R269: a wave's enrolments act as it retires, on the objects that are valid. -/
def leaveEnrolments (c : Crew) (l : List (Nat × Nat)) : Crew :=
  l.foldl (fun c e =>
    let b := barAt c e.1
    if b.valid then putBar c e.1 (b.leave e.2) else c) c

/-- R267: the checks of every sub-operation, VALID apart for INIT, before `k`. -/
def withBar (s : State) (o : Nat) (needValid : Bool) (k : Bar → State) : State :=
  if o % 16 != 0 then takeTrap s 0x07 false
  else if s.crew.scratchSize < o + 16 then takeTrap s 0x06 false
  else
    let b := barAt s.crew o
    if needValid && !b.valid then takeTrap s 0x08 false else k b

/-- R115, R125: an arrival follows every access of the fragment's lanes before it; until they have taken their places
the instruction waits at issue. -/
def afterAccesses (s : State) (k : State → State) : State :=
  if pendingFor s.crew.ops s.wave.idx s.frag.lanes then stall s else k s

/-- R156, R191: a waiting instruction behind accesses of its lanes that have not taken their places is Blocked, and so counts as
yielded; it looks at its condition once they have. -/
def blockBehind (s : State) (k : State → State) : State :=
  if pendingFor s.crew.ops s.wave.idx s.frag.lanes then block s .earlier else k s

/-- The object changed, and the fragment goes on. -/
def barNext (s : State) (o : Nat) (b : Bar) : State := advance { s with crew := putBar s.crew o b }

/-- R269: an arrival by an enrolled wave records the phase it counts in. -/
def recordArrival (s : State) (o phase : Nat) : State :=
  { s with wave := { s.wave with enrol := s.wave.enrol.map (fun e => if e.1 == o then (o, phase) else e) } }

/-- BAR.INIT (R266, R267). -/
def execBarInit (a b : BitVec 8) (s : State) : Out :=
  checked (.barInit a b) .control s (fun s => afterAccesses s (fun s =>
    let o := (readSrc s a 0).toNat
    let x := (readS s (b.toNat - 0x80)).toNat
    let y := (readS s (b.toNat - 0x80 + 1)).toNat
    if 65535 < x || 16777215 < y || (x == 0 && y == 0) then takeTrap s 0x08 false
    else withBar s o false (fun old =>
      barNext s o { old with expa := x, penda := x, expb := y, pendb := y, phase := 0, valid := true, err := false })))

/-- BAR.ARRIVE (R267). -/
def execBarArrive (a b : BitVec 8) (s : State) : Out :=
  checked (.barArrive a b) .control s (fun s => afterAccesses s (fun s =>
    let o := (readSrc s a 0).toNat
    let x := (readSrc s b 0).toNat
    if x == 0 || 65535 < x then takeTrap s 0x08 false
    else withBar s o true (fun old => match old.arrive x with
      | none => takeTrap s 0x08 false
      | some new => barNext (recordArrival s o old.phase) o new)))

/-- BAR.EXPECT (R267). -/
def execBarExpect (a b : BitVec 8) (s : State) : Out :=
  checked (.barExpect a b) .control s (fun s => afterAccesses s (fun s =>
    let o := (readSrc s a 0).toNat
    let x := (readSrc s b 0).toNat
    if 16777215 < x then takeTrap s 0x08 false
    else withBar s o true (fun old => barNext s o (old.addBytes s.nfree o x).tryComplete)))

/-- BAR.ARRIVEX: bytes and one arrival as one event (R266, R267). -/
def execBarArrivex (a b : BitVec 8) (s : State) : Out :=
  checked (.barArrivex a b) .control s (fun s => afterAccesses s (fun s =>
    let o := (readSrc s a 0).toNat
    let x := (readSrc s b 0).toNat
    if 16777215 < x then takeTrap s 0x08 false
    else withBar s o true (fun old => match (old.addBytes s.nfree o x).arrive 1 with
      | none => takeTrap s 0x08 false
      | some new => barNext (recordArrival s o old.phase) o new)))

/-- BAR.WAIT: Blocked until the phase is complete (R267); an object invalidated meanwhile is an illegal instruction
(R270). -/
def execBarWait (a b : BitVec 8) (s : State) : Out :=
  checked (.barWait a b) .control s (fun s => blockBehind s (fun s =>
    match s.frag.resume with
    | .released => advance s
    | .broken => takeTrap s 0x08 false
    | .fresh | .timedOut =>
      let o := (readSrc s a 0).toNat
      let p := (readSrc s b 0).toNat
      if 255 < p then takeTrap s 0x08 false
      else withBar s o true (fun bar =>
        if bar.tooFar p then takeTrap s 0x08 false
        else if bar.done p then advance s
        else block s (.barrier o p))))

/-- The mask a wait or test reports in, and on (R267). -/
def reportBar (s : State) (m : BitVec 3) (done : Bool) : State :=
  advance (writeM s m.toNat (if done then BitVec.allOnes 96 else 0#96))

/-- BAR.WAITT: as WAIT, giving up after its clocks, and reporting (R267). -/
def execBarWaitt (m : BitVec 3) (a b : BitVec 8) (s : State) : Out :=
  checked (.barWaitt m a b) .control s (fun s => blockBehind s (fun s =>
    match s.frag.resume with
    | .released => reportBar s m true
    | .timedOut => reportBar s m false
    | .broken => takeTrap s 0x08 false
    | .fresh =>
      let o := (readSrc s a 0).toNat
      let p := (readS s (b.toNat - 0x80)).toNat
      let n := (readS s (b.toNat - 0x80 + 1)).toNat
      if 255 < p then takeTrap s 0x08 false
      else withBar s o true (fun bar =>
        if bar.tooFar p then takeTrap s 0x08 false
        else if bar.done p then reportBar s m true
        else if n == 0 then reportBar s m false
        else block s (.barrierT o p (s.clk + n)))))

/-- BAR.TEST (R267). -/
def execBarTest (m : BitVec 3) (a b : BitVec 8) (s : State) : Out :=
  checked (.barTest m a b) .control s (fun s => afterAccesses s (fun s =>
    let o := (readSrc s a 0).toNat
    let p := (readSrc s b 0).toNat
    if 255 < p then takeTrap s 0x08 false
    else withBar s o true (fun bar =>
      if bar.tooFar p then takeTrap s 0x08 false else reportBar s m (bar.done p))))

/-- BAR.ENROLL: the wave's enrolment begins as if it had arrived in the phase before; a fifth is illegal (R269). -/
def execBarEnroll (a : BitVec 8) (s : State) : Out :=
  checked (.barEnroll a) .control s (fun s => afterAccesses s (fun s =>
    let o := (readSrc s a 0).toNat
    withBar s o true (fun bar =>
      if s.wave.enrol.any (fun e => e.1 == o) then advance s
      else if 4 ≤ s.wave.enrol.length then takeTrap s 0x08 false
      else advance { s with wave := { s.wave with enrol := s.wave.enrol ++ [(o, (bar.phase + 255) % 256)] } })))

/-- BAR.DROP (R269). -/
def execBarDrop (a : BitVec 8) (s : State) : Out :=
  checked (.barDrop a) .control s (fun s => afterAccesses s (fun s =>
    let o := (readSrc s a 0).toNat
    withBar s o true (fun bar =>
      match s.wave.enrol.find? (fun e => e.1 == o) with
      | some e =>
        barNext { s with wave := { s.wave with enrol := s.wave.enrol.filter (fun x => x.1 != o) } } o (bar.leave e.2)
      | none => match ({ bar with expa := bar.expa - 1 } : Bar).arrive 1 with
        | none => takeTrap s 0x08 false
        | some new => barNext s o new)))

/-- A fragment Blocked in BAR.WAIT or WAITT on the object at o finds it invalidated (R270). -/
def breakWait (clk o : Nat) (f : Frag) : Frag :=
  match f.status with
  | .blocked (.barrier x _) => if x == o then { f with status := .ready, resume := .broken, age := clk } else f
  | .blocked (.barrierT x _ _) => if x == o then { f with status := .ready, resume := .broken, age := clk } else f
  | .blocked (.yieldonBar x _) => if x == o then { f with status := .ready, resume := .broken, age := clk } else f
  | .blocked (.patch _ _ _ _ _ _) | .blocked (.batch _) | .blocked .seal | .blocked (.tlbinv _) | .blocked .launch
  | .blocked .depwait | .blocked .exits | .blocked (.yieldonFlg _) | .blocked (.sleep _) | .blocked .earlier
  | .ready | .stalled | .waiting | .yielded | .fetchWait | .yieldedJob | .joining => f

/-- A wave without enrolments on the object, its waiting fragments woken to the fault (R270). -/
def breakWave (clk o : Nat) (w : Wave) : Wave :=
  { w with enrol := w.enrol.filter (fun e => e.1 != o), frags := w.frags.map (breakWait clk o) }

/-- BAR.INVAL (R270). -/
def execBarInval (a : BitVec 8) (s : State) : Out :=
  checked (.barInval a) .control s (fun s => afterAccesses s (fun s =>
    let o := (readSrc s a 0).toNat
    withBar s o true (fun bar =>
      barNext { s with
        wave := breakWave s.clk o s.wave
        crew := { s.crew with waves := s.crew.waves.map (breakWave s.clk o) } } o { bar with valid := false })))

/-! ### Fences (R271, R272) -/

/-- FENCE.OPC: the crew's operand cache generation passes on (R271, R272, R375). -/
def execFenceOpc (s : State) : Out :=
  checked .fenceOpc .control s (fun s => advance { s with crew := { s.crew with opcGen := s.crew.opcGen + 1 } })

/-- The wave has an asynchronous operation whose lanes the fragment has (R271; assumption 13). -/
def asyncOpen (ops : List Op) (w : Nat) (lanes : Lanes) : Bool :=
  ops.any (fun o => o.wave == w && opAsync o && (o.order &&& lanes) != 0#96)

/-- FENCE.ASYNC: Waiting until every asynchronous operation of the fragment is complete; a late trap is delivered here
(R271, R321). -/
def execFenceAsync (s : State) : Out :=
  checked .fenceAsync .control s (fun s =>
    let late := if s.frag.trapMode then none else lateOp s.crew.ops s.wave.idx (fun _ => true)
    match late with
    | some o => deliverLate s o
    | none =>
      if asyncOpen s.crew.ops s.wave.idx s.frag.lanes then { s with frag := { s.frag with status := .waiting } }
      else advance s)

end Sys2Proof.Machine
end

