-- ==== Sys2Proof/Machine/Async.lean ====
section
/-! DEFINITION. What the asynchronous engines share: a step's touches of virtual memory translated together, the ways
such a step stops, its reads and writes (R36, R120, R121, R145, R321, R333), and the counters of arithmetic events
(R107). -/

namespace Sys2Proof.Machine

/-- Bytes of virtual memory that a step of an engine reads or writes. -/
structure Touch where
  va  : Nat
  len : Nat
  wr  : Bool
  deriving DecidableEq, Repr, Inhabited

/-- What an engine wants of a page. -/
def touchWant (wr : Bool) : Want := if wr then wantWrite else wantRead

/-- The pages of a touch, by the first address of each. -/
def touchPages (t : Touch) : List Nat :=
  if t.len == 0 then []
  else (List.range ((t.va + t.len - 1) / 4096 - t.va / 4096 + 1)).map (fun i => (t.va / 4096 + i) * 4096)

/-- The translations a step of an engine has made so far. -/
structure Io where
  dev    : Dev
  n      : Nat                             -- State.nfree
  mark   : Nat                             -- Op.memMark of the operation that reads (R120)
  pages  : List (Nat × Bool × Nat × Nat)   -- virtual page address, for a write, physical address, KEY
  miss   : List (Nat × Bool × Bool)        -- page not present, for a write, with the host
  missAt : Option Nat                      -- the first address met on such a page (R329)
  trap   : Option (Nat × Nat)              -- the first trap cause and its address
  wait   : Bool                            -- a Translation Completion is outstanding
  awaits : List Nat                        -- for these pages, by first address (R315)
  poison : Bool

/-- One page translated, first met at address `at_`. -/
def ioPage (who : Asker) (slot at_ : Nat) (wr : Bool) (r : Io) (page : Nat) : Io :=
  if r.pages.any (fun p => p.1 == page && p.2.1 == wr) then r
  else
    let (t, d) := translate64 r.dev who slot r.n page (touchWant wr)
    match t with
    | .ok pa key => { r with dev := d, pages := (page, wr, pa, key) :: r.pages }
    | .wait => { r with dev := d, wait := true, awaits := page :: r.awaits }
    | .miss h => { r with dev := d, miss := r.miss ++ [(page, wr, h)], missAt := some (r.missAt.getD (max page at_)) }
    | .trap c =>
      if c == 0x04 then { r with dev := d, poison := true }
      else { r with dev := d, trap := some (r.trap.getD (c, max page at_)) }

/-- A range is canonical at both ends and does not wrap. -/
def rangeCanonical (va len : Nat) : Bool :=
  decide (va + (len - 1) < 2 ^ 64) && canonical (BitVec.ofNat 64 va) && canonical (BitVec.ofNat 64 (va + (len - 1)))

/-- The lines of a touch that read as poison. -/
def ioPoison (r : Io) (t : Touch) : Bool :=
  !t.wr && (List.range ((t.va + t.len - 1) / 128 - t.va / 128 + 1)).any (fun i =>
    let a := (t.va / 128 + i) * 128
    match r.pages.find? (fun p => p.1 == a / 4096 * 4096 && !p.2.1) with
    | some p => linePoisoned r.dev ((p.2.2.1 + a % 4096) / 128)
    | none => false)

/-- One touch: its range, watchpoints (R333), and translation; a page not present is brought before the watchpoint
counts (R341). -/
def ioTouch (who : Asker) (slot : Nat) (noWatch : Bool) (r : Io) (t : Touch) : Io :=
  if t.len == 0 then r
  else if !rangeCanonical t.va t.len then { r with trap := some (r.trap.getD (0x05, t.va)) }
  else
    let r0 := match if noWatch then none else watchAt r.dev slot t.va t.len (!t.wr) t.wr with
      | some a => { r with trap := some (r.trap.getD (0x0A, a)) }
      | none => r
    let r1 := (touchPages t).foldl (ioPage who slot t.va t.wr) r0
    { r1 with poison := r1.poison || (r1.miss.isEmpty && r1.trap.isNone && ioPoison r1 t) }

/-- Nothing translated yet, for an operation that issued at mark m (R120). -/
def Io.start (d : Dev) (n m : Nat) : Io := ⟨d, n, m, [], [], none, none, false, [], false⟩

/-- The step may go on. -/
def Io.good (r : Io) : Bool := r.miss.isEmpty && r.trap.isNone && !r.wait && !r.poison

/-- The place of a virtual address among the pages translated. -/
def Io.place (r : Io) (wr : Bool) (va : Nat) : Nat × Nat :=
  match r.pages.find? (fun p => p.1 == va / 4096 * 4096 && p.2.1 == wr) with
  | some p => (p.2.2.1 + va % 4096, p.2.2.2)
  | none => (0, 0)

/-- The lines the reads of a step that goes on reach, as accesses of the memory side (R460, R461). -/
def ioReach (ts : List Touch) (r : Io) : Io :=
  if !r.good then r
  else
    let lines := (ts.filter (fun t => !t.wr)).flatMap (fun t => (linesOfRange t.va t.len).map (fun l =>
      let q := r.place false (l * 128)
      (q.1 / 128, q.2)))
    { r with dev := lines.eraseDups.foldl (fun d l => touchLine d r.n l.1 false l.2) r.dev }

/-- All touches of a step translated, in their order. -/
def ioOpen (d : Dev) (who : Asker) (slot n m : Nat) (noWatch : Bool) (ts : List Touch) : Io :=
  ioReach ts (ts.foldl (ioTouch who slot noWatch) (Io.start d n m))

/-- Touches translated up to the first that cannot be read (R350). -/
def ioUntil (d : Dev) (who : Asker) (slot n m : Nat) (noWatch : Bool) (ts : List Touch) : Io :=
  ioReach ts (ts.foldl (fun r t => if r.good then ioTouch who slot noWatch r t else r) (Io.start d n m))

/-- A unit of these touches reads or writes the address. -/
def touchesAt (ts : List Touch) (a : Nat) : Bool := ts.any (fun t => t.va ≤ a && decide (a < t.va + t.len))

/-- R296, R334: the unit of these touches is one the operation parked at for a watchpoint, and does not match again, or its
instruction issued under the one-shot mark.  The unit of an SMP is the footprint of any lane that reads the watched address, that
of a TRACE every read of the address (DESIGN CHOICE; assumption 84). -/
def unitSkips (o : Op) (ts : List Touch) : Bool := o.quiet || o.watched.any (touchesAt ts)

/-- The operation after the unit of these touches: the watchpoints it parked at there are behind it. -/
def passUnit (o : Op) (ts : List Touch) : Op := { o with watched := o.watched.filter (fun a => !touchesAt ts a), awaits := [] }

/-- The mark since which a lane of an operation reads memory: the lane's own events since the issue come before it (R120). -/
def laneMark (o : Op) (l : Nat) : Nat := (o.follows.filter (fun p => p.1 == l)).foldl (fun m p => max m p.2) o.memMark

/-- Bytes read through the translations, each aligned word as it stood at some moment since the operation issued
(R120). -/
def Io.read (r : Io) (va n : Nat) : List Byte :=
  (List.range n).map (fun i => memSince r.dev r.mark r.n (r.place false (va + i)).1)

/-- A number read through the translations. -/
def Io.nat (r : Io) (va n : Nat) : Nat := natLE (r.read va n)

/-- A byte written through the translations. -/
def Io.put (r : Io) (va : Nat) (b : Byte) : Io :=
  let q := r.place true va
  { r with dev := storeByte q.2 r.dev q.1 b }

/-- Bytes written through the translations, each of their lines reached once (R460, R461). -/
def Io.write (r : Io) (va : Nat) (bs : List Byte) : Io :=
  let d := (linesOfRange va bs.length).foldl (fun d l =>
    let q := r.place true (max va (l * 128))
    touchLine d r.n (q.1 / 128) true q.2) r.dev
  (bs.mapIdx (fun i b => (va + i, b))).foldl (fun r p => r.put p.1 p.2) { r with dev := d }

/-- The pages it missed, by their addresses. -/
def Io.missed (r : Io) : List Nat := (r.miss.map (fun p => p.1)).eraseDups

/-- Bytes of the scratchpad as an operation reads them (R120). -/
def scratchRead (c : Crew) (o : Op) (n a len : Nat) : List Byte :=
  (List.range len).map (fun i => scratchSince c o.scMark n (a + i))

/-! ### The words of a write (R121, R123, R124) -/

/-- Bytes from address a on, cut into the aligned words they lie in: the first address and the bytes of each. -/
def wordsOf (a : Nat) (bs : List Byte) : List (Nat × List Byte) :=
  if bs.isEmpty then []
  else (List.range ((a + bs.length - 1) / 4 - a / 4 + 1)).map (fun i =>
    let lo := max a ((a / 4 + i) * 4)
    let hi := min (a + bs.length) ((a / 4 + i + 1) * 4)
    (lo, (bs.drop (lo - a)).take (hi - lo)))

/-- Some of the entries of a list, at least one of them, which ones is left free (R121). -/
def someOf {α : Type} (n key : Nat) (l : List α) : List α :=
  let k := (l.zipIdx.filter (fun p => Config.freeBit n (key + p.2))).map Prod.fst
  if k.isEmpty then l.take 1 else k

/-- Of the words of a write, those still to be written, with their numbers. -/
def wordsRemaining (part : List Nat) (ws : List (Nat × List Byte)) : List ((Nat × List Byte) × Nat) :=
  ws.zipIdx.filter (fun p => !part.contains p.2)

/-- R36, R145, R321, R323: the operation of crew `c` stops at a step that cannot go on: contained on poison, parked on its
missing pages, parked with a late trap where none is missing, or left as it is until a Translation Completion comes. -/
def ioStop (s : State) (c : Crew) (o : Op) (r : Io) : State :=
  if r.poison then { s with dev := updCrew r.dev c.uid (fun _ => { c with contained := some 0x04 }) }
  else if !r.miss.isEmpty then
    let d := r.miss.foldl (fun d p =>
      addMissing d (dieOf c.core) c.ctx (vaBits p.1 / 4096) s.clk p.2.2 (touchWant p.2.1) [.op c.uid o.id]) r.dev
    { s with dev := updCrew d c.uid (fun _ =>
        stopOp c o 0x01 false (missingCount d (.op c.uid o.id)) (r.missAt.getD 0)) }
  else match r.trap with
    | some (k, va) =>
      let o1 := if k == 0x0A then { o with watched := va :: o.watched } else o
      { s with dev := updCrew r.dev c.uid (fun _ => stopOp c o1 k true 0 va) }
    | none => { s with dev := updCrew r.dev c.uid (fun _ => setOp c { o with awaits := r.awaits }) }

/-- An operation may take a step: it is in flight, and, when it is asynchronous, no earlier access of its lanes is still
to take its place (R120). -/
def mayStep (c : Crew) (o : Op) : Bool :=
  o.status == .inflight && (!opAsync o || (heldLanes c.ops o &&& o.order) == 0#96)

/-- An operation of a crew that may take a step, found by number. -/
def stepping (s : State) (uid id : Nat) (k : Crew → Op → State) : State :=
  match findCrew s.dev uid with
  | none => s
  | some c => match findOp c id with
    | none => s
    | some o => if c.state != .saved && mayStep c o then k c o else s

/-- The crew put back after a step of one of its engines. -/
def putCrew (s : State) (d : Dev) (c : Crew) : State := { s with dev := updCrew d c.uid (fun _ => c) }

/-! ### Event counters (R107) -/

/-- The events of one output element: overflow, an unfounded NaN, saturation, underflow. -/
structure ElemEvents where
  ovf : Bool
  nan : Bool
  sat : Bool
  unf : Bool
  deriving DecidableEq, Repr

/-- R107: the events of an element by its roundings' flags, its final value and whether an input was NaN. -/
def elemEvents (fl : Flags) (out : Ext) (inNaN : Bool) : ElemEvents :=
  ⟨(fl &&& flagOVF) != 0, extIsNaN out && !inNaN, (fl &&& flagSATD) != 0, (fl &&& flagUNF) != 0⟩

/-- A counter raised; it stops at its top (R107). -/
def raiseMx (t : Tab Nat) (k n : Nat) : Tab Nat := tabSet 0 t k (min 0xFFFFFFFF (tabGet 0 t k + n))

/-- How many elements raise each event, by counter. -/
def eventTotals (es : List ElemEvents) : List Nat :=
  [(es.filter ElemEvents.ovf).length, (es.filter ElemEvents.nan).length, (es.filter ElemEvents.sat).length,
    (es.filter ElemEvents.unf).length]

/-- The counters raised by these numbers of events. -/
def addTotals (t : Tab Nat) (l : List Nat) : Tab Nat := l.zipIdx.foldl (fun t p => raiseMx t p.2 p.1) t

/-- The counters raised by the events of elements. -/
def countElems (t : Tab Nat) (es : List ElemEvents) : Tab Nat := addTotals t (eventTotals es)

end Sys2Proof.Machine
end

