-- ==== Sys2Proof/Machine/Crews.lean ====
section
/-! DEFINITION. Jobs and crews as the dispatch engine keeps them: what a core has room for, pre-emption requests,
placement order, retirement and containment (R12, R13, R40, R42, R154, R165 to R168, R174). -/

namespace Sys2Proof.Machine

/-! ### Jobs -/

/-- A job by its id. -/
def findJob (d : Dev) (id : DWord) : Option Job := d.jobs.find? (fun j => j.id == id && id != 0)

/-- The device with one job changed. -/
def updJob (d : Dev) (id : DWord) (f : Job → Job) : Dev :=
  { d with jobs := d.jobs.map (fun j => if j.id == id && id != 0 then f j else j) }

/-- The cores of a span: its crews. -/
def spanCrews (c : Card) : Nat := c.w * c.h

/-- The job has come to its end (R40). -/
def jobEnded (j : Job) : Bool :=
  match j.state with
  | .done => true
  | .failed => true
  | .placing => false
  | .running => false
  | .draining => false
  | .rejected _ => false

/-- R160: every crew of the span has been triggered; a zero-size job at its DONE write. -/
def jobTriggered (j : Job) : Bool :=
  if j.zeroSize then jobEnded j else (List.range (spanCrews j.card)).all (fun i => j.trig.contains i)

/-- The die an id names (R151). -/
def idDie (id : DWord) : Nat := (id.extractLsb' 56 3).toNat

/-- R151, R161: a producer id is complete: triggered, ended, or not yet assigned by its die. -/
def idComplete (d : Dev) (id : DWord) : Bool :=
  match findJob d id with
  | some j => jobTriggered j || jobEnded j
  | none => true

/-- R161: a producer has failed. -/
def idFailed (d : Dev) (id : DWord) : Bool :=
  match findJob d id with
  | some j => j.state == .failed
  | none => false

/-- R160: the crew's index joins the triggered ones once each of its waves has triggered or retired. -/
def noteTriggered (d : Dev) (c : Crew) : Dev :=
  if (List.range c.waveCount).all (fun w => c.trigged.contains w) then
    updJob d c.job (fun j => if j.trig.contains c.index then j else { j with trig := j.trig ++ [c.index] })
  else d

/-! ### Room on a core (R12, R13, R154, R490) -/

/-- What a crew takes of its core. -/
structure Needs where
  slots  : Nat
  vregs  : Nat
  scr    : Nat
  tile   : Nat
  thunks : Nat

/-- What a placed crew holds of its core.  The spec does not say when the wave slot and the registers of a wave that
has retired become free; here at once, as the wave leaves the crew, the rest when the crew retires (DESIGN CHOICE;
assumption 79). -/
def crewNeeds (c : Crew) : Needs := ⟨c.waves.length, c.waves.length * c.vregs, c.scratchSize, c.tileSize, c.thunkMax⟩

/-- Sums of needs. -/
def Needs.add (a b : Needs) : Needs :=
  ⟨a.slots + b.slots, a.vregs + b.vregs, a.scr + b.scr, a.tile + b.tile, a.thunks + b.thunks⟩

/-- Rounded up to a multiple of k. -/
def roundUpTo (k x : Nat) : Nat := (x + k - 1) / k * k

/-- What a card's crew asks for (R148). -/
def cardNeeds (c : Card) : Needs :=
  ⟨c.waves, c.waves * c.vregs, roundUpTo 2048 c.scratch, roundUpTo 1024 c.tiles, c.thunks⟩

/-- The crews that stand on a core: placed and not saved. -/
def crewsOn (d : Dev) (core : Nat) : List Crew := d.crews.filter (fun c => c.core == core && c.state != .saved)

/-- The inherited allocations that wait on a core for their successor crew (R165). -/
def heirNeeds (d : Dev) (core : Nat) : Needs :=
  (d.waiting.filter (fun w => w.core == core && w.scratch.isSome)).foldl (fun a w =>
    match findJob d w.job with
    | some j => a.add ⟨0, 0, roundUpTo 2048 j.card.scratch, roundUpTo 1024 j.card.tiles, 0⟩
    | none => a) ⟨0, 0, 0, 0, 0⟩

/-- The quad of a core, by its lower-left core (R11). -/
def quadOf (core : Nat) : Nat := core % 48 / 2 * 2 + 48 * (core / 48 / 2 * 2)

/-- R154, R485, R490: the core has room beside what stands on it, some crews left out; a quad whose crews have been asked to
save for want of power places none, and nor does a device in minimal mode.  How much park area a core has is nowhere
given: it is never short (DESIGN CHOICE; assumption 66). -/
def fitsCore (d : Dev) (core : Nat) (need : Needs) (without : List Nat) : Bool :=
  let used := ((crewsOn d core).filter (fun c => !without.contains c.uid)).foldl (fun a c => a.add (crewNeeds c))
    (heirNeeds d core)
  let t := used.add need
  t.slots ≤ 16 && t.vregs ≤ 1024 && t.scr ≤ 786432 && t.tile ≤ 262144 && t.thunks ≤ 1024 &&
  !d.plat.power.gated.contains (quadOf core) && !d.plat.power.asked.contains (quadOf core) &&
  !d.plat.startup.minimal

/-- What a waiting crew needs beside an allocation it has inherited. -/
def waitingNeeds (d : Dev) (w : Waiting) : Needs :=
  match findJob d w.job with
  | none => ⟨0, 0, 0, 0, 0⟩
  | some j =>
    let n := cardNeeds j.card
    if w.scratch.isSome then { n with scr := 0, tile := 0 } else n

/-! ### Who waits for a core (R154, R193) -/

/-- A crew that waits for a core: a new one or a successor, or a saved one. -/
inductive Cand where
  | waiting (w : Waiting)
  | saved (c : Crew)

/-- Its place in R154's order: class, priority, then job acceptance and index.  The manual gives no order among successors,
nor among resumed crews of one priority: the former stand as new crews do, the latter by when they were placed
(DESIGN CHOICE; assumption 65). -/
def candKey (d : Dev) : Cand → Nat × Nat × Nat × Nat
  | .waiting w =>
    let j := d.jobs.findIdx (fun x => x.id == w.job)
    let p := match findJob d w.job with
      | some x => x.prio
      | none => 0
    (match w.kind with
      | .successor => 0
      | .fresh => 2, 7 - p, j, w.index)
  | .saved c => (1, 7 - c.prio, c.placedAt, 0)

/-- The priority of a waiting crew. -/
def candPrio (d : Dev) (c : Cand) : Nat := 7 - (candKey d c).2.1

/-- The order of R154. -/
def keyLess (a b : Nat × Nat × Nat × Nat) : Bool :=
  if a.1 != b.1 then decide (a.1 < b.1)
  else if a.2.1 != b.2.1 then decide (a.2.1 < b.2.1)
  else if a.2.2.1 != b.2.2.1 then decide (a.2.2.1 < b.2.2.1)
  else decide (a.2.2.2 < b.2.2.2)

/-- R38, R172, R193: a saved crew's pages are present: no operation of it waits for a missing page. -/
def pagesPresent (d : Dev) (c : Crew) : Bool :=
  !d.missing.any (fun m => m.links.any (fun k => match k with
    | .op u _ => u == c.uid
    | .frag _ => false
    | .queue _ => false
    | .launch _ => false
    | .done _ => false
    | .page _ _ _ => false
    | .none => false))

/-- The span position of a crew index (R24). -/
def crewPos (c : Card) (i : Nat) : Nat × Nat := (c.x0 + i % c.w, c.y0 + i / c.w)

/-- The core at a waiting crew's span position. -/
def waitingPos (d : Dev) (w : Waiting) : Nat :=
  match findJob d w.job with
  | some j =>
    let p := crewPos j.card w.index
    p.1 + 48 * p.2
  | none => w.core

/-- R165: a successor crew may be placed: the crew whose place it takes has retired (assumption 15). -/
def predGone (d : Dev) (w : Waiting) : Bool :=
  match w.pred with
  | none => true
  | some id => !d.crews.any (fun c => c.job == id && c.cx + 48 * c.cy == waitingPos d w) &&
      !d.waiting.any (fun x => x.job == id && waitingPos d x == waitingPos d w)

/-- The crews that are ready to be placed on a core, in no order. -/
def candsOn (d : Dev) (core : Nat) : List Cand :=
  ((d.waiting.filter (fun w => w.core == core && predGone d w)).map Cand.waiting) ++
  ((d.crews.filter (fun c => c.state == .saved && c.core == core && pagesPresent d c)).map Cand.saved)

/-- What a waiting crew needs of its core. -/
def candNeeds (d : Dev) : Cand → Needs
  | .waiting w => waitingNeeds d w
  | .saved c => crewNeeds c

/-- It holds back later crews (R154). -/
def candHold : Cand → Bool
  | .waiting w => w.hold
  | .saved c => c.hold

/-- R154: a crew that holds back later ones stands before this one on its core, with an equal or higher priority. -/
def heldBack (d : Dev) (core : Nat) (me : Cand) : Bool :=
  (candsOn d core).any (fun c => keyLess (candKey d c) (candKey d me) && candHold c &&
    decide (candPrio d me ≤ candPrio d c))

/-- R154: the crew fits its core and is not held back. -/
def couldPlace (d : Dev) (core : Nat) (me : Cand) : Bool := fitsCore d core (candNeeds d me) [] && !heldBack d core me

/-- R154: the crew could be placed on its core, and none before it in order could. -/
def mayPlace (d : Dev) (core : Nat) (me : Cand) : Bool :=
  couldPlace d core me &&
  !(candsOn d core).any (fun c => keyLess (candKey d c) (candKey d me) && couldPlace d core c)

/-- R154: the crew stands first on its core. -/
def standsFirst (d : Dev) (core : Nat) (me : Cand) : Bool :=
  !(candsOn d core).any (fun c => keyLess (candKey d c) (candKey d me))

/-- The clocks since which crews stand first, brought up to date; one that holds back others does so until it is placed
(R154). -/
def markFirst (d : Dev) (clk : Nat) : Dev :=
  { d with
    waiting := d.waiting.map (fun w =>
      if predGone d w && standsFirst d w.core (.waiting w) then
        { w with since := w.since.orElse (fun _ => some clk) }
      else { w with since := none })
    crews := d.crews.map (fun c =>
      if c.state == .saved && pagesPresent d c && standsFirst d c.core (.saved c) then
        { c with since := c.since.orElse (fun _ => some clk) }
      else { c with since := none, hold := c.hold && c.state == .saved }) }

/-! ### Pre-emption requests (R167, R168) -/

/-- R167, R168, R173: a request to a crew that runs; PREQ starts at its deadline.  A second request to a crew that is
already Requested changes nothing: it ends with the first one (DESIGN CHOICE; assumption 80). -/
def requestCrew (clk : Nat) (who : Option Nat) (c : Crew) : Crew :=
  if c.state == .running then { c with state := .requested, preq := some (clk + c.deadline), preqFor := who } else c

/-- The wave's fragments that yielded by JOB.YIELD go on at the next clause (R169). -/
def wakeYielded (clk : Nat) (w : Wave) : Wave :=
  { w with frags := w.frags.map (fun f => if f.status == .yieldedJob then gotoClause f (nextClause f) clk else f) }

/-- R168: the request withdrawn; the crew runs on. -/
def withdrawCrew (clk : Nat) (c : Crew) : Crew :=
  if c.state == .requested then
    { c with state := .running, preq := none, preqFor := none, forced := false, waves := c.waves.map (wakeYielded clk) }
  else c

/-- The requests raised for a waiting crew withdrawn. -/
def withdrawFor (d : Dev) (clk uid : Nat) : Dev :=
  { d with crews := d.crews.map (fun c => if c.preqFor == some uid then withdrawCrew clk c else c) }

/-- The ways to take k of a list's members, the earlier ones first. -/
def takeWays {α : Type} : Nat → List α → List (List α)
  | 0, _ => [[]]
  | _ + 1, [] => []
  | k + 1, x :: xs => (takeWays k xs).map (x :: ·) ++ takeWays (k + 1) xs

/-- A crew put at its place: lowest priority first, then most recently placed. -/
def victimInsert (c : Crew) : List Crew → List Crew
  | [] => [c]
  | x :: rest =>
    if c.prio < x.prio || (c.prio == x.prio && decide (x.placedAt < c.placedAt)) then c :: x :: rest
    else x :: victimInsert c rest

/-- R167: the crews to pre-empt for one of priority p: the fewest that make room, lowest priority and most recently
placed first. -/
def victims (d : Dev) (core p : Nat) (need : Needs) : List Nat :=
  let cands := ((crewsOn d core).filter (fun c => decide (c.prio < p))).foldl (fun l c => victimInsert c l) []
  match (List.range (cands.length + 1)).findSome? (fun k =>
      (takeWays k cands).find? (fun l => fitsCore d core need (l.map Crew.uid))) with
  | some l => l.map Crew.uid
  | none => []

/-! ### Retirement -/

/-- R411: the tile-store bytes a successor inherits: those that were the engine area are unspecified. -/
def inheritTile (d : Dev) (c : Crew) (tile n : Nat) : Tab Byte :=
  let top := min tile c.tileSize
  c.tile.filter (fun e => e.1 < min tile c.tiles.mark) ++
  ((List.range (top - c.tiles.mark)).map (fun i =>
    (c.tiles.mark + i, (unspecWord d c default n (600000 + c.tiles.mark + i)).setWidth 8))).filter (fun e => e.2 != 0#8)

/-- R165: the allocation a retiring crew leaves to its successor: the first bytes the successor's card asks for, the
bytes of the engine area from TMARK on being unspecified (R411; assumption 14). -/
def legacy (d : Dev) (c : Crew) (scr tile n : Nat) : Tab Byte × Tab Bool × Tab Byte :=
  (c.scratch.filter (fun e => e.1 < scr), c.full.filter (fun e => e.1 < scr / 128),
   inheritTile d c tile n)

/-- Links of a crew's operations and fragments. -/
def linkOfCrew (uid : Nat) (k : Link) : Bool :=
  match k with
  | .op u _ => u == uid
  | .frag f => f.crew == uid
  | .launch f => f.crew == uid
  | .queue _ => false
  | .done _ => false
  | .page _ _ _ => false
  | .none => false

/-- The crew is gone from the device, with what waits for it. -/
def dropCrew (d : Dev) (uid : Nat) : Dev :=
  dropLink { d with
    crews := d.crews.filter (fun c => c.uid != uid)
    slotInvals := d.slotInvals.filterMap (fun v =>
      if v.crew != some uid then some v
      else if d.crews.any (fun c => c.uid == uid && c.state == .saved) then none else some { v with crew := none })
    launches := d.launches.filter (fun l => l.who.crew != uid) } (linkOfCrew uid)

/-- R40: a job all of whose crews have been placed once drains. -/
def noteDraining (j : Job) : Job :=
  if j.state == .running && (List.range (spanCrews j.card)).all (fun i => j.placed.contains i) then
    { j with state := .draining }
  else j

/-- R163, R165: a crew whose last wave has retired leaves; its successor inherits its allocations. -/
def retireCrew (d : Dev) (n : Nat) (c : Crew) : Dev :=
  let d1 := dropCrew d c.uid
  match c.succ with
  | none => d1
  | some (_, id) => match findJob d1 id with
    | none => d1
    | some j =>
      { d1 with waiting := d1.waiting.map (fun w =>
          if w.job == id && w.kind == .successor && waitingPos d1 w == c.cx + 48 * c.cy then
            { w with core := c.core, scratch := some (legacy d1 c (roundUpTo 2048 j.card.scratch) (roundUpTo 1024 j.card.tiles) n) }
          else w) }

/-! ### Containment (R42, R174) -/

/-- R108, R174: the counters a relaunched crew keeps, one more roll-back counted; a counter stops at its top. -/
def relaunchCounters (t : Tab Nat) : Tab Nat := tabSet 0 t 4 (min 0xFFFFFFFF (tabGet 0 t 4 + 1))

/-- A chunk put among the returned ones, by rising first index (R159). -/
def insertChunk (c : Chunk) : List Chunk → List Chunk
  | [] => [c]
  | x :: rest => if c.first < x.first then c :: x :: rest else x :: insertChunk c rest

/-- R42, R174: the crew is contained with a cause: it is relaunched where its job allows it, and otherwise ends the
job. -/
def containCrew (d : Dev) (clk : Nat) (c : Crew) (cause : Nat) : Dev :=
  let d1 := dropCrew d c.uid
  match findJob d1 c.job with
  | none => d1
  | some j =>
    if j.failedBy.isNone && j.card.idem && decide (j.used < j.card.retries) then
      let d2 := updJob d1 c.job (fun j => { j with
        used := j.used + 1, returned := c.taken.foldl (fun l k => insertChunk k l) j.returned })
      { d2 with
        nextUid := d2.nextUid + 1
        waiting := d2.waiting ++ [{ uid := d2.nextUid, job := c.job, index := c.index, core := c.core,
                                    kind := .fresh, pred := none, scratch := none, mx := relaunchCounters c.mx,
                                    trigged := j.trig.contains c.index, since := none, hold := false }] }
    else
      let gone := (d1.waiting.filter (fun w => w.job == c.job)).map Waiting.uid
      let d2 := gone.foldl (fun d u => withdrawFor d clk u) d1
      updJob { d2 with waiting := d2.waiting.filter (fun w => w.job != c.job) } c.job (fun j => { j with
        failedBy := j.failedBy.orElse (fun _ => some (c.index, cause))
        state := if j.state == .running then .draining else j.state })

end Sys2Proof.Machine
end

