-- ==== Sys2Proof/Machine/Chain.lean ====
section
/-! DEFINITION. The chain engine: its state and order, the CH instructions, and the steps of a chain (R413 to R434). -/

namespace Sys2Proof.Machine

/-! ### Chain state and its order (R413, R414, R422) -/

/-- bd register r (R413). -/
def bdOf (h : ChainState) (r : Nat) : Nat := tabGet 1 h.bd r
/-- md register r (R413). -/
def mdOf (h : ChainState) (r : Nat) : Nat := tabGet 1 h.md r

/-- The bytes of a boundary element (R414). -/
def bfSize (bf : Nat) : Nat := if bf == 0 then 4 else 2

/-- The product of sizes. -/
def prodOf (l : List Nat) : Nat := l.foldl (· * ·) 1

/-- R414: the bytes of a boundary. -/
def boundaryBytes (h : ChainState) (modes : List Nat) (breg bf : Nat) : Nat :=
  prodOf (modes.map (mdOf h)) * bdOf h breg * bfSize bf

/-- A CH instruction takes effect in the chain state (R423, R424). -/
def applyItem (h : ChainState) (i : ChainItem) : ChainState :=
  match i with
  | .bind desc bbase bsz breg bf modes bytes =>
    { h with bound := true, desc := desc, bbase := bbase, bsz := bsz, modes := modes, breg := breg, bf := bf,
             cur := 0, snap := 0, bytes := bytes }
  | .bond r x => { h with bd := tabSet 1 h.bd r x }
  | .mode r x => { h with md := tabSet 1 h.md r x }
  | .reset => ChainState.reset
  | .op _ => h

/-- R422: the instructions at the head of the queue whose turn has come take effect. -/
def drainItems : List ChainItem → ChainState → ChainState × List ChainItem
  | [], h => (h, [])
  | .op n :: rest, h => (h, .op n :: rest)
  | i :: rest, h => drainItems rest (applyItem h i)

/-- The crew after its queue moved on. -/
def drainChain (c : Crew) : Crew :=
  let r := drainItems c.chainQ c.chain
  { c with chain := r.1, chainQ := r.2 }

/-- R422: the state as every CH instruction issued so far will leave it, in what checks at issue look at. -/
def chainLast (c : Crew) : ChainState := c.chainQ.foldl applyItem c.chain

/-- R422: an instruction of the crew in focus takes its place in the order. -/
def queueItem (s : State) (i : ChainItem) : State :=
  { s with crew := drainChain { s.crew with chainQ := s.crew.chainQ ++ [i] } }

/-! ### BIND, BOND, MODE, RESET, QUERY -/

/-- Bytes 0 to 7 of a mode list (R423). -/
def listBytes (x : Nat) : List Nat := (List.range 8).map (fun i => bitsOf x (8 * i + 7) (8 * i))

/-- R423: the modes a list names; none when it is malformed. -/
def readModes (x : Nat) : Option (List Nat) :=
  let bs := listBytes x
  let valid := bs.takeWhile (fun b => b.testBit 7)
  let modes := valid.map (fun b => b % 32)
  if bs.any (fun b => bitsOf b 6 5 != 0) || (bs.drop valid.length).any (fun b => b.testBit 7) || !modes.Nodup then none
  else some modes

/-- CH.BIND (R423). -/
def execChBind (a b : BitVec 8) (s : State) : Out :=
  checked (.chBind a b) .matrix s (fun s =>
    let p := a.toNat - 0x80
    let desc := readS64 s p
    let w2 := (readS s (p + 2)).toNat
    let w3 := (readS s (p + 3)).toNat
    let bbase := bitsOf w2 19 0
    let bsz := bitsOf w3 19 0
    let bf := bitsOf w3 21 20
    match readModes (readS64 s (b.toNat - 0x80)).toNat with
    | none => takeTrap s 0x08 false
    | some modes =>
      let bytes := boundaryBytes (chainLast s.crew) modes (bitsOf w2 28 24) bf
      if bbase % 128 != 0 || bitsOf w2 23 20 != 0 || bitsOf w2 31 29 != 0 || bsz % 128 != 0 || bsz < 128 ||
          524288 < bsz || 2 < bf || bitsOf w3 31 22 != 0 then takeTrap s 0x08 false
      else if bsz < bytes then takeTrap s 0x08 false
      else if desc.toNat % 64 != 0 then takeTrap s 0x07 false
      else if !canonical desc then takeTrap s 0x05 false
      else if s.crew.scratchSize < bbase + bsz then takeTrap s 0x06 false
      else advance (queueItem s (.bind desc bbase bsz (bitsOf w2 28 24) bf modes bytes)))

/-- CH.BOND (R424). -/
def execChBond (a b : BitVec 8) (s : State) : Out :=
  checked (.chBond a b) .matrix s (fun s =>
    let x := (readSrc s a 0).toNat
    if x == 0 || 256 < x then takeTrap s 0x08 false else advance (queueItem s (.bond b.toNat x)))

/-- CH.MODE (R424). -/
def execChMode (a b : BitVec 8) (s : State) : Out :=
  checked (.chMode a b) .matrix s (fun s =>
    let x := (readSrc s a 0).toNat
    if x == 0 || 64 < x then takeTrap s 0x08 false else advance (queueItem s (.mode b.toNat x)))

/-- CH.RESET (R424). -/
def execChReset (s : State) : Out :=
  checked .chReset .matrix s (fun s => advance (queueItem s .reset))

/-- A mode list coded as in R423. -/
def modeList (modes : List Nat) : Nat :=
  (modes.mapIdx (fun i m => (m + 128) * 256 ^ i)).foldl (· + ·) 0

/-- CH.QUERY (R427). -/
def execChQuery (a : BitVec 8) (s : State) : Out :=
  checked (.chQuery a) .matrix s (fun s =>
    let h := s.crew.chain
    let r := a.toNat - 0x80
    let busy := s.crew.ops.any (fun o => (chainOf o).isSome)
    let w0 := h.cur + (if busy then 2 ^ 20 else 0) + (if h.bound then 2 ^ 21 else 0) + h.bf * 2 ^ 22 + h.breg * 2 ^ 24
    let w1 := h.bytes + h.modes.length * 2 ^ 20
    let l := modeList h.modes
    advance (writeS (writeS (writeS (writeS s r (BitVec.ofNat 32 w0)) (r + 1) (BitVec.ofNat 32 w1))
      (r + 2) (BitVec.ofNat 32 l)) (r + 3) (BitVec.ofNat 32 (l / 2 ^ 32))))

/-! ### STEP, RUN, ENV at issue (R421, R424) -/

/-- CHAINBUF of the card of a crew's job (R148). -/
def chainBuf (d : Dev) (job : DWord) : Nat := match findJob d job with
  | some j => j.card.chainbuf.toNat
  | none => 0

/-- A CHAINBUF that takes snapshots (R419, R424). -/
def chainBufOk (b : Nat) : Bool := b != 0 && b % 64 == 0

/-- A chain operation issues: it counts on its flag and takes its place in the order. -/
def issueChain (s : State) (g : Nat) (h : ChainOp) : State :=
  let o := { newOp s (some g) s.frag.lanes (.chain h) with lanes := s.frag.lanes }
  let s1 := issueOp s o
  { s1 with crew := { s1.crew with chainQ := s1.crew.chainQ ++ [.op o.id] } }

/-- R417: reserved bits of a step word set, or CORE 31. -/
def stepWordBad (w : Nat) : Bool := w / 2 ^ 28 != 0 || w % 32 == 31

/-- CH.STEP (R424). -/
def execChStep (a : BitVec 8) (s : State) : Out :=
  longLatency (.chStep a) .matrix s (fun s g =>
    let w := readS64 s (a.toNat - 0x80)
    if !(chainLast s.crew).bound || stepWordBad w.toNat then takeTrap s 0x08 false
    else issueChain s g (.start 3 w 0#32 1 w true))

/-- CH.RUN (R424). -/
def execChRun (a b : BitVec 8) (s : State) : Out :=
  longLatency (.chRun a b) .matrix s (fun s g =>
    let addr := readS64 s (a.toNat - 0x80)
    let n := readSrc s b 0
    if !(chainLast s.crew).bound || n == 0#32 || 64 < n.toNat then takeTrap s 0x08 false
    else if addr.toNat % 8 != 0 then takeTrap s 0x07 false
    else if !rangeCanonical addr.toNat (8 * n.toNat) then takeTrap s 0x05 false
    else issueChain s g (.start 4 addr n n.toNat 0#64 false))

/-- CH.ENV (R424, R425). -/
def execChEnv (a : BitVec 8) (s : State) : Out :=
  longLatency (.chEnv a) .matrix s (fun s g =>
    let x := readSrc s a 0
    if !(chainLast s.crew).bound || !chainBufOk (chainBuf s.dev s.crew.job) then takeTrap s 0x08 false
    else issueChain s g (.start 5 (x.setWidth 64) 0#32 0 0#64 false))

/-! ### Snapshots (R425) -/

/-- The header of a snapshot (R425). -/
def snapHeader (h : ChainState) (tag : Nat) : List Byte :=
  bytesLE 4 tag ++ bytesLE 4 h.bytes ++ bytesLE 1 h.bf ++ bytesLE 1 h.breg ++ bytesLE 2 (bdOf h h.breg) ++
  bytesLE 1 h.modes.length ++ zeroBytes 3 ++ bytesLE 8 (modeList h.modes) ++
  fitBytes 8 ((h.modes.map (mdOf h)).map (BitVec.ofNat 8))

/-- The touch of a snapshot. -/
def snapTouch (h : ChainState) (buf : Nat) : Touch := ⟨buf + h.snap, 32 + h.bytes, true⟩

/-- The bytes of a snapshot (R425). -/
def snapBytes (c : Crew) (tag : Nat) : List Byte :=
  snapHeader c.chain tag ++ scratchBytes c (c.chain.bbase + c.chain.cur) c.chain.bytes

/-- R425: SNAP moved on behind a snapshot. -/
def passSnap (c : Crew) : Crew :=
  { c with chain := { c.chain with snap := c.chain.snap + roundUpTo 64 (32 + c.chain.bytes) } }

/-- R121, R425: some of the words of a snapshot that are left written, at least one; with the last of them `k` goes on. -/
def writeSnap (s : State) (c : Crew) (o : Op) (h : ChainOp) (r : Io) (buf tag : Nat) (k : Io → Crew → ChainOp → State) :
    State :=
  let left := wordsRemaining h.part (wordsOf (buf + c.chain.snap) (snapBytes c tag))
  let now := someOf s.nfree (2 ^ 70) left
  let r1 := now.foldl (fun r p => r.write p.1.1 p.1.2) r
  if now.length < left.length then
    putCrew s r1.dev (setOp c { o with body := .chain { h with part := h.part ++ now.map Prod.snd } })
  else k r1 (passSnap c) { h with part := [] }

/-! ### A step (R415 to R420) -/

/-- The fields of a step word (R417). -/
structure StepWord where
  core : Nat
  bc   : Nat
  bo   : Nat
  mt   : Nat
  ma   : Nat
  e    : Bool
  t0   : Bool
  a0   : Bool
  rsv  : Bool

/-- R417. -/
def StepWord.ofNat (w : Nat) : StepWord :=
  ⟨bitsOf w 4 0, bitsOf w 9 5, bitsOf w 14 10, bitsOf w 19 15, bitsOf w 24 20, w.testBit 25, w.testBit 26, w.testBit 27,
   w / 2 ^ 28 != 0⟩

/-- A core's entry in the descriptor (R416). -/
structure CoreEntry where
  addr   : Nat
  ef     : Nat
  scale  : Nat
  space  : Bool
  wb     : Bool
  baroff : Nat
  barph  : Nat
  cbytes : Nat
  rsv    : Bool     -- a byte or bit that must be zero is not

/-- R416: an entry's 32 bytes; in scratchpad the address is its low word. -/
def CoreEntry.ofBytes (b : List Byte) : CoreEntry :=
  let f := fun o n => natLE ((b.drop o).take n)
  let fl := f 10 1
  { addr := if fl.testBit 0 then f 0 4 else f 0 8, ef := f 8 1, scale := f 9 1, space := fl.testBit 0, wb := fl.testBit 1,
    baroff := f 12 4, barph := f 16 1, cbytes := f 20 4,
    rsv := fl / 4 != 0 || f 11 1 != 0 || f 17 3 != 0 || f 24 8 != 0 }

/-- The format of a core's elements and their bytes (R415, R416). -/
def coreFormat (ef : Nat) : Format := match ef with
  | 0 => .f16
  | 1 => .bf16
  | 2 => .e4m3
  | _ => .e5m2

/-- R415. -/
def coreSize (ef : Nat) : Nat := if ef ≤ 1 then 2 else 1

/-- The format of a boundary (R413). -/
def bfFormat (bf : Nat) : Format := match bf with
  | 1 => .f16
  | 2 => .bf16
  | _ => .f32

/-- The sizes of a step (R418). -/
structure StepDims where
  a : Nat
  b : Nat
  j : Nat
  i : Nat
  modes : List Nat      -- L'
  bytes : Nat           -- new

/-- R418. -/
def stepDims (h : ChainState) (fmt : Word) (w : StepWord) : StepDims :=
  let modes := (if w.t0 then h.modes else h.modes.filter (fun m => m != w.mt)) ++ (if w.a0 then [] else [w.ma])
  let b := bdOf h w.bo
  { a := bdOf h w.bc, b := b, j := if w.t0 then 1 else mdOf h w.mt, i := if w.a0 then 1 else mdOf h w.ma
    modes := modes, bytes := prodOf (modes.map (mdOf h)) * b * bfSize (fmtACC fmt) }

/-- R419: the first check that fails, its cause and an address for the record. -/
def stepCheck (c : Crew) (h : ChainState) (fmt : Word) (buf ncore : Nat) (hdrBad : Bool) (w : StepWord) (e : CoreEntry) :
    Option (Nat × Nat) :=
  let d := stepDims h fmt w
  let rest := if w.t0 then h.modes else h.modes.filter (fun m => m != w.mt)
  if w.rsv || (w.t0 && w.mt != 0) || (w.a0 && w.ma != 0) || ncore ≤ w.core || ncore == 0 || 31 < ncore || hdrBad || e.rsv ||
      3 < e.ef then some (0x08, 0)
  else if w.bc != h.breg || (!w.t0 && !h.modes.contains w.mt) || (!w.a0 && rest.contains w.ma) || 8 < d.modes.length ||
      e.cbytes != d.a * d.j * d.i * d.b * coreSize e.ef then some (0x08, 0)
  else if w.e && !chainBufOk buf then some (0x08, 0)
  else if e.addr % 4 != 0 || (e.wb && e.baroff % 16 != 0) then some (0x07, if e.space then 0 else e.addr)
  else if !e.space && !rangeCanonical e.addr e.cbytes then some (0x05, e.addr)
  else if (e.space && c.scratchSize < e.addr + e.cbytes) || (e.wb && c.scratchSize < e.baroff + 16) then some (0x06, 0)
  else none

/-- Where the new boundary goes (R418), or none when it overflows. -/
def stepPlace (h : ChainState) (new : Nat) : Option Nat :=
  if new ≤ h.cur then some 0
  else if h.cur + roundUpTo 128 h.bytes + new ≤ h.bsz then some (h.cur + roundUpTo 128 h.bytes)
  else none

/-- The indices of a row-major place in sizes, outermost first (R414). -/
def indicesOf : List Nat → Nat → List Nat
  | [], _ => []
  | z :: zs, x => x / prodOf zs % z :: indicesOf zs x

/-- The row-major place of indices (R414). -/
def placeOf : List Nat → List Nat → Nat
  | [], _ => 0
  | _, [] => 0
  | _ :: zs, t :: ts => t * prodOf zs + placeOf zs ts

/-- Element k of bytes, each of z bytes. -/
def byteElem (b : List Byte) (z k : Nat) : Nat := natLE ((b.drop (z * k)).take z)

/-- R418: the new element of mode indices r (place x of L') and bond b: its pattern and its events; `old` gives the pattern
at a place of the old boundary. -/
def stepElem (h : ChainState) (fmt : Word) (w : StepWord) (d : StepDims) (e : CoreEntry) (old : Nat → Nat) (core : List Byte)
    (x b : Nat) : Nat × ElemEvents :=
  let ts := d.modes.zip (indicesOf (d.modes.map (mdOf h)) x)
  let i := if w.a0 then 0 else (ts.getLast?.map Prod.snd).getD 0
  let at? := fun m => ((ts.find? (fun p => p.1 == m)).map Prod.snd).getD 0
  let sizes := h.modes.map (mdOf h)
  let pairs := (List.range (d.a * d.j)).map (fun k =>
    let a := k / d.j
    let j := k % d.j
    let place := placeOf sizes (h.modes.map (fun m => if !w.t0 && m == w.mt then j else at? m)) * d.a + a
    let xv := (readFloat (bfFormat h.bf) (h.bf != 0 || fmtDAZ fmt) (old place)).1
    let gp := (a * (d.j * d.i) + (j * d.i + i)) * d.b + b
    let gv := scaleE8 e.scale (readFloat (coreFormat e.ef) true (byteElem core (coreSize e.ef) gp)).1
    (xv, gv))
  let f := accFormat fmt
  let env := engineEnv (fmtRM fmt) (fmtSAT fmt) true
  let r := mmaElement f env (extZero false) pairs
  ((roundTo f env 0 r.1).1, elemEvents r.2 r.1 (pairs.any (fun p => extIsNaN p.1 || extIsNaN p.2)))

/-- R418: the new boundary whole. -/
def stepResult (h : ChainState) (fmt : Word) (w : StepWord) (d : StepDims) (e : CoreEntry) (old : Nat → Nat)
    (core : List Byte) :
    List (Nat × ElemEvents) :=
  (List.range (prodOf (d.modes.map (mdOf h)))).flatMap (fun x =>
    (List.range d.b).map (fun b => stepElem h fmt w d e old core x b))

/-- The chain operation of crew c that stops at a step, which is to be done again (R432). -/
def chainStop (s : State) (c : Crew) (o : Op) (h : ChainOp) (r : Io) : State :=
  ioStop s c { o with body := .chain { h.restart with miss := r.missed } } r

/-- A late cause of a chain operation. -/
def chainLate (s : State) (c : Crew) (o : Op) (h : ChainOp) (d : Dev) (cause va : Nat) : State :=
  chainStop s c o h { Io.start d s.nfree o.memMark with trap := some (cause, va) }

/-- The operation as what it reads from now on is read no earlier than now (R418, R420, R429). -/
def readsFromNow (d : Dev) (c : Crew) (o : Op) : Op := { o with memMark := d.histSeq + 1, scMark := c.shistSeq }

/-- R121, R418: some of the words of the new boundary that are left written, at least one; with the last of them the step
is done: the chain state changes, its events are counted, and the next step reads no earlier than now. -/
def stepWrite (s : State) (c : Crew) (o : Op) (h : ChainOp) (d : Dev) (w : StepWord) (dst : Nat) (out : List Byte × List Nat) :
    State :=
  let st := c.chain
  let left := wordsRemaining h.part (wordsOf (st.bbase + dst) out.1)
  let now := someOf s.nfree (2 ^ 71) left
  let c1 := now.foldl (fun c p => putScratch c p.1.1 p.1.2) c
  if now.length < left.length then
    putCrew s d (setOp c1 { o with body := .chain { h with out := some out, part := h.part ++ now.map Prod.snd } })
  else
    let dims := stepDims st o.fmt w
    let c2 := { c1 with
      chain := { st with modes := dims.modes, breg := w.bo, bf := fmtACC o.fmt, cur := dst, bytes := dims.bytes }
      mx := addTotals c1.mx out.2 }
    putCrew s d (setOp c2 { readsFromNow d c2 o with watched := [], body := .chain h.next })

/-- R418: the computing part of a step, its barrier passed and its snapshot, if any, written. -/
def stepCompute (s : State) (c : Crew) (o : Op) (h : ChainOp) (d : Dev) (w : StepWord) (e : CoreEntry) (dst : Nat) : State :=
  let st := c.chain
  let ts : List Touch := if e.space then [] else [⟨e.addr, e.cbytes, false⟩]
  let r := ioOpen d (opAsker c o) c.ctx s.nfree o.memMark (unitSkips o ts) ts
  if !r.good then chainStop s c o h r
  else
    let core := if e.space then scratchRead c o s.nfree e.addr e.cbytes else r.read e.addr e.cbytes
    let z := bfSize st.bf
    let old := fun k => natLE (scratchRead c o s.nfree (st.bbase + st.cur + z * k) z)
    let res := stepResult st o.fmt w (stepDims st o.fmt w) e old core
    stepWrite s c o { h with part := [] } r.dev w dst
      ((res.map (fun p => bytesLE (bfSize (fmtACC o.fmt)) p.1)).flatten, eventTotals (res.map Prod.snd))

/-- R418: the snapshot of a step, once, before it computes. -/
def stepSnapshot (s : State) (c : Crew) (o : Op) (h : ChainOp) (d : Dev) (w : StepWord) (e : CoreEntry) (dst : Nat) : State :=
  if !w.e || h.phase == 2 then stepCompute s c o h d w e dst
  else
    let buf := chainBuf d c.job
    let ts := [snapTouch c.chain buf]
    let r := ioOpen d (opAsker c o) c.ctx s.nfree o.memMark (unitSkips o ts) ts
    if !r.good then chainStop s c o h r
    else writeSnap s c o h r buf (h.word.toNat % 2 ^ 32) (fun r c h => stepCompute s c o { h with phase := 2 } r.dev w e dst)

/-- R418: the overflow test, passed once, and what follows it. -/
def stepPlaced (s : State) (c : Crew) (o : Op) (h : ChainOp) (d : Dev) (w : StepWord) (e : CoreEntry) : State :=
  let new := (stepDims c.chain o.fmt w).bytes
  match if h.dst.isSome then h.dst else stepPlace c.chain new with
  | none => chainLate s c o { h with need := c.chain.cur + roundUpTo 128 c.chain.bytes + new } d 0x0D 0
  | some dst => stepSnapshot s c o { h with dst := some dst } d w e dst

/-- R420, R432: the step waits on its core's barrier, in PHASE 0; what it reads behind it is read no earlier than the
pass. -/
def stepBarrier (s : State) (c : Crew) (o : Op) (h : ChainOp) (d : Dev) (w : StepWord) (e : CoreEntry) : State :=
  if h.phase != 0 then stepPlaced s c o h d w e
  else if !e.wb then stepPlaced s c o { h with phase := 1 } d w e
  else
    let b := barAt c e.baroff
    let keep := fun (o : Op) (h : ChainOp) => putCrew s d (setOp c { o with body := .chain h })
    if !b.valid then keep o h
    else if b.tooFar e.barph then chainLate s c o h d 0x08 0
    else if b.done e.barph then keep (readsFromNow d c o) { h with phase := 1 }
    else keep o h

/-- R418, R419: one step of a chain operation with its step word `h.word`: its core's entry is read and checked once. -/
def stepWith (s : State) (c : Crew) (o : Op) (h : ChainOp) (d : Dev) : State :=
  let st := c.chain
  let w := StepWord.ofNat h.word.toNat
  if !h.entry.isEmpty then
    let e := CoreEntry.ofBytes h.entry
    match h.out, h.dst with
    | some out, some dst => stepWrite s c o h d w dst out
    | some _, none => stepBarrier s c o h d w e
    | none, _ => stepBarrier s c o h d w e
  else
    let ts : List Touch := [⟨st.desc.toNat, 32, false⟩, ⟨st.desc.toNat + 32 + 32 * w.core, 32, false⟩]
    let r := ioOpen d (opAsker c o) c.ctx s.nfree o.memMark (unitSkips o ts) ts
    if !r.good then chainStop s c o h r
    else
      let hd := r.read st.desc.toNat 32
      let eb := r.read (st.desc.toNat + 32 + 32 * w.core) 32
      let e := CoreEntry.ofBytes eb
      match stepCheck c st o.fmt (chainBuf r.dev c.job) (natLE (hd.take 1)) ((hd.drop 1).any (fun b => b != 0#8)) w e with
      | some (cause, va) => chainLate s c o h r.dev cause va
      | none => stepBarrier s c o { h with entry := eb } r.dev w e

/-- R424, R432: the step word of a RUN's next step is read as the step is reached, and kept where the step stops. -/
def stepRun (s : State) (c : Crew) (o : Op) (h : ChainOp) : State :=
  if h.got then stepWith s c o h s.dev
  else
    let a := h.x.toNat + 8 * h.sdone
    let ts : List Touch := [⟨a, 8, false⟩]
    let r := ioOpen s.dev (opAsker c o) c.ctx s.nfree o.memMark (unitSkips o ts) ts
    if !r.good then chainStop s c o h r
    else stepWith s c o { h with word := BitVec.ofNat 64 (r.nat a 8), got := true } r.dev

/-- The operation whose turn it is in a crew's chain (R422). -/
def chainHead (c : Crew) : Option Nat :=
  match c.chainQ with
  | .op n :: _ => some n
  | _ => none

/-- CHAIN_STEP: the crew's chain takes one step (R418). -/
def execChainStep (c : Nat) (s : State) : Out :=
  event s (fun s => match (findCrew s.dev c).bind chainHead with
    | none => s
    | some id => stepping s c id (fun x o => match chainOf o with
      | none => s
      | some h => if h.sdone < h.steps then stepRun s x o h else s))

/-- R426, R429: the operation is complete, and those behind it take their turn, reading no earlier than now. -/
def finishChain (s : State) (c : Crew) (o : Op) (d : Dev) : State :=
  let c1 := completeOp d c o s.nfree [] []
  let c2 := drainChain { c1 with chainQ := c1.chainQ.filter (fun i => i != .op o.id) }
  putCrew s d { c2 with ops := c2.ops.map (fun p => if chainHead c2 == some p.id then readsFromNow d c2 p else p) }

/-- CHAIN_COMPLETE: the last boundary, or the snapshot of an ENV, is written (R425, R426). -/
def execChainComplete (c o : Nat) (s : State) : Out :=
  event s (fun s => stepping s c o (fun x o => match chainOf o with
    | none => s
    | some h =>
      if chainHead x != some o.id || h.sdone < h.steps then s
      else if h.sub == 5 then
        let buf := chainBuf s.dev x.job
        let ts := [snapTouch x.chain buf]
        let r := ioOpen s.dev (opAsker x o) x.ctx s.nfree o.memMark (unitSkips o ts) ts
        if !r.good then chainStop s x o h r
        else writeSnap s x o h r buf (h.x.toNat % 2 ^ 32) (fun r c _ => finishChain s c o r.dev)
      else finishChain s x o s.dev))

end Sys2Proof.Machine
end

