-- ==== Sys2Proof/Machine/Control.lean ====
section
/-! DEFINITION. The control words by number: what each reads, and what a write does under its field map (R109, R110,
R200, R256, R260, R338, R340, R428). -/

namespace Sys2Proof.Machine

/-! ### Words of Context scope -/

/-- The number names a word of Context scope (R109, R200, R256, R260, R340). -/
def isCtxWord (n : Nat) : Bool :=
  (0x100 ≤ n && n < 0x1C0) || (0x200 ≤ n && n < 0x2C0) || n == 0x300 || n == 0x301 || n == 0x400 || n == 0x401 ||
  (0x500 ≤ n && n ≤ 0x502) || (0x520 ≤ n && n < 0x530) || (0x610 ≤ n && n ≤ 0x622) || n == 0x630 || n == 0x631

/-- A companding-table word (R109). -/
def isCompandWord (n : Nat) : Bool := (0x100 ≤ n && n < 0x1C0) || (0x200 ≤ n && n < 0x2C0)

/-- Component 3 of a table segment or of a window: reserved, reads zero (R109, R260). -/
def isReservedWord (n : Nat) : Bool := (isCompandWord n || (0x520 ≤ n && n < 0x530)) && n % 4 == 3

/-- The number names a word a program may only read (R340, R428). -/
def isReadOnly (n : Nat) : Bool := n == 0x413 || n == 0x600 || n == 0x601 || n == 0x621 || n == 0x622 || n == 0x700

/-- The number names a word that CTLRD reads outside trap mode too (R72). -/
def isUserWord (n : Nat) : Bool :=
  isCompandWord n || n == 0x300 || n == 0x301 || (0x310 ≤ n && n ≤ 0x314) || (0x500 ≤ n && n ≤ 0x502) ||
  (0x520 ≤ n && n < 0x530) || (0x700 ≤ n && n ≤ 0x702)

/-- A word of Context scope as it reads: PREJH is write-only (R7, R340). -/
def ctxRead (d : Dev) (slot n : Nat) : Word := if n == 0x631 then 0#32 else slotWord d slot n

/-- The fields of a word that a write sets: its RSV bits stay zero (R8). -/
def ctlMask (n : Nat) (x : Word) : Word :=
  if isReservedWord n then 0#32
  else if n == 0x301 then x &&& 0x1F#32
  else if n == 0x400 || n == 0x410 then x &&& 0xFFFFFFFC#32
  else if n == 0x412 then x &&& 0x7F#32
  else if n == 0x500 then x &&& 0xFFFFFFE0#32
  else if 0x520 ≤ n && n < 0x530 && n % 4 == 0 then x &&& 0xFFFF0000#32
  else if 0x520 ≤ n && n < 0x530 && n % 4 == 2 then x &&& 0x8000FFFF#32
  else x

/-- A context's register block changed. -/
def updCtx (d : Dev) (slot : Nat) (f : Context → Context) : Dev :=
  { d with contexts := tabSet default d.contexts slot (f (ctxOf d slot)) }

/-- A control word of a context set; its companding tables before the write stay for operations in flight (R102). -/
def putCtxWord (d : Dev) (clk slot n : Nat) (x : Word) : Dev :=
  updCtx d slot (fun c => { c with
    oldTabs := if isCompandWord n then (clk, c.words) :: c.oldTabs else c.oldTabs
    words := tabSet (ctxReset n) c.words n x })

/-! ### Windows (R260) and watchpoints (R332, R339) -/

/-- Window i of a context as its three words, one of them replaced. -/
def windowWith (d : Dev) (slot i n : Nat) (x : Word) : Nat × Nat × Bool :=
  let w := fun j => (if n == 0x520 + 4 * i + j then x else slotWord d slot (0x520 + 4 * i + j)).toNat
  (w 0 / 65536 * 65536 + 2 ^ 32 * w 1, w 2 % 65536 * 65536, (w 2).testBit 31)

/-- R260: the write leaves window i enabled with size 0 or overlapping another enabled window. -/
def windowBad (d : Dev) (slot n : Nat) (x : Word) : Bool :=
  let i := (n - 0x520) / 4
  let me := windowWith d slot i n x
  me.2.2 && (me.2.1 == 0 || (List.range 4).any (fun j =>
    let w := windowWith d slot j n x
    j != i && w.2.2 && decide (me.1 < w.1 + w.2.1) && decide (w.1 < me.1 + me.2.1)))

/-- R260: the combinations under way for the context delivered, but those that wait for a key (R488). -/
def flushHubs (d : Dev) (slot n : Nat) : Dev :=
  (d.hubs.filter (fun h => h.slots.contains slot && !keyWaits d h.key)).foldl (fun d h => deliverHub d n h) d

/-- R260, R488: a write of word n waits for a combination of the context whose page's key is being installed. -/
def hubsHeld (d : Dev) (slot n : Nat) : Bool :=
  decide (0x520 ≤ n) && decide (n < 0x530) && !isReservedWord n &&
  d.hubs.any (fun h => h.slots.contains slot && keyWaits d h.key)

/-- R339: a watchpoint's base, size and MODE are sound. -/
def watchSound (base size mode : Nat) : Bool :=
  2 ≤ size && size ≤ 30 && base % 2 ^ size == 0 && mode < 16

/-- R340: watchpoint i as a write of word n leaves it is sound. -/
def watchWordSound (d : Dev) (slot n : Nat) (x : Word) : Bool :=
  let i := (n - 0x610) / 4
  let w := fun j => (if n == 0x610 + 4 * i + j then x else slotWord d slot (0x610 + 4 * i + j)).toNat
  watchSound (w 0 + 2 ^ 32 * w 1) (w 2) (w 3)

/-! ### Pre-emption by system software (R167, R340) -/

/-- R167: a request to every crew of the context in a slot, or to those of one of its jobs. -/
def preemptCrews (d : Dev) (clk slot : Nat) (job : DWord) : Dev :=
  { d with crews := d.crews.map (fun c =>
      if c.ctx == slot && (job == 0#64 || c.job == job) then requestCrew clk none c else c) }

/-! ### Writes -/

/-- R310, R338: word n of Context scope written, with nothing in focus; none where CTLWR would be an illegal
instruction. -/
def ctxWrite (s : State) (slot n : Nat) (x0 : Word) : Option State :=
  let x := ctlMask n x0
  let put := fun d : Dev => { s with dev := putCtxWord d s.nfree slot n x }
  if !isCtxWord n || isReadOnly n then none
  else if isReservedWord n then some s
  else if 0x520 ≤ n && n < 0x530 then
    if windowBad s.dev slot n x then none else some (put (flushHubs s.dev slot s.nfree))
  else if 0x610 ≤ n && n < 0x620 then
    if watchWordSound s.dev slot n x then some (put s.dev) else none
  else if n == 0x620 then
    some { s with dev := putCtxWord s.dev s.nfree slot n (slotWord s.dev slot n &&& ~~~ x) }
  else if n == 0x631 then
    some { s with dev := preemptCrews s.dev s.clk slot (x ++ slotWord s.dev slot 0x630) }
  else some (put s.dev)

/-- A control word as the fragment in focus reads it; none where the number names no word (R338). -/
def ctlRead (s : State) (n : Nat) : Option Word :=
  let f := s.frag
  if isCtxWord n then some (ctxRead s.dev s.crew.ctx n)
  else if 0x310 ≤ n && n ≤ 0x314 then some (BitVec.ofNat 32 (tabGet 0 s.crew.mx (n - 0x310)))
  else if n == 0x410 then some (f.epc.extractLsb' 0 32)
  else if n == 0x411 then some (f.epc.extractLsb' 32 32)
  else if n == 0x412 then some f.epar
  else if n == 0x413 then some f.ecause
  else if 0x414 ≤ n && n ≤ 0x416 then some (f.eexec.extractLsb' (32 * (n - 0x414)) 32)
  else if n == 0x417 then some f.efmt
  else if 0x418 ≤ n && n ≤ 0x41F then some (tabGet 0#32 f.esave (n - 0x418))
  else if n == 0x600 then some f.erecoff
  else if n == 0x601 then some f.etrapv
  else if n == 0x700 then some (BitVec.ofNat 32 s.crew.chain.bbase)
  else if n == 0x701 then some (BitVec.ofNat 32 s.crew.chain.bsz)
  else if n == 0x702 then some (BitVec.ofNat 32 s.crew.chain.snap)
  else none

/-- R428: the cases in which CHBSZ refuses a value. -/
def chbszBad (c : Crew) (v : Nat) : Bool :=
  !c.chain.bound || v % 128 != 0 || v < 128 || decide (524288 < v) || decide (c.scratchSize < c.chain.bbase + v) ||
  decide (v < c.chain.cur + c.chain.bytes)

/-- The fragment in focus with one of its words set; none where the number names no word it may write. -/
def fragWrite (f : Frag) (n : Nat) (x0 : Word) : Option Frag :=
  let x := ctlMask n x0
  if n == 0x410 then some { f with epc := f.epc.extractLsb' 32 32 ++ x }
  else if n == 0x411 then some { f with epc := x ++ f.epc.extractLsb' 0 32 }
  else if n == 0x412 then some { f with epar := x }
  else if 0x414 ≤ n && n ≤ 0x416 then
    let k := 32 * (n - 0x414)
    some { f with eexec := (f.eexec &&& ~~~ (0xFFFFFFFF#96 <<< k)) ||| (x.setWidth 96 <<< k) }
  else if n == 0x417 then if fmtLegal x then some { f with efmt := x } else none
  else if 0x418 ≤ n && n ≤ 0x41F then some { f with esave := tabSet 0#32 f.esave (n - 0x418) x }
  else none

/-- R338: CTLWR's effect; none where it is an illegal instruction. -/
def ctlWrite (s : State) (n : Nat) (x : Word) : Option State :=
  if isReadOnly n then none
  else if isCtxWord n then
    (ctxWrite (stow s) s.crew.ctx n x).map (fun t => focusOn t (selfRef s))
  else if 0x310 ≤ n && n ≤ 0x314 then
    some { s with crew := { s.crew with mx := tabSet 0 s.crew.mx (n - 0x310) x.toNat } }
  else if n == 0x701 then
    if chbszBad s.crew x.toNat then none
    else some { s with crew := { s.crew with chain := { s.crew.chain with bsz := x.toNat } } }
  else if n == 0x702 then some { s with crew := { s.crew with chain := { s.crew.chain with snap := x.toNat } } }
  else (fragWrite s.frag n x).map (fun f => { s with frag := f })

end Sys2Proof.Machine
end

