-- ==== Sys2Proof/Machine/Invalidate.lean ====
section
/-! DEFINITION. Full invalidations of a range of virtual addresses: what they remove, what they wait for, and the held
stores that give up their places (R313, R317 to R319). -/

namespace Sys2Proof.Machine

/-- The ranges of n bytes from a and m bytes from b share a byte. -/
def rangesMeet (a n b m : Nat) : Bool := decide (a < b + m) && decide (b < a + n)

/-- The piece stands on a translation of the range and has not taken its place. -/
def pieceUses (lo len : Nat) (p : Piece) : Bool :=
  pieceOpen p && !p.parked && p.pa.isSome && rangesMeet lo len (vaBits p.va) p.size

/-- R142: the piece is of a store held behind an earlier access of its lane, or behind a lower lane of its own instruction
that has parked (R116). -/
def pieceHeld (ops : List Op) (o : Op) (m : MemOp) (p : Piece) : Bool :=
  m.kind == .store && ((if m.scalar then (heldLanes ops o &&& o.order) != 0#96 else (heldLanes ops o).getLsbD p.lane) ||
    m.pieces.any (fun q => q.parked && goesAfter p q))

/-- R319: an operation whose held stores to the range have given up their physical addresses. -/
def dropHeld (ops : List Op) (lo len : Nat) (o : Op) : Op :=
  match memOf o with
  | some m =>
    if m.scratch then o
    else { o with body := .mem { m with pieces := m.pieces.map (fun p =>
      if pieceUses lo len p && pieceHeld ops o m p then { p with pa := none } else p) } }
  | none => o

/-- Accesses of crews, by operation, lane and place. -/
abbrev Users := List (Nat × Nat × List (Nat × Nat))

/-- The accesses of a crew that use a translation of the range; of an operation parked for some lanes, those of the others. -/
def rangeUsers (c : Crew) (lo len : Nat) : Users :=
  (c.ops.filterMap (fun o => (memOf o).map (fun m =>
    (c.uid, o.id, if m.scratch then [] else (m.pieces.filter (pieceUses lo len)).map (fun p => (p.lane, p.off)))))).filter
      (fun x => !x.2.2.isEmpty)

/-- R247, R311, R313: every translation, table entry and L1 line of the tag that covers a byte of the range goes. -/
def dropRange (d : Dev) (tag lo len : Nat) : Dev :=
  { d with
    tlb := d.tlb.filter (fun e => !(e.tag == tag && rangesMeet lo len e.base (2 ^ e.size)))
    walks := d.walks.filter (fun w => !(w.tag == tag && rangesMeet lo len w.base (levelSize w.level)))
    pc := { d.pc with l1 := d.pc.l1.filter (fun x => !(x.tag == tag && rangesMeet lo len (x.vline * 128) 128)) }
    crews := d.crews.map (fun c =>
      if c.ctag == tag then { c with ops := c.ops.map (dropHeld c.ops lo len) } else c) }

/-- R313: a full invalidation begun; it waits for the accesses that use what it removed. -/
def startInval (d : Dev) (who : InvFor) (tag lo len : Nat) : Dev :=
  let d1 := dropRange d tag lo len
  let users := (d1.crews.filter (fun c => c.ctag == tag)).flatMap (fun c => rangeUsers c lo len)
  { d1 with invals := d1.invals ++ [⟨d1.nextInv, who, users⟩], nextInv := d1.nextInv + 1 }

/-- The operation of an entry, with its crew, while it is a lane access. -/
def userOp (d : Dev) (x : Nat × Nat × List (Nat × Nat)) : Option (Crew × Op × MemOp) :=
  match findCrew d x.1 with
  | none => none
  | some c => match findOp c x.2.1 with
    | none => none
    | some o => (memOf o).map (fun m => (c, o, m))

/-- R313, R318, R319: an access an invalidation waits for has neither taken its places, nor parked, nor is it a held store. -/
def stillUses (d : Dev) (x : Nat × Nat × List (Nat × Nat)) : Bool :=
  match userOp d x with
  | none => false
  | some (c, o, m) => m.pieces.any (fun p =>
      x.2.2.contains (p.lane, p.off) && pieceOpen p && !p.parked && p.pa.isSome && !pieceHeld c.ops o m p)

/-- Every access the invalidation waits for is through. -/
def invalClear (d : Dev) (i : Inval) : Bool := i.waits.all (fun x => !stillUses d x)

/-- R319: the stores that an invalidation waited for, held by now, give up their physical addresses as it completes. -/
def dropWaited (d : Dev) (x : Nat × Nat × List (Nat × Nat)) : Dev :=
  match userOp d x with
  | none => d
  | some (c, o, m) => updCrew d c.uid (fun y => setOp y { o with body := .mem { m with pieces := m.pieces.map (fun p =>
      if x.2.2.contains (p.lane, p.off) && pieceOpen p && pieceHeld c.ops o m p then { p with pa := none } else p) } })

/-- R313, R318: what the completion of an invalidation does. -/
def endInval (s : State) (i : Inval) : State :=
  let d := i.waits.foldl dropWaited { s.dev with invals := s.dev.invals.filter (fun x => x.id != i.id) }
  match i.who with
  | .cxinvc slot =>
    { s with dev := { d with contexts := tabSet default d.contexts slot { ctxOf d slot with invBusy := false } } }
  | .tlbinv f =>
    { s with dev := updFrag d f (fun x =>
        if x.status == .blocked (.tlbinv i.id) then { x with status := .ready, resume := .released, age := s.clk } else x) }
  | .ats tag => { s with dev := { d with out := .invalidationCompletion tag :: d.out } }

/-- INVALIDATION_COMPLETE: the full invalidation numbered i completes (R313). -/
def execInvalidationComplete (i : Nat) (s : State) : Out :=
  event s (fun s => match s.dev.invals.find? (fun x => x.id == i) with
    | some x => if invalClear s.dev x then endInval s x else s
    | none => s)

end Sys2Proof.Machine
end

