-- ==== Sys2Proof/Machine/Dispatcher.lean ====
section
/-! DEFINITION. The dispatch engine: reading and checking cards, host queues, accepting jobs, placing crews, and writing
DONE (R39 to R41, R148 to R154, R157, R162, R165). -/

namespace Sys2Proof.Machine

/-! ### Cards (R148, R149) -/

/-- A 64-bit field of a card's bytes. -/
def cardWord (b : List Byte) (o : Nat) : Nat := natLE ((b.drop o).take 8)

/-- R148: the fields of a card's 256 bytes. -/
def readCard (b : List Byte) : Card :=
  let f := fun o n => natLE ((b.drop o).take n)
  { entry := BitVec.ofNat 64 (f 0 8), recbase := BitVec.ofNat 64 (f 8 8), recsize := f 16 4, reccount := f 20 4,
    x0 := f 24 1, y0 := f 25 1, w := f 26 1, h := f 27 1, waves := f 28 1, vregs := f 29 1, sregs := f 30 1,
    prio := f 31 1 % 8, idem := (f 31 1).testBit 7, roles := BitVec.ofNat 32 (f 32 4), scratch := f 36 4,
    tiles := f 40 4, park := f 44 4, thunks := bitsOf (f 48 2) 8 0, retries := bitsOf (f 48 2) 15 12,
    ctag := bitsOf (f 50 2) 11 0, deadline := f 52 4, doneAddr := BitVec.ofNat 64 (f 56 8),
    doneVal := BitVec.ofNat 64 (f 64 8), chainbuf := BitVec.ofNat 64 (f 72 8),
    deps := (List.range 4).map (fun i => BitVec.ofNat 64 (f (80 + 8 * i) 8)),
    reserved := bitsOf (f 31 1) 6 3 != 0 || bitsOf (f 48 2) 11 9 != 0 || bitsOf (f 50 2) 15 12 != 0 ||
      (b.drop 112).any (fun x => x != 0#8) ||
      (List.range 4).any (fun i => f (80 + 8 * i) 8 / 2 ^ 59 != 0) }

/-- R148: the card asks for nothing to run. -/
def cardZero (c : Card) : Bool := c.w == 0 || c.h == 0 || c.reccount == 0

/-- Role slot i of a card (R148). -/
def roleCode (c : Card) (i : Nat) : Nat := bitsOf c.roles.toNat (2 * i + 1) (2 * i)

/-- R149: check k fails, for a launch in the context of tag `tag`. -/
def cardFails (c : Card) (tag k : Nat) : Bool :=
  match k with
  | 1 => c.ctag != tag
  | 2 => (targetTrap c.entry).isSome
  | 3 => decide (48 < c.x0 + c.w) || decide (32 < c.y0 + c.h)
  | 4 => c.waves == 0 || decide (16 < c.waves) || (List.range 16).any (fun i => c.waves ≤ i && roleCode c i != 0)
  | 5 => c.vregs % 8 != 0 || decide (c.vregs < 8) || decide (128 < c.vregs) || decide (1024 < c.waves * c.vregs)
  | 6 => c.sregs == 0 || decide (64 < c.sregs)
  | 7 => decide (786432 < c.scratch) || decide (262144 < c.tiles) || decide (67108864 < c.park) ||
      decide (256 < c.thunks)
  | 8 => c.doneVal.getLsbD 63 ||
      (c.doneAddr != 0#64 && (c.doneAddr.toNat % 8 != 0 || !canonical c.doneAddr))
  | 9 => c.reserved
  | _ => false

/-- R149: the first check that fails; a zero-size card passes 1, 8 and 9 only. -/
def cardCheck (c : Card) (tag : Nat) : Option Nat :=
  (if cardZero c then [1, 8, 9] else [1, 2, 3, 4, 5, 6, 7, 8, 9]).find? (cardFails c tag)

/-! ### Accepting a job (R39, R40, R151) -/

/-- The die that owns a card's job (R39). -/
def ownerDie (c : Card) (receiver : Nat) : Nat := if cardZero c then receiver else dieOf (c.x0 + 48 * c.y0)

/-- R151: the next id of a die. -/
def nextId (d : Dev) (die : Nat) : DWord := BitVec.ofNat 64 (die * 2 ^ 56 + (tabGet 0 d.seqs die + 1))

/-- The crews of a job's span as they begin to wait (R24, R154). -/
def spanWaiting (d : Dev) (c : Card) (id : DWord) (pred : Option DWord) : List Waiting :=
  (List.range (spanCrews c)).map (fun i =>
    let p := crewPos c i
    { uid := d.nextUid + i, job := id, index := i, core := p.1 + 48 * p.2,
      kind := if pred.isSome then .successor else .fresh, pred := pred, scratch := none, mx := [], trigged := false,
      since := none, hold := false })

/-- R40, R151: the card accepted: its job has an id, and its crews wait for their cores. -/
def acceptJob (d : Dev) (c : Card) (receiver ctx : Nat) (queue : Option Nat) (prio : Nat) (pred : Option DWord) :
    DWord × Dev :=
  let die := ownerDie c receiver
  let id := nextId d die
  let zero := cardZero c
  let job : Job :=
    { id := id, die := die, ctx := ctx, card := c, prio := prio, queue := queue,
      state := if zero then .draining else .placing, next := 0, returned := [], used := 0, failedBy := none,
      placed := [], trig := [], exits := [], zeroSize := zero }
  let ws := if zero then [] else spanWaiting d c id pred
  (id, { d with
    seqs := tabSet 0 d.seqs die (tabGet 0 d.seqs die + 1)
    jobs := d.jobs ++ [job]
    waiting := d.waiting ++ ws
    nextUid := d.nextUid + ws.length })

/-- R39: the die whose engine writes the status of a rejected card: its owner, or, where the core (X0, Y0) is none of the
package, the receiver (DESIGN CHOICE; assumption 67). -/
def rejectDie (c : Card) (receiver : Nat) : Nat := if c.x0 < 48 && c.y0 < 32 then ownerDie c receiver else receiver

/-- R150: a rejected card keeps its status to be written, if it names an address, in the launching context, whichever check
failed (DESIGN CHOICE; assumption 68). -/
def rejectJob (d : Dev) (c : Card) (receiver ctx check : Nat) (queue : Option Nat) : Dev :=
  if check == 8 || c.doneAddr == 0#64 then d
  else
    { d with jobs := d.jobs ++ [{ (default : Job) with
        id := 0#64, die := rejectDie c receiver, ctx := ctx, card := c, queue := queue, state := .rejected check }] }

/-! ### Reading a card (R153, R157) -/

/-- A card's bytes, or why they cannot be had. -/
inductive CardRead where
  | bytes (b : List Byte)
  | wait
  | miss (host : Bool)
  | fault
  | poison
  deriving DecidableEq, Repr

/-- A card read at a virtual address in a context by an engine of a die (R149). -/
def fetchCard (d : Dev) (who : Asker) (slot n : Nat) (a : DWord) : CardRead × Dev :=
  match translate64 d who slot n a.toNat wantRead with
  | (.ok pa key, d1) =>
    let d2 := touchLines d1 n key (linesOfRange pa 256)
    if rangePoisoned d1 pa 256 then (.poison, d2) else (.bytes (bytesAt d1 pa 256), d2)
  | (.wait, d1) => (.wait, d1)
  | (.miss h, d1) => (.miss h, d1)
  | (.trap c, d1) => (if c == 0x04 then .poison else .fault, d1)

/-- A host queue: die·64 + q (R152). -/
def queueOf (d : Dev) (q : Nat) : Queue := tabGet default d.queues q

/-- The device with a queue changed. -/
def updQueue (d : Dev) (q : Nat) (f : Queue → Queue) : Dev := { d with queues := tabSet default d.queues q (f (queueOf d q)) }

/-- The slot bound to a context tag, if one is. -/
def slotOfTag (d : Dev) (tag : Nat) : Option Nat :=
  (List.range 64).find? (fun n => (ctxOf d n).en && (ctxOf d n).tag == tag)

/-- R153, R311: the queue's head card is ready to be read. -/
def headReady (d : Dev) (q : Nat) : Bool :=
  let x := queueOf d q
  !x.cards.isEmpty && !d.wraps.contains x.ctag && !d.missing.any (fun m => m.links.contains (.queue q)) &&
  !d.atsReqs.any (fun r => r.links.contains (.queue q))

/-- R153: the queue a die serves next: the highest QPRIO, in rotation after the one served last. -/
def nextQueue (d : Dev) (die : Nat) : Option Nat :=
  let last := tabGet 63 d.rotation die
  let order := (List.range 64).map (fun i => 64 * die + (last + 1 + i) % 64)
  let ready := order.filter (headReady d)
  let top := (ready.map (fun q => (queueOf d q).prio)).foldl max 0
  ready.find? (fun q => (queueOf d q).prio == top)

/-- QERR.CARD with a check number (R152). -/
def cardError (check : Nat) (x : Queue) : Queue :=
  { x with err := (x.err &&& 0xFF#64) ||| 0x4#64 ||| BitVec.ofNat 64 (256 * check) }

/-- The queue after its head card has been taken. -/
def popCard (x : Queue) : Queue := { x with cards := x.cards.drop 1 }

/-- R149, R150, R153: the head card of a host queue read; a misaligned address is dropped when its turn comes
(DESIGN CHOICE; assumption 69). -/
def readQueueCard (s : State) (die q : Nat) : State :=
  let d := s.dev
  let x := queueOf d q
  match x.cards with
  | [] => s
  | a :: _ =>
    let turn := { d with rotation := tabSet 63 d.rotation die (q % 64) }
    let drop := fun check d => { s with dev := updQueue d q (fun x => cardError check (popCard x)) }
    if a.toNat % 256 != 0 then drop 0 turn
    else match slotOfTag d x.ctag with
      | none => drop 0 turn
      | some slot =>
        match fetchCard turn (dieAsker die (.queue q)) slot s.nfree a with
        | (.wait, d1) => { s with dev := d1 }
        | (.miss h, d1) =>
          { s with dev := addMissing d1 die slot (vaBits a.toNat / 4096) s.clk h wantRead [.queue q] }
        | (.fault, d1) => drop 0 d1
        | (.poison, d1) => drop 0 d1
        | (.bytes b, d1) =>
          let c := readCard b
          match cardCheck c (ctxOf d1 slot).tag with
          | some 8 => drop 8 d1
          | some k => { s with dev := rejectJob (updQueue d1 q popCard) c die slot k (some q) }
          | none =>
            let r := acceptJob (updQueue d1 q popCard) c die slot (some q) (min c.prio x.prio) none
            { s with dev := updQueue r.2 q (fun x => { x with lastId := r.1 }) }

/-- R157: the id a LAUNCH receives, in its waiting wave, which then goes on. -/
def answerLaunch (s : State) (l : Launch) (id : DWord) (d : Dev) : State :=
  let d1 := { d with launches := d.launches.filter (fun x => x.who != l.who) }
  let d2 := updCrew d1 l.who.crew (fun c =>
    let c1 := updWave c l.who.wave (fun w =>
      updFragW { w with s := tabSet 0#32 (tabSet 0#32 w.s l.dst (id.setWidth 32)) (l.dst + 1) ((id >>> 32).setWidth 32) }
        l.who.frag (fun f => { f with status := .ready, resume := .released, age := s.clk }))
    { c1 with ops := taintScalar (taintScalar c1.ops l.who.wave l.dst) l.who.wave (l.dst + 1) })
  { s with dev := d2 }

/-- R157: a pending launch's card read. -/
def readLaunchCard (s : State) (l : Launch) : State :=
  match fetchCard s.dev (dieAsker l.die (.launch l.who)) l.ctx s.nfree l.addr with
  | (.wait, d1) => { s with dev := d1 }
  | (.miss h, d1) =>
    { s with dev := addMissing d1 l.die l.ctx (vaBits l.addr.toNat / 4096) s.clk h wantRead [.launch l.who] }
  | (.fault, d1) => answerLaunch s l 0#64 d1
  | (.poison, d1) => { s with dev := updCrew d1 l.who.crew (fun c => { c with contained := some 0x04 }) }
  | (.bytes b, d1) =>
    let c := readCard b
    match cardCheck c l.ctag with
    | some k => answerLaunch s l 0#64 (rejectJob d1 c l.die l.ctx k none)
    | none =>
      let r := acceptJob d1 c l.die l.ctx none c.prio none
      answerLaunch s l r.1 r.2

/-- A pending launch waits for no page. -/
def launchReady (d : Dev) (l : Launch) : Bool :=
  !d.missing.any (fun m => m.links.contains (.launch l.who)) && !d.wraps.contains l.ctag &&
  !d.atsReqs.any (fun r => r.links.contains (.launch l.who))

/-- CARD_READ: the dispatch engine of a die reads one card: that of host queue i below 64 when it is that queue's turn,
or of pending launch i − 64 (R149, R153, R157). -/
def execCardRead (die i : Nat) (s : State) : Out :=
  hostReg s (fun s =>
    if i < 64 then
      if nextQueue s.dev die == some (64 * die + i) then readQueueCard s die (64 * die + i) else s
    else match s.dev.launches[i - 64]? with
      | some l => if l.die == die && launchReady s.dev l then readLaunchCard s l else s
      | none => s)

/-- QLAUNCH: a card address written to a host queue (R152, R153); ignored in minimal mode (R485). -/
def execQlaunch (q : Nat) (v : BitVec 64) (s : State) : Out :=
  event s (fun s =>
    if s.dev.plat.startup.minimal || 384 ≤ q then s
    else
      { s with dev := updQueue s.dev q (fun x =>
          if !x.en then { x with err := x.err ||| 2#64 }
          else if 256 ≤ x.cards.length then { x with err := x.err ||| 1#64 }
          else { x with cards := x.cards ++ [v] }) })

/-! ### Placing (R90, R154) -/

/-- The role of a code of ROLES (R148). -/
def roleOf (k : Nat) : Role := match k with
  | 0 => .gen
  | 1 => .copy
  | 2 => .mat
  | _ => .vec

/-- The generator of lane l when a wave is placed (R90). -/
def placedRng (seed crew wave job : Word) (l : Nat) : Word :=
  let g := seed ^^^ (BitVec.ofNat 32 (l + 1) * 0x9E3779B9#32) ^^^ (crew * 0x85EBCA6B#32) ^^^ (wave <<< 28) ^^^ job
  if g == 0#32 then 1#32 else g

/-- The wave slots of a core that no wave holds, lowest first. -/
def freeSlots (d : Dev) (core : Nat) : List Nat :=
  let used := (crewsOn d core).flatMap (fun c => c.waves.map Wave.slot)
  (List.range 16).filter (fun k => !used.contains k)

/-- R154: the one fragment a wave starts with. -/
def placedFrag (entry : DWord) (clk : Nat) : Frag :=
  { gotoClause (default : Frag) entry clk with
    lanes := BitVec.allOnes 96, exec := BitVec.allOnes 96, erecoff := 0xFFFFFFFF#32 }

/-- R154: a wave as it is placed. -/
def placedWave (d : Dev) (j : Job) (index clk i slot : Nat) : Wave :=
  { (default : Wave) with
    idx := i
    slot := slot
    role := roleOf (roleCode j.card i)
    rng := (List.range laneCount).map (fun l =>
      (l, placedRng (slotWord d j.ctx 0x300) (BitVec.ofNat 32 index) (BitVec.ofNat 32 i) (j.id.setWidth 32) l))
    frags := [placedFrag j.card.entry clk]
    fetchMark := d.histSeq }

/-- The park area's size (R148). -/
def parkBytes (c : Card) : Nat := if c.park == 0 then 262144 else max 8192 (roundUpTo 4096 c.park)

/-- The deadline that acts (R148). -/
def deadlineOf (c : Card) : Nat := if c.deadline == 0 then 65536 else max 1024 c.deadline

/-- R154: a waiting crew as it is placed. -/
def placedCrew (d : Dev) (clk : Nat) (w : Waiting) (j : Job) : Crew :=
  let p := crewPos j.card w.index
  let slots := freeSlots d w.core
  let (scr, full, tile) := w.scratch.getD ([], [], [])
  { (default : Crew) with
    uid := w.uid, state := .running, prio := j.prio, ctag := j.card.ctag, gen := (ctxOf d j.ctx).gen,
    scratchSize := roundUpTo 2048 j.card.scratch, tileSize := roundUpTo 1024 j.card.tiles, thunkMax := j.card.thunks,
    deadline := deadlineOf j.card, waveCount := j.card.waves, placedAt := d.nextUid,
    trigged := if w.trigged then List.range j.card.waves else [], scratch := scr, full := full, tile := tile,
    mx := w.mx, job := j.id, index := w.index, cx := p.1, cy := p.2, core := w.core, ctx := j.ctx,
    vregs := j.card.vregs, sregs := j.card.sregs,
    tiles := { (default : TileState) with mark := roundUpTo 1024 j.card.tiles },
    waves := (List.range j.card.waves).map (fun i => placedWave d j w.index clk i (slots.getD i i)),
    parkSize := parkBytes j.card }

/-- R154, R167: a waiting crew placed when it may be; when it does not fit, requests to crews of lower priority. -/
def placeCrew (s : State) (uid : Nat) : State :=
  match s.dev.waiting.find? (fun w => w.uid == uid) with
  | none => s
  | some w => match findJob s.dev w.job with
    | none => s
    | some j =>
      if !predGone s.dev w then s
      else if mayPlace s.dev w.core (.waiting w) then
        let c := placedCrew s.dev s.clk w j
        let d1 := withdrawFor s.dev s.clk uid
        let d2 := { d1 with waiting := d1.waiting.filter (fun x => x.uid != uid), crews := insertCrew c d1.crews,
                            nextUid := d1.nextUid + 1 }
        { s with dev := updJob d2 w.job (fun j =>
            let j1 := { j with placed := if j.placed.contains w.index then j.placed else j.placed ++ [w.index]
                               state := if j.state == .placing then .running else j.state }
            noteDraining j1) }
      else if s.dev.crews.any (fun c => c.preqFor == some uid) then s
      else
        let vs := victims s.dev w.core j.prio (waitingNeeds s.dev w)
        { s with dev := { s.dev with crews := s.dev.crews.map (fun c =>
            if vs.contains c.uid then requestCrew s.clk (some uid) c else c) } }

/-- CREW_PLACE (R154, R167). -/
def execCrewPlace (c : Nat) (s : State) : Out := event s (fun s => placeCrew s c)

/-- PLACEMENT_HOLD: a crew that has stood first for 65,536 clocks holds back later ones (R154). -/
def execPlacementHold (c : Nat) (s : State) : Out :=
  event s (fun s =>
    let due := fun x : Option Nat => match x with
      | some t => decide (t + 65536 ≤ s.clk)
      | none => false
    { s with dev := { s.dev with
        waiting := s.dev.waiting.map (fun w => if w.uid == c && due w.since then { w with hold := true } else w)
        crews := s.dev.crews.map (fun x => if x.uid == c && due x.since then { x with hold := true } else x) } })

/-! ### DONE (R41, R150, R177) -/

/-- R150: the error status of a rejected card. -/
def rejectStatus (check : Nat) : DWord := BitVec.ofNat 64 (0xFFFFFFFF + check * 2 ^ 40 + 2 ^ 48 + 2 ^ 63)

/-- R150: the error status of a job whose crew was contained beyond retry. -/
def failStatus (crew used cause : Nat) : DWord :=
  BitVec.ofNat 64 (crew + used * 2 ^ 32 + cause * 2 ^ 40 + 2 * 2 ^ 48 + 2 ^ 63)

/-- The word a job writes at its DONE address, and the state it enters. -/
def doneWord (j : Job) : DWord × JobState :=
  match j.state with
  | .rejected k => (rejectStatus k, .failed)
  | .placing | .running | .draining | .done | .failed =>
    match j.failedBy with
    | some (crew, cause) => (failStatus crew j.used cause, .failed)
    | none => (j.card.doneVal, .done)

/-- R40, R41: nothing of the job is left to run, and no reduction of its crews is left in a hub. -/
def jobSettled (d : Dev) (j : Job) : Bool :=
  match j.state with
  | .rejected _ => true
  | .draining => !d.crews.any (fun c => c.job == j.id) && !d.waiting.any (fun w => w.job == j.id) &&
    !d.hubs.any (fun h => h.jobs.contains j.id)
  | .placing => false
  | .running => false
  | .done => false
  | .failed => false

/-- The job enters its last state; its patch-barrier entries go (R177). -/
def endJob (d : Dev) (k : Nat) (j : Job) : Dev :=
  { d with
    jobs := d.jobs.modify k (fun x => { x with state := (doneWord j).2 })
    pbars := if j.id == 0#64 then d.pbars else d.pbars.filter (fun e => e.job != j.id) }

/-- R41: the word is lost: the queue of a host-launched job notes it. -/
def doneLost (d : Dev) (j : Job) : Dev :=
  match j.queue with
  | some q => updQueue d q (fun x => { x with err := x.err ||| 8#64 })
  | none => d

/-- R41: the DONE write of the job at place k of the list: 8 bytes at the address of the card, which need not be aligned when
an earlier check than 8 rejected the card (DESIGN CHOICE; assumption 68). -/
def writeDone (s : State) (k : Nat) (j : Job) : State :=
  if j.card.doneAddr == 0#64 then { s with dev := endJob s.dev k j }
  else match translate64 s.dev (dieAsker j.die (.done k)) j.ctx s.nfree j.card.doneAddr.toNat wantWrite with
    | (.wait, d) => { s with dev := d }
    | (.miss h, d) =>
      { s with dev := addMissing d j.die j.ctx (vaBits j.card.doneAddr.toNat / 4096) s.clk h wantWrite [.done k] }
    | (.trap _, d) => { s with dev := endJob (doneLost d j) k j }
    | (.ok pa key, d) =>
      if linePoisoned d (pa / 128) then { s with dev := endJob (doneLost d j) k j }
      else { s with dev := endJob (storeBytes key (ownLines d s.nfree key (linesOfRange pa 8)) pa (bytesLE 8 (doneWord j).1.toNat)) k j }

/-- DONE_WRITE: the owning engine writes the DONE word of the job at place j once nothing of it is left (R41). -/
def execDoneWrite (j : Nat) (s : State) : Out :=
  event s (fun s => match s.dev.jobs[j]? with
    | some x =>
      if jobSettled s.dev x && !s.dev.missing.any (fun m => m.links.contains (.done j)) then writeDone s j x else s
    | none => s)

end Sys2Proof.Machine
end

