-- ==== Sys2Proof/Machine/Slots.lean ====
section
/-! DEFINITION. The weight slots: the blocks that fill them, their contents as the array fetches them, and the order of
their accesses (R355 to R364), with companding tables as an operation in flight may see them (R102). -/

namespace Sys2Proof.Machine

/-! ### Companding in flight (R102) -/

/-- A companding table among control words (R100, R109). -/
def tableIn (words : Tab Word) (base t : Nat) : List CompandSeg :=
  (List.range 16).map (fun i =>
    let w := fun j => let n := base + 0x40 * (t - 1) + 4 * i + j; tabGet (ctxReset n) words n
    ⟨w 0, w 1, w 2⟩)

/-- R102: the tables an operation that issued at count `born` may use: those now, or those of any time since. -/
def tablesSince (d : Dev) (slot born : Nat) : List (Tab Word) :=
  (ctxOf d slot).words :: (((ctxOf d slot).oldTabs.filter (fun p => decide (born ≤ p.1))).map Prod.snd)

/-- R101, R102: companding of one element by a table of `base` for operation o in flight. -/
def compandFlight (d : Dev) (slot : Nat) (o : Op) (n key base : Nat) (x : Ext) : Ext :=
  if fmtCMP o.fmt == 0 then x
  else
    let l := tablesSince d slot o.born
    let words := l.getD (if l.length ≤ 1 then 0 else Config.freeNat n key % l.length) []
    compand (fmtSAT o.fmt) (tableIn words base (fmtCMP o.fmt)) x

/-! ### Blocks of WBUF.LOAD and MCAST (R357 to R359) -/

/-- The fields of a block (R357). -/
structure WLoad where
  src  : Nat
  ef   : Nat
  form : Nat
  ss   : Bool
  sc   : Bool            -- scales are present and used: SC set and EF 2 or above (R358)
  sb   : Nat
  k    : Nat
  n    : Nat
  rs   : Nat
  off  : Nat
  deriving DecidableEq, Repr

/-- R357. -/
def WLoad.ofBlock (b : List Word) : WLoad :=
  let w := fun k => (b.getD k 0#32).toNat
  let ss := (w 2).testBit 6
  { src := if ss then w 0 else w 0 + 2 ^ 32 * w 1, ef := w 2 % 16, form := bitsOf (w 2) 5 4, ss := ss,
    sc := (w 2).testBit 7 && decide (2 ≤ w 2 % 16), sb := bitsOf (w 2) 9 8, k := bitsOf (w 3) 15 0,
    n := bitsOf (w 3) 31 16, rs := w 4, off := w 6 }

/-- The width of an element format (R81, R83). -/
def codeWidth (ef : Nat) : Nat := match formatOfCode ef with
  | some f => fmtWidth f
  | none => 8

/-- Division rounded up. -/
def ceilDiv (a b : Nat) : Nat := (a + b - 1) / b

/-- The bytes of a stored row: of values, or of indices (R358). -/
def WLoad.rowBytes (l : WLoad) : Nat :=
  match l.form with
  | 0 => ceilDiv (l.n * codeWidth l.ef) 8
  | 1 => ceilDiv (2 * l.n * codeWidth l.ef) 8
  | _ => ceilDiv l.n 2

/-- The rows of values (R358). -/
def WLoad.rowCount (l : WLoad) : Nat := if l.form == 1 then l.k / 4 else l.k

/-- The bytes of the codebook's tables (R358). -/
def WLoad.tables (l : WLoad) : Nat := if l.form == 2 then 32 * ceilDiv l.n 32 else 0

/-- The bytes of the index rows (R358). -/
def WLoad.indexBytes (l : WLoad) : Nat := if l.form == 1 then l.k / 4 * l.n else 0

/-- The scale block along k (R358). -/
def scaleBlock (sb k : Nat) : Nat := match sb with
  | 0 => 32
  | 1 => 16
  | 2 => 64
  | _ => max 1 k

/-- The bytes of the scale array (R358). -/
def WLoad.scaleBytes (l : WLoad) : Nat := if l.sc then ceilDiv l.k (scaleBlock l.sb l.k) * l.n else 0

/-- The stored size (R359). -/
def WLoad.size (l : WLoad) : Nat := l.tables + l.rowCount * l.rowBytes + l.indexBytes + l.scaleBytes

/-- The ranges of the source, in the order in which the slot keeps them. -/
def WLoad.ranges (l : WLoad) : List (Nat × Nat) :=
  ([(l.src, l.tables)] ++
    (List.range l.rowCount).map (fun r => (l.src + l.tables + r * l.rs, l.rowBytes)) ++
    [(l.src + l.rowCount * l.rs, l.indexBytes), (l.src + l.off, l.scaleBytes)]).filter (fun p => p.2 != 0)

/-- One past the highest byte of the source. -/
def WLoad.stop (l : WLoad) : Nat := (l.ranges.map (fun p => p.1 + p.2)).foldl max 0

/-- A range cut at every multiple of 128. -/
def cutRange (p : Nat × Nat) : List (Nat × Nat) :=
  if p.2 == 0 then []
  else (List.range ((p.1 + p.2 - 1) / 128 - p.1 / 128 + 1)).map (fun i =>
    let lo := max p.1 ((p.1 / 128 + i) * 128)
    let hi := min (p.1 + p.2) ((p.1 / 128 + i + 1) * 128)
    (lo, hi - lo))

/-- A number put among rising ones, once. -/
def insertRising (x : Nat) : List Nat → List Nat
  | [] => [x]
  | y :: rest => if x < y then x :: y :: rest else if x == y then y :: rest else y :: insertRising x rest

/-- The units in which the source is read, in ascending address: of each aligned piece of 128 bytes that holds bytes of
the source, those from the first to the last (R360; assumption 61). -/
def WLoad.units (l : WLoad) : List (Nat × Nat) :=
  let cuts := l.ranges.flatMap cutRange
  let lines := cuts.foldl (fun ls p => insertRising (p.1 / 128) ls) []
  lines.map (fun k =>
    let here := cuts.filter (fun p => p.1 / 128 == k)
    let lo := (here.map Prod.fst).foldl min (128 * k + 127)
    let hi := (here.map (fun p => p.1 + p.2)).foldl max 0
    (lo, hi - lo))

/-- A byte of the source among the bytes read of its units. -/
def unitByte : List (Nat × Nat) → List Byte → Nat → Byte
  | [], _, _ => 0#8
  | (a, n) :: rest, data, x => if a ≤ x && x < a + n then data.getD (x - a) 0#8 else unitByte rest (data.drop n) x

/-- The bytes a slot keeps, in the order of R358, from those read of its units. -/
def WLoad.kept (l : WLoad) (data : List Byte) : List Byte :=
  l.ranges.flatMap (fun p => (List.range p.2).map (fun i => unitByte l.units data (p.1 + i)))

/-- R359, step 1, the patch word of an MCAST apart. -/
def WLoad.malformed (b : List Word) : Bool :=
  let l := WLoad.ofBlock b
  let w := fun k => (b.getD k 0#32).toNat
  w 2 / 1024 != 0 || w 7 != 0 || l.form == 3 || 8 < l.ef || l.k == 0 || 1024 < l.k || l.n < 16 || 1024 < l.n ||
  l.n % 16 != 0 || (l.form == 2 && l.ef != 0) || (l.form == 1 && l.k % 4 != 0) || l.rs < l.rowBytes || 16384 < l.size

/-- R359: the first check that fails, its cause. -/
def WLoad.cause (b : List Word) (scratch : Nat) : Option Nat :=
  let l := WLoad.ofBlock b
  if WLoad.malformed b then some 0x08
  else if l.src % 4 != 0 || l.rs % 4 != 0 || (l.sc && l.off % 4 != 0) then some 0x07
  else if l.ss then (if scratch < l.stop then some 0x06 else none)
  else if decide (l.stop ≤ 2 ^ 64) && canonical (BitVec.ofNat 64 l.src) && canonical (BitVec.ofNat 64 (l.stop - 1)) then none
  else some 0x05

/-! ### Slots (R355, R358, R363) -/

/-- Slot f of a core. -/
def slotOf (d : Dev) (core f : Nat) : Slot := tabGet default d.slots (16 * core + f)

/-- The slot holds a load made for the crew's context (R355, R363). -/
def slotMine (c : Crew) (x : Slot) : Bool := x.v && x.tag == c.ctag && x.gen == c.gen

/-- R360: the slot after a load that read these bytes. -/
def loadedSlot (c : Crew) (b : List Word) (data : List Byte) : Slot :=
  let l := WLoad.ofBlock b
  ⟨l.ef, l.form, l.sc, l.sb, l.k, l.n, c.ctag, c.gen, true, l.kept data⟩

/-- Element i of width w of an array packed from byte `off` on (R84). -/
def packedElem (data : List Byte) (off w i : Nat) : Nat :=
  natLE ((data.drop (off + w * i / 8)).take 3) / 2 ^ (w * i % 8) % 2 ^ w

/-- The pattern of element (k, n) as stored (R358). -/
def slotPattern (x : Slot) (k n : Nat) : Nat :=
  let l : WLoad := ⟨0, x.ef, x.form, false, x.sc, x.sb, x.k, x.n, 0, 0⟩
  let w := codeWidth x.ef
  match x.form with
  | 0 => packedElem x.data (k * l.rowBytes) w n
  | 1 =>
    let g := k / 4
    let ib := (x.data.getD (l.rowCount * l.rowBytes + g * x.n + n) 0#8).toNat
    let j := k % 4
    if j == ib / 4 % 4 then packedElem x.data (g * l.rowBytes) w (2 * n + 1)
    else if j == ib % 4 then packedElem x.data (g * l.rowBytes) w (2 * n)
    else 0
  | _ =>
    let idx := packedElem x.data (l.tables + k * l.rowBytes) 4 n
    packedElem x.data (32 * (n / 32)) 16 idx

/-- The scale byte of element (k, n) (R358). -/
def slotScale (x : Slot) (k n : Nat) : Nat :=
  let l : WLoad := ⟨0, x.ef, x.form, false, x.sc, x.sb, x.k, x.n, 0, 0⟩
  if x.sc then
    (x.data.getD (l.tables + l.rowCount * l.rowBytes + l.indexBytes + k / scaleBlock x.sb x.k * x.n + n) 0#8).toNat
  else 127

/-- An operand of a product: its value, and whether the element or its scale was NaN (R107). -/
abbrev Factor := Ext × Bool

/-- An operand from its element's pattern under a format, its companding and its scale byte (R358, R367). -/
def mkFactor (f : Format) (cmp : Ext → Ext) (q : Nat) (scale : Option Nat) : Factor :=
  let x := (readFloat f true q).1
  match scale with
  | some e => (scaleE8 e (cmp x), extIsNaN x || e == 0xFF)
  | none => (cmp x, extIsNaN x)

/-- R358: bval, with the companding of the fetch. -/
def slotElem (cmp : Ext → Ext) (x : Slot) (k n : Nat) : Factor :=
  mkFactor ((formatOfCode x.ef).getD .f16) cmp (slotPattern x k n) (if 2 ≤ x.ef then some (slotScale x k n) else none)

/-! ### The order of a slot's accesses (R361, R362) -/

/-- The load an operation is, with its slot. -/
def wbufSlot (o : Op) : Option Nat :=
  match copyOf o with
  | some p => match p.kind with
    | .wbuf _ f => some f
    | .cpy _ _ => none
    | .tsmov _ _ => none
  | none => none

/-- The slot an operation of the matrix engine fetches. -/
def fetchSlot (o : Op) : Option Nat := ((mmaoOf o).map MmaoOp.slot).orElse (fun _ => (mmatOf o).map MmatOp.slot)

/-- The operation is an access to slot f. -/
def usesSlot (o : Op) (f : Nat) : Bool := wbufSlot o == some f || fetchSlot o == some f

/-- The operation is a reload from the slot list (R364). -/
def isReload (o : Op) : Bool := o.flag.isNone && (wbufSlot o).isSome

/-- R362, R364, R381: where an access stands in its core's order: by its turn, and among those of one crew that a restore has
brought back, the reloads of the slot list first, then the others as they were issued. -/
abbrev Rank := Nat × Nat × Nat

/-- One place before another. -/
def Rank.before (a b : Rank) : Bool :=
  decide (a.1 < b.1) || (a.1 == b.1 && (decide (a.2.1 < b.2.1) || (a.2.1 == b.2.1 && decide (a.2.2 < b.2.2))))

/-- The place of an operation. -/
def opRank (o : Op) : Rank := (o.turn, if isReload o then 0 else 1, o.id)

/-- The place of an INVAL. -/
def SlotInval.rank (v : SlotInval) : Rank := (v.turn, 1, v.id)

/-- R362: no access to slot f of a core before a place is still to be done; a saved crew's accesses are not the core's (R21). -/
def slotClear (d : Dev) (core f : Nat) (r : Rank) : Bool :=
  !d.crews.any (fun c => c.core == core && c.state != .saved && c.ops.any (fun o => usesSlot o f && (opRank o).before r))

/-- The INVAL waits among a core's accesses: not that of a crew that is saved, which waits for its crew. -/
def invalLive (d : Dev) (v : SlotInval) : Bool := !d.crews.any (fun c => v.crew == some c.uid && c.state == .saved)

/-- R362: operation o of crew c, an access to slot f, has its turn: none issued before it on its core is still to be
done. -/
def slotTurn (d : Dev) (c : Crew) (f : Nat) (o : Op) : Bool :=
  slotClear d c.core f (opRank o) &&
  !d.slotInvals.any (fun v => v.core == c.core && v.slot == f && invalLive d v && v.rank.before (opRank o))

/-- R361: a slot's contents and V cleared. -/
def clearSlot (d : Dev) (key : Nat) : Dev := { d with slots := tabSet default d.slots key default }

/-- R361, R362: the INVALs whose turn has come take effect. -/
def settleSlots (d : Dev) : Dev :=
  d.slotInvals.foldl (fun d v =>
    if invalLive d v && slotClear d v.core v.slot v.rank then
      { clearSlot d (16 * v.core + v.slot) with slotInvals := d.slotInvals.filter (fun q => q != v) }
    else d) d

/-- R362: the INVALs of a crew as it is saved: they go on among the core's accesses without it, and one that follows a load of
the crew's own waits with the crew besides, to follow the load when that is resumed. -/
def saveInvals (c : Crew) (l : List SlotInval) : List SlotInval :=
  l.flatMap (fun v =>
    if v.crew != some c.uid then [v]
    else { v with crew := none } :: (if c.ops.any (fun o => wbufSlot o == some v.slot && (opRank o).before v.rank) then [v] else []))

/-- R362: the INVALs of a crew as it is restored on a core: they stand among its operations as they were issued. -/
def restoreInvals (uid core n : Nat) (l : List SlotInval) : List SlotInval :=
  l.map (fun v => if v.crew == some uid then { v with core := core, turn := n } else v)

/-- R355: a load that writes slot f of a core is outstanding. -/
def loadPending (crews : List Crew) (core f : Nat) (reaches : Crew → CopyOp → Nat → Bool) : Bool :=
  crews.any (fun c => c.ops.any (fun o => match copyOf o with
    | some p => wbufSlot o == some f && reaches c p core
    | none => false))

end Sys2Proof.Machine
end

