-- ==== Sys2Proof/Machine/Salamander.lean ====
section
/-! DEFINITION. Salamander: its batches, the fault queues, arrivals, and what the host and system software answer (R315
to R320, R323 to R327, R480, R492). -/

namespace Sys2Proof.Machine

/-! ### Fault queues (R326, R492) -/

/-- A message sent outward. -/
def send (d : Dev) (m : OutMsg) : Dev := { d with out := m :: d.out }

/-- The entries a slot's fault queue holds (R308). -/
def fqSize (c : Context) : Nat := 2 ^ (c.fq.toNat % 16 + 4)

/-- The physical address of the entry CXFQTAIL names (R326). -/
def fqAddress (c : Context) : Nat := (c.fq.extractLsb' 12 40).toNat * 4096 + 32 * (c.fqTail.toNat % fqSize c)

/-- There is room in the queue (R326). -/
def fqRoom (c : Context) : Bool := (c.fqTail - c.fqHead).toNat < fqSize c

/-- The 32 bytes of an entry (R326). -/
def fqBytes (e : FqEntry) : List Byte :=
  bytesLE 8 e.va.toNat ++ bytesLE 4 e.seq ++ bytesLE 1 e.kind ++ bytesLE 1 e.acc ++ bytesLE 1 e.die ++ zeroBytes 1 ++
  bytesLE 8 e.pa.toNat ++ zeroBytes 8

/-- R492: a fault-queue write there fails. -/
def fqFails (d : Dev) (a : Nat) : Bool := !paExists d a || linePoisoned d (a / 128)

/-- R326, R492: the entries Salamander holds for a slot written in order, as far as they go; at most `fuel`. -/
def writeHeld (n slot : Nat) : Nat → Dev → Dev
  | 0, d => d
  | fuel + 1, d =>
    let c := ctxOf d slot
    match c.held with
    | [] => d
    | e :: rest =>
      if c.fqErr || !fqRoom c then d
      else
        let a := fqAddress c
        if fqFails d a then send (updCtx d slot (fun c => { c with fqErr := true })) (.msix 64)
        else
          let d1 := storeBytes 0 (touchLine d n (a / 128) true 0) a (fqBytes e)
          let d2 := updCtx d1 slot (fun c => { c with held := rest, fqTail := c.fqTail + 1 })
          writeHeld n slot fuel (send d2 (.msix slot))

/-- The entries held for a slot written. -/
def flushFq (d : Dev) (n slot : Nat) : Dev := writeHeld n slot (ctxOf d slot).held.length d

/-- R326: an entry posted to a slot's queue under its next sequence number. -/
def postFq (d : Dev) (n slot : Nat) (e : FqEntry) : Dev :=
  let seq := (ctxOf d slot).fqSeq
  flushFq (updCtx d slot (fun c => { c with fqSeq := (seq + 1) % 2 ^ 32, held := c.held ++ [{ e with seq := seq }] })) n slot

/-- R326: FQFULL, entries held for want of room. -/
def fqFull (c : Context) : Bool := !c.held.isEmpty && !c.fqErr && !fqRoom c

/-! ### What waits for a page -/

/-- The waiting parts of a missing page go on: fragments begin again; an operation whose last missing page this was
resumes, unless its crew is saved (R36, R322, R324). -/
def releaseLink (clk n : Nat) (d : Dev) (k : Link) : Dev :=
  match k with
  | .op u id => match findCrew d u with
    | none => d
    | some c => match findOp c id with
      | none => d
      | some o =>
        let left := missingCount d k
        let c1 := match o.recOff with
          | some p => parkPut c (p + 6) (bytesLE 2 left)
          | none => c
        let parked := match o.status with
          | .parked _ => true
          | .inflight | .late _ | .trapped _ _ => false
        let c2 := if left == 0 && parked && c.state != .saved then resumeIn d n c1 o else c1
        updCrew d u (fun _ => c2)
  | .frag f => updFrag d f (fun x => { x with status := .ready, resume := .fresh, age := clk })
  | .queue _ | .launch _ | .done _ | .page _ _ _ | .none => d

/-- A missing page gone, its links released. -/
def releasePage (clk n : Nat) (d : Dev) (m : Missing) : Dev :=
  m.links.foldl (releaseLink clk n) { d with missing := d.missing.filter (fun x => x != m) }

/-! ### Batches (R320, R323) -/

/-- The missing pages a die's Salamander has gathered. -/
def gathered (d : Dev) (die : Nat) : List Missing := d.missing.filter (fun m => m.die == die && m.phase == .gathering)

/-- R323: a batch is due: 64 pages, or 256 clocks since the first. -/
def batchDue (d : Dev) (die clk : Nat) : Bool :=
  64 ≤ (gathered d die).length || (gathered d die).any (fun m => decide (m.since + 256 ≤ clk))

/-- A missing page in another phase. -/
def setPhase (d : Dev) (m : Missing) (p : MissPhase) : Dev :=
  { d with missing := d.missing.map (fun x => if x == m then { x with phase := p } else x) }

/-- R326: a device-table page asked for in the fault queue. -/
def askQueue (n : Nat) (d : Dev) (m : Missing) : Dev :=
  let seq := (ctxOf d m.slot).fqSeq
  postFq (setPhase d m (.asked seq)) n m.slot ⟨pageVa m.page, 0, 1, m.acc, m.die, 0#64⟩

/-- R320: the least group index of a PASID that is free. -/
def freeGroup (d : Dev) (pasid : Nat) : Option Nat := (List.range 512).find? (fun i => !d.groups.contains (pasid, i))

/-- The number under which a missing page remembers its group. -/
def groupKey (pasid index : Nat) : Nat := pasid * 512 + index

/-- R320: the pages of one page request group sent, the last one flagged. -/
def sendGroup (pasid index : Nat) : List Missing → Dev → Dev
  | [], d => d
  | m :: rest, d =>
    let d1 := send d (.pageRequest pasid m.page m.acc index rest.isEmpty)
    sendGroup pasid index rest (setPhase d1 m (.requested (groupKey pasid index)))

/-- R320: the host pages a batch holds for a context, in one group; they stay gathered while none may be sent. -/
def askHost (clk n : Nat) (ms : List Missing) (d : Dev) (slot : Nat) : Dev :=
  let c := ctxOf d slot
  let mine := ms.filter (fun m => m.slot == slot && m.host)
  if mine.isEmpty then d
  else if !c.prien then mine.foldl (releasePage clk n) d
  else if c.priStop || !d.host.up || d.host.pri ≤ d.groups.length then d
  else match freeGroup d c.pasid with
    | none => d
    | some i => sendGroup c.pasid i mine { d with groups := d.groups ++ [(c.pasid, i)] }

/-- R323: a batch of a die sent. -/
def sendBatch (s : State) (die : Nat) : State :=
  let ms := gathered s.dev die
  let d := (ms.filter (fun m => !m.host)).foldl (askQueue s.nfree) s.dev
  { s with dev := ((ms.map Missing.slot).eraseDups).foldl (askHost s.clk s.nfree ms) d }

/-- SALAMANDER_BATCH (R323). -/
def execSalamanderBatch (die : Nat) (s : State) : Out :=
  event s (fun s => if batchDue s.dev die s.clk then sendBatch s die else s)

/-! ### Arrivals (R324) -/

/-- The access whose bits are coded as ACC is. -/
def wantOf (acc : Nat) : Want := ⟨acc.testBit 0, acc.testBit 1, acc.testBit 2⟩

/-- What becomes of an answered page that Salamander looks for. -/
inductive Look where
  | arrived
  | absent (host : Bool)               -- still not present, and who is to be asked for it
  | asks (entry : Bool × Bool × Bool)  -- the host is to be asked afresh, its table entry granting these
  | waits                              -- that request cannot be sent: the host link is down
  deriving DecidableEq, Repr

/-- R320, R324: whether a page answered by system software or by the host is present now: a walk says so of a device page, and
of a host page a request under R315 that is sent afresh. -/
def lookFor (d : Dev) (n : Nat) (m : Missing) : Look :=
  match (walk d m.die m.slot n (m.page * 4096)).out with
  | .absent => .absent false
  | .malformed | .poison | .leaf _ _ _ _ _ _ _ => .arrived
  | .host rd wr ex =>
    if !m.host || !(ctxOf d m.slot).pasiden || !d.host.ats then .arrived
    else if d.host.up then .asks (rd, wr, ex)
    else .waits

/-- The missing page of a die, slot and page number in one of its phases. -/
def answeredPage (d : Dev) (die slot page : Nat) (p : MissPhase) : Option Missing :=
  d.missing.find? (fun m => m.die == die && m.slot == slot && m.page == page && m.phase == p)

/-- A missing page that is still not present: it is missing again, and asked for in the next batch (R324). -/
def missAgain (d : Dev) (clk : Nat) (m : Missing) (host : Bool) : Dev :=
  { d with missing := d.missing.map (fun x => if x == m then { x with phase := .gathering, since := clk, host := host } else x) }

/-- Salamander looks for a page answered: it arrives, becomes missing again, or is asked of the host afresh. -/
def lookAt (s : State) (m : Missing) : State :=
  let d := touchLines s.dev s.nfree 0 (walk s.dev m.die m.slot s.nfree (m.page * 4096)).lines
  match lookFor s.dev s.nfree m with
  | .arrived => { s with dev := releasePage s.clk s.nfree d m }
  | .absent h => { s with dev := missAgain d s.clk m h }
  | .asks e =>
    { s with dev := sendAts (setPhase d m .looking) m.die m.slot m.page (wantOf m.acc) e false [.page m.die m.slot m.page] none }
  | .waits => s

/-- PAGE_ARRIVE: Salamander looks for a page that has been answered, or takes in one its request found (R324). -/
def execPageArrive (die slot page : Nat) (s : State) : Out :=
  event s (fun s => match answeredPage s.dev die slot page .resolved with
    | some m => lookAt s m
    | none => match answeredPage s.dev die slot page .found with
      | some m => { s with dev := releasePage s.clk s.nfree s.dev m }
      | none => s)

/-! ### ATS (R315 to R318) -/

/-- The context slots bound to a PASID (R318). -/
def slotsOfPasid (d : Dev) (pasid : Nat) : List Nat :=
  (d.contexts.filter (fun e => e.2.en && e.2.pasid == pasid)).map Prod.fst

/-- The fields of a Translation Completion: permissions in bits 0 to 2, log2 of the size less 12 in bits 8 to 3, the
host physical address in bits 51 to 12 (assumption 18). -/
structure AtsAnswer where
  rd   : Bool
  wr   : Bool
  ex   : Bool
  size : Nat
  pa   : Nat

/-- A completion's fields. -/
def AtsAnswer.ofWord (v : BitVec 64) : AtsAnswer :=
  ⟨v.getLsbD 0, v.getLsbD 1, v.getLsbD 2, 12 + (v.extractLsb' 3 6).toNat, (v.extractLsb' 12 36).toNat * 4096⟩

/-- The binding the request was sent for still stands. -/
def atsBound (d : Dev) (r : AtsReq) : Bool :=
  let c := ctxOf d r.slot
  c.en && c.tag == r.tag && c.gen == r.gen

/-- R316: the permissions of a completion that its table entry grants too. -/
def AtsAnswer.under (a : AtsAnswer) (entry : Bool × Bool × Bool) : AtsAnswer :=
  { a with rd := a.rd && entry.1, wr := a.wr && entry.2.1, ex := a.ex && entry.2.2 }

/-- R316: the completion lacks a permission that the request asked for. -/
def refusesReq (r : AtsReq) (a : AtsAnswer) : Bool := (r.rd && !a.rd) || (r.wr && !a.wr) || (r.ex && !a.ex)

/-- R316, R320, R324: one access that waited for a completion: what is refused is noted for it; where Salamander itself looked
for the page, the page is found where one waiting access gets what it wants, and otherwise missing again. -/
def answerLink (clk : Nat) (r : AtsReq) (a : AtsAnswer) (d : Dev) (k : Link) : Dev :=
  match k with
  | .page die slot page => match answeredPage d die slot page .looking with
    | none => d
    | some m =>
      if m.wants.any (fun w => grants a.rd a.wr a.ex (wantOf w)) then setPhase d m .found else missAgain d clk m true
  | .op _ _ | .frag _ | .queue _ | .launch _ | .done _ | .none =>
    if refusesReq r a then
      { d with atsDenied := ⟨r.slot, k, r.page, r.rd && !a.rd, r.wr && !a.wr, r.ex && !a.ex⟩ :: d.atsDenied }
    else d

/-- R311, R315, R316: a completion that is not stale: what it grants is cached under the tag and generation of its request, at
the die that asked, with an address of 48 bits (R457); what it refuses is noted for each access that waits, while the binding
stands; a prediction refused becomes a missing page without a link (R325). -/
def takeAnswer (d : Dev) (clk n : Nat) (r : AtsReq) (a0 : AtsAnswer) : Dev :=
  let a := a0.under r.entry
  let base := r.page * 4096 / 2 ^ a.size * 2 ^ a.size
  let e : TlbEntry := ⟨1536 + r.die, r.tag, r.gen, base, a.size, a.pa / 2 ^ a.size * 2 ^ a.size, 0, a.rd, a.wr, a.ex, true⟩
  let d1 := if a.rd || a.wr || a.ex then { d with tlb := keepTlb n d.tlb e } else d
  if !atsBound d r then d1
  else
    let d2 := r.links.foldl (answerLink clk r a) d1
    match if refusesReq r a then r.pred else none with
    | some die => addMissing d2 die r.slot r.page clk true ⟨r.rd, r.wr, r.ex⟩ []
    | none => d2

/-- R317: a stale request sent again for the accesses that wait. -/
def askAgain (d : Dev) (r : AtsReq) : Dev :=
  sendAts d r.die r.slot r.page ⟨r.rd, r.wr, r.ex⟩ r.entry true r.links r.pred

/-- A page whose request cannot be sent again while the host link is down is looked for later. -/
def lookLater (d : Dev) (k : Link) : Dev :=
  match k with
  | .page die slot page => match answeredPage d die slot page .looking with
    | some m => setPhase d m .resolved
    | none => d
  | .op _ _ | .frag _ | .queue _ | .launch _ | .done _ | .none => d

/-- ATS_COMPLETION: the completion of request i arrives; a stale one is discarded, and its page requested again for the
binding that still stands (R315 to R317). -/
def execAtsCompletion (i : Nat) (v : BitVec 64) (s : State) : Out :=
  event s (fun s => match s.dev.atsReqs.find? (fun r => r.id == i) with
    | none => s
    | some r =>
      let d := { s.dev with atsReqs := s.dev.atsReqs.filter (fun x => x.id != i) }
      if r.stale then
        { s with dev := if !atsBound d r then d else if d.host.up then askAgain d r else r.links.foldl lookLater d }
      else { s with dev := takeAnswer d s.clk s.nfree r (AtsAnswer.ofWord v) })

/-- R317: outstanding requests under a PASID for pages of a range become stale. -/
def staleRange (pasid lo len : Nat) (d : Dev) : Dev :=
  { d with atsReqs := d.atsReqs.map (fun r =>
      if r.pasid == pasid && rangesMeet lo len (r.page * 4096) 4096 then { r with stale := true } else r) }

/-- The refusals noted for a slot's pages of a range are forgotten. -/
def forgetDenied (lo len : Nat) (d : Dev) (slot : Nat) : Dev :=
  { d with atsDenied := d.atsDenied.filter (fun a => !(a.slot == slot && rangesMeet lo len (a.page * 4096) 4096)) }

/-- ATS_INVALIDATION: the host withdraws a range of a PASID (R317, R318); one that names no bound slot completes at
once. -/
def execAtsInvalidation (pasid : Nat) (addr : BitVec 64) (size tag : Nat) (s : State) : Out :=
  event s (fun s =>
    let lo := vaBits addr.toNat
    let d0 := staleRange pasid lo size s.dev
    match slotsOfPasid d0 pasid with
    | [] => { s with dev := send d0 (.invalidationCompletion tag) }
    | slots =>
      let tags := slots.map (fun k => (ctxOf d0 k).tag)
      let d1 := slots.foldl (forgetDenied lo size) (tags.foldl (fun d t => dropRange d t lo size) d0)
      let users : Users := (d1.crews.filter (fun c => tags.contains c.ctag)).flatMap (fun c => rangeUsers c lo size)
      { s with dev := { d1 with invals := d1.invals ++ [⟨d1.nextInv, .ats tag, users⟩], nextInv := d1.nextInv + 1 } })

/-! ### Refusals and failures (R320, R327) -/

/-- The address at which an operation met a page: that of its first piece parked there, or the one its record names (R329). -/
def faultVa (o : Op) (page : Nat) : Nat :=
  let own := if vaBits o.va.toNat / 4096 == page then o.va.toNat else (pageVa page).toNat
  match memOf o with
  | some m => match m.pieces.find? (fun p => p.parked && vaBits p.va / 4096 == page) with
    | some p => p.va
    | none => own
  | none => own

/-- R320, R364: an operation that waits for a page the host refuses, to write it or not: it parks with the trap cause; a reload
that fails so contains its crew with that cause. -/
def refuseOp (d : Dev) (write granted : Bool) (u id page : Nat) : Dev :=
  match findCrew d u with
  | none => d
  | some c => match findOp c id with
    | none => d
    | some o =>
      let d1 := dropLink d (fun k => k == .op u id)
      let cause := if write && granted then 0x02 else 0x03
      updCrew d1 u (fun _ =>
        if isReload o then { c with contained := c.contained.orElse (fun _ => some cause) }
        else stopOp c o cause true 0 (faultVa o page))

/-- A crew contained for a page that will not come (R320, R327). -/
def condemn (d : Dev) (u : Nat) : Dev := updCrew d u (fun c => { c with contained := some 0x01 })

/-- R152: a card that cannot be read is dropped from its queue. -/
def dropCard (d : Dev) (q : Nat) : Dev := updQueue d q (fun x => cardError 0 (popCard x))

/-- R41: a DONE word that cannot be written is lost. -/
def dropDone (d : Dev) (k : Nat) : Dev :=
  match d.jobs[k]? with
  | some j => endJob (doneLost d j) k j
  | none => d

/-- R320: one waiting party of a page answered Invalid Request; `writes` are those that want to write the page. -/
def refuseLink (writes : List Link) (granted : Bool) (page : Nat) (s : State) (k : Link) : State :=
  match k with
  | .op u id => { s with dev := refuseOp s.dev (writes.contains k) granted u id page }
  | .frag f =>
    let t := focusOn s f
    if t.active then
      stow (if t.frag.status == .fetchWait then takeTrap (atHeader t) 0x03 false else takeTrap t 0x03 false)
    else s
  | .queue q => { s with dev := dropCard s.dev q }
  | .launch f => match s.dev.launches.find? (fun l => l.who == f) with
    | some l => answerLaunch s l 0#64 s.dev
    | none => s
  | .done j => { s with dev := dropDone s.dev j }
  | .page _ _ _ | .none => s

/-- R320, R327: one waiting party of a page that fails: crews are contained. -/
def failLink (d : Dev) (k : Link) : Dev :=
  match k with
  | .op u _ => condemn d u
  | .frag f => condemn d f.crew
  | .launch f => condemn d f.crew
  | .queue q => dropCard d q
  | .done j => dropDone d j
  | .page _ _ _ | .none => d

/-- A missing page that fails. -/
def failPage (d : Dev) (m : Missing) : Dev :=
  m.links.foldl failLink { d with missing := d.missing.filter (fun x => x != m) }

/-- Both stand for the same page of the same group. -/
def samePage (m x : Missing) : Bool :=
  x.die == m.die && x.slot == m.slot && x.tag == m.tag && x.gen == m.gen && x.page == m.page && x.phase == m.phase

/-- R320: a page answered Invalid Request; an operation refused on another page of the group waits no more. -/
def refusePage (s : State) (m : Missing) : State :=
  let granted := (tlbFor s.dev (dieAsker m.die .none) m.slot (m.page * 4096)).any (fun e => e.host && e.rd)
  let same := s.dev.missing.filter (samePage m)
  (same.flatMap Missing.links).foldl (refuseLink (same.flatMap Missing.wlinks) granted m.page)
    { s with dev := { s.dev with missing := s.dev.missing.filter (fun x => !samePage m x) } }

/-- PRG_RESPONSE: the host answers a page request group, named by its PASID times 512 and its index: 0 Success, 1
Invalid Request, else Response Failure (R320; assumption 18). -/
def execPrgResponse (group code : Nat) (s : State) : Out :=
  event s (fun s =>
    let pasid := group / 512
    if !s.dev.groups.contains (pasid, group % 512) then s
    else
      let d := { s.dev with groups := s.dev.groups.filter (fun g => g != (pasid, group % 512)) }
      let ms := d.missing.filter (fun m => m.phase == .requested group)
      match code with
      | 0 => { s with dev := ms.foldl (fun d m => setPhase d m .resolved) d }
      | 1 => ms.foldl refusePage { s with dev := d }
      | _ =>
        let d1 := ms.foldl failPage d
        { s with dev := (slotsOfPasid d1 pasid).foldl (fun d k => updCtx d k (fun c => { c with priStop := true })) d1 })

end Sys2Proof.Machine
end

