-- ==== Sys2Proof/Machine/ContextRegs.lean ====
section
/-! DEFINITION. The registers of a context slot: binding, status, invalidation, pre-emption, the fault queue's base and
head, and the control words reached through CXCWN and CXCWD (R308 to R311, R313, R326, R485, R492). -/

namespace Sys2Proof.Machine

/-- A write to a register of context slot n. -/
def slotReg (slot : Nat) (s : State) (k : State → State) : Out := hostReg s (fun s => if slot < 64 then k s else s)

/-- R308: LIVE: a job of the slot's context is queued, or a crew of it is placed or saved. -/
def ctxLive (d : Dev) (slot : Nat) : Bool :=
  let c := ctxOf d slot
  c.en && (d.crews.any (fun x => x.ctx == slot) ||
    d.queues.any (fun q => q.2.ctag == c.tag && !q.2.cards.isEmpty) ||
    d.launches.any (fun l => l.ctx == slot) || d.jobs.any (fun j => j.ctx == slot && !jobEnded j))

/-- The fields of CXCTL (R308). -/
structure CxCtl where
  en      : Bool
  pasiden : Bool
  prien   : Bool
  tag     : Nat
  pasid   : Nat
  deriving DecidableEq, Repr

/-- CXCTL's fields in a word. -/
def CxCtl.ofWord (v : BitVec 64) : CxCtl :=
  ⟨v.getLsbD 0, v.getLsbD 1, v.getLsbD 2, (v.extractLsb' 4 12).toNat, (v.extractLsb' 20 20).toNat⟩

/-- CXCTL's fields as a slot holds them. -/
def CxCtl.ofContext (c : Context) : CxCtl := ⟨c.en, c.pasiden, c.prien, c.tag, c.pasid⟩

/-- R309: the writes to CXCTL that are refused. -/
def cxctlRefused (d : Dev) (slot : Nat) (x : CxCtl) : Bool :=
  let old := CxCtl.ofContext (ctxOf d slot)
  (x.en && d.contexts.any (fun e => e.1 != slot && e.2.en && e.2.tag == x.tag)) ||
  (ctxLive d slot && { x with prien := old.prien } != old) ||
  (old.en && x.en && (old.tag != x.tag || old.pasid != x.pasid))

/-- R16: a weight slot last loaded under a tag and generation that are bound anew holds another context's data: it is no load
of the new one. -/
def orphanSlot (tag gen : Nat) (x : Slot) : Slot := if x.tag == tag && x.gen == gen then { x with gen := 16 } else x

/-- R309 to R311: a slot bound: the tag's next generation, the control words at their reset values, and WRAP where the
generation has come round.  The held fault-queue entries and the missing pages of the slot go, and CXFQTAIL keeps its
value; R309 names neither (DESIGN CHOICE; assumption 87). -/
def bindSlot (d : Dev) (slot tag : Nat) : Dev :=
  let t := tabGet 0 d.tagGen tag
  let gen := if t == 0 then 0 else t % 16
  let d1 := updCtx d slot (fun c => { c with
    gen := gen, words := [], oldTabs := [], fqSeq := 0, held := [] })
  { d1 with
    tagGen := tabSet 0 d1.tagGen tag (gen + 1)
    wraps := if gen == 0 && t != 0 then tag :: d1.wraps else d1.wraps
    atsDenied := d1.atsDenied.filter (fun a => a.slot != slot)
    atsReqs := if gen == 0 && t != 0 then d1.atsReqs.map (fun r => if r.tag == tag then { r with stale := true } else r)
               else d1.atsReqs
    missing := d1.missing.filter (fun m => m.slot != slot)
    slots := d1.slots.map (fun e => (e.1, orphanSlot tag gen e.2)) }

/-- CXCTL (R309). -/
def execCxctl (slot : Nat) (v : BitVec 64) (s : State) : Out :=
  slotReg slot s (fun s =>
    let x := CxCtl.ofWord v
    if cxctlRefused s.dev slot x then { s with dev := updCtx s.dev slot (fun c => { c with refused := true }) }
    else
      let fresh := x.en && !(ctxOf s.dev slot).en
      let d := updCtx s.dev slot (fun c => { c with
        en := x.en, pasiden := x.pasiden, prien := x.prien, tag := x.tag, pasid := x.pasid, refused := false,
        priStop := false })
      { s with dev := if fresh then bindSlot d slot x.tag else d })

/-- WRAP_CLEAR: the removal of a wrapped tag's entries finishes (R311). -/
def execWrapClear (tag : Nat) (s : State) : Out :=
  event s (fun s =>
    if s.dev.wraps.contains tag then
      { s with dev := { s.dev with
          wraps := s.dev.wraps.filter (fun t => t != tag)
          tlb := s.dev.tlb.filter (fun e => e.tag != tag)
          walks := s.dev.walks.filter (fun w => w.tag != tag)
          pc := { s.dev.pc with l1 := s.dev.pc.l1.filter (fun x => x.tag != tag) } } }
    else s)

/-- CXINVC: a full invalidation of the slot's context (R313). -/
def execCxinvc (slot : Nat) (v : BitVec 64) (s : State) : Out :=
  slotReg slot s (fun s =>
    let c := ctxOf s.dev slot
    let size := (v.extractLsb' 0 6).toNat
    let all := v.getLsbD 6
    if c.invBusy || (!all && (size < 12 || 57 < size)) then s
    else
      let lo := if all then 0 else vaBits c.inva.toNat / 4096 * 4096
      let d := updCtx s.dev slot (fun c => { c with invBusy := true })
      { s with dev := startInval d (.cxinvc slot) c.tag lo (2 ^ (if all then 57 else size)) })

/-- CXFRESP: system software answers a fault-queue entry (R327); ignored while the slot is not bound. -/
def execCxfresp (slot : Nat) (v : BitVec 64) (s : State) : Out :=
  slotReg slot s (fun s =>
    let seq := (v.extractLsb' 0 32).toNat
    if !(ctxOf s.dev slot).en then s
    else match s.dev.missing.find? (fun m => m.slot == slot && m.phase == .asked seq) with
      | none => s
      | some m => { s with dev := if v.getLsbD 32 then failPage s.dev m else setPhase s.dev m .resolved })

/-- CXPRE: pre-emption requests for the context, or for the job CXPREJ names (R167, R308). -/
def execCxpre (slot : Nat) (v : BitVec 64) (s : State) : Out :=
  slotReg slot s (fun s =>
    if v.getLsbD 0 then { s with dev := preemptCrews s.dev s.clk slot (ctxOf s.dev slot).prej } else s)

/-- CXFQ: the fault queue's base and size; FQERR clears and held entries are written (R492). -/
def execCxfq (slot : Nat) (v : BitVec 64) (s : State) : Out :=
  slotReg slot s (fun s =>
    { s with dev := flushFq (updCtx s.dev slot (fun c => { c with
        fq := v &&& 0x000FFFFFFFFFF00F#64, fqErr := false })) s.nfree slot })

/-- CXFQHEAD: entries consumed; held ones are written (R326). -/
def execCxfqhead (slot : Nat) (v : BitVec 64) (s : State) : Out :=
  slotReg slot s (fun s =>
    { s with dev := flushFq (updCtx s.dev slot (fun c => { c with fqHead := v })) s.nfree slot })

/-- CXCWN: a control word selected (R310). -/
def execCxcwn (slot : Nat) (v : BitVec 64) (s : State) : Out :=
  slotReg slot s (fun s =>
    { s with dev := updCtx s.dev slot (fun c => { c with cwn := (v.extractLsb' 0 16).toNat, cwErr := false }) })

/-- The selected word may be reached (R310). -/
def cwReachable (c : Context) : Bool := c.en && isCtxWord c.cwn

/-- What a read of CXCWD returns (R310). -/
def cxcwdValue (d : Dev) (slot : Nat) : DWord :=
  let c := ctxOf d slot
  if cwReachable c then (ctxRead d slot c.cwn).setWidth 64 else 0#64

/-- CWERR set. -/
def cwRefuse (s : State) (slot : Nat) : State := { s with dev := updCtx s.dev slot (fun c => { c with cwErr := true }) }

/-- CXCWD read: its value is cxcwdValue; a word that may not be reached sets CWERR (R310). -/
def execCxcwdRead (slot : Nat) (s : State) : Out :=
  slotReg slot s (fun s => if cwReachable (ctxOf s.dev slot) then s else cwRefuse s slot)

/-- CXCWD written: the selected word is written as CTLWR would (R310). -/
def execCxcwdWrite (slot : Nat) (v : BitVec 64) (s : State) : Out :=
  slotReg slot s (fun s =>
    let c := ctxOf s.dev slot
    if !cwReachable c then cwRefuse s slot
    else match ctxWrite s slot c.cwn (v.setWidth 32) with
      | some t => t
      | none => cwRefuse s slot)

end Sys2Proof.Machine
end

