-- ==== Sys2Proof/Machine/JobInstr.lean ====
section
/-! DEFINITION. The JOB and PBAR instructions (R155 to R170, R175 to R177), exits and joins (R163, R188), and the
retirement of waves (R34, R269). -/

namespace Sys2Proof.Machine

/-- The job of the crew in focus. -/
def jobHere (s : State) : Job := (findJob s.dev s.crew.job).getD default

/-! ### LAUNCH, NEXT, TRIG, DEPWAIT -/

/-- The trap a card address of the program takes (R157). -/
def cardAddrTrap (a : DWord) : Option Nat :=
  if a.extractLsb' 0 8 != 0#8 then some 0x07 else if !canonical a then some 0x05 else none

/-- The fragment waits at its instruction for a missing page and reissues it when the page arrives (R157, R164). -/
def waitPage (s : State) (d : Dev) (w : WaitFor) (a : DWord) (host : Bool) (want : Want) : State :=
  { s with
    dev := addMissing d (dieHere s) s.crew.ctx (vaBits a.toNat / 4096) s.clk host want [.frag (selfRef s)]
    frag := { s.frag with status := .blocked w, resume := .fresh } }

/-- A translation fault at an instruction: poison contains the crew, the rest is a precise trap. -/
def pageTrap (s : State) (cause : Nat) : State :=
  if cause == 0x04 then { s with crew := { s.crew with contained := some 0x04 } } else takeTrap s cause false

/-- JOB.LAUNCH: the card's address goes to the die's dispatch engine, and the fragment waits for the answer (R157). -/
def execJobLaunch (a b : BitVec 8) (s : State) : Out :=
  checked (.jobLaunch a b) .control s (fun s => blockBehind s (fun s =>
    if s.frag.resume == .released then advance s
    else
      let addr := readS64 s (a.toNat - 0x80)
      match cardAddrTrap addr with
      | some c => takeTrap s c false
      | none =>
        let die := dieHere s
        match translate64 s.dev (fragAsker s) s.crew.ctx s.nfree addr.toNat wantRead with
        | (.trap c, d) => pageTrap { s with dev := d } c
        | (.wait, d) => block { s with dev := d } .launch
        | (.miss h, d) => waitPage s d .launch addr h wantRead
        | (.ok _ _, d) =>
          if 256 ≤ (d.launches.filter (fun l => l.die == die)).length then
            block { s with dev := d } .launch
          else
            block { s with dev := { d with launches := d.launches ++
              [⟨die, selfRef s, addr, b.toNat - 0x80, s.crew.ctx, s.crew.ctag⟩] } } .launch))

/-- The waves of a job placed and not retired, those of saved crews left out (R159, R173). -/
def liveWaves (s : State) : Nat :=
  s.crew.waves.length + 1 +
  ((s.dev.crews.filter (fun c => c.job == s.crew.job && c.state != .saved)).map (fun c => c.waves.length)).sum

/-- R159: the next chunk of a job, dealt to a job with L live waves. -/
def dealChunk (j : Job) (L : Nat) : Chunk × Job :=
  match j.returned with
  | k :: rest => (k, { j with returned := rest })
  | [] =>
    let rem := j.card.reccount - j.next
    let count := min rem (max 1 ((rem + 2 * L - 1) / (2 * L)))
    (⟨j.next, count⟩, { j with next := j.next + count })

/-- JOB.NEXT (R158, R159). -/
def execJobNext (a : BitVec 8) (s : State) : Out :=
  checked (.jobNext a) .control s (fun s =>
    let r := a.toNat - 0x80
    let (k, j) := dealChunk (jobHere s) (liveWaves s)
    let addr := j.card.recbase + BitVec.ofNat 64 (k.first * j.card.recsize)
    let s1 := { s with
      dev := updJob s.dev s.crew.job (fun _ => j)
      crew := { s.crew with taken := if k.count == 0 then s.crew.taken else s.crew.taken ++ [k] } }
    advance (writeS64 (writeS (writeS s1 r (BitVec.ofNat 32 k.first)) (r + 1) (BitVec.ofNat 32 k.count)) (r + 2) addr))

/-- JOB.TRIG (R160). -/
def execJobTrig (s : State) : Out :=
  checked .jobTrig .control s (fun s => afterAccesses s (fun s =>
    let c := { s.crew with trigged := if s.crew.trigged.contains s.wave.idx then s.crew.trigged
                                      else s.crew.trigged ++ [s.wave.idx] }
    advance { s with crew := c, dev := noteTriggered s.dev c }))

/-- The producers of the job in focus (R161). -/
def producers (s : State) : List DWord := (jobHere s).card.deps.filter (fun x => x != 0#64)

/-- R161: every producer is complete. -/
def depsDone (d : Dev) (job : DWord) : Bool :=
  match findJob d job with
  | some j => (j.card.deps.filter (fun x => x != 0#64)).all (idComplete d)
  | none => true

/-- JOB.DEPWAIT (R161). -/
def execJobDepwait (a : BitVec 8) (s : State) : Out :=
  checked (.jobDepwait a) .control s (fun s =>
    if depsDone s.dev s.crew.job then
      advance (writeS s (a.toNat - 0x80) (if (producers s).any (idFailed s.dev) then 1#32 else 0#32))
    else block s .depwait)

/-! ### EXIT and EXITS (R163 to R165, R188) -/

/-- R188: the lanes of an exiting fragment leave the records of its chain; empty records go. -/
def leaveJoins (w : Wave) (f : Frag) : Wave :=
  let chain := (joinChain w 257 f.join).map JoinRec.id
  { w with joins := (w.joins.map (fun j =>
      if chain.contains j.id then { j with lanes := j.lanes &&& ~~~ f.lanes } else j)).filter (fun j => j.lanes != 0#96) }

/-- R187, R188: every record whose remaining lanes are all Joining is completed; a fused fragment may complete an
outer record in turn when it begins its clause. -/
def fuseAll (w : Wave) : Wave :=
  (w.joins.map JoinRec.id).foldl (fun w id => match fuseAt w id with
    | some (h, w1) => { w1 with frags := insertFrag h w1.frags }
    | none => w) w

/-- An operation whose trap this fragment took is parked with it again when the fragment exits. -/
def relateOp (w frag : Nat) (o : Op) : Op :=
  match o.status with
  | .trapped f cause => if o.wave == w && f == frag then { o with status := .late cause } else o
  | .inflight | .parked _ | .late _ => o

/-- R407: the forcings made for an instruction of the fragment in focus end with it. -/
def endForcings (s : State) : Crew :=
  let mine := fun o : Op => o.wave == s.wave.idx && o.frag == s.frag.id && (demandOf o).any (fun t => t.kind == .own)
  let c := ((s.crew.ops.filter mine).filterMap Op.recOff).foldl freeRecord s.crew
  { c with ops := c.ops.filter (fun o => !mine o) }

/-- R163, R188: the fragment in focus ends. -/
def endFragment (s : State) : State :=
  let w := fuseAll (leaveJoins s.wave s.frag)
  let (c, w1) := splitShrink (endForcings s) w w.frags.length w.joins.length
  stowGone { s with crew := { c with ops := c.ops.map (relateOp w1.idx s.frag.id) }, wave := w1 }

/-- R321: an exit is an observation point of the wave's late traps. -/
def atExit (s : State) (k : State → State) : State :=
  match if s.frag.trapMode then none else lateOp s.crew.ops s.wave.idx (fun _ => true) with
  | some o => deliverLate s o
  | none => k s

/-- JOB.EXIT (R163). -/
def execJobExit (s : State) : Out :=
  checked .jobExit .control s (fun s => atExit s endFragment)

/-- R164: the successor's card may follow the crew in focus. -/
def successorOk (s : State) (a : DWord) (c : Card) : Bool :=
  (cardCheck c s.crew.ctag).isNone && c.x0 ≤ s.crew.cx && decide (s.crew.cx < c.x0 + c.w) && c.y0 ≤ s.crew.cy &&
  decide (s.crew.cy < c.y0 + c.h) && roundUpTo 2048 c.scratch ≤ s.crew.scratchSize &&
  roundUpTo 1024 c.tiles ≤ s.crew.tileSize &&
  (match s.crew.succ with
    | some (b, _) => b == a
    | none => true)

/-- R165: the successor launched, or joined when the job has named it before. -/
def launchSuccessor (s : State) (a : DWord) (c : Card) : State :=
  match (jobHere s).exits.find? (fun e => e.1 == a) with
  | some e => { s with crew := { s.crew with succ := some e } }
  | none =>
    let (id, d) := acceptJob s.dev c (dieHere s) s.crew.ctx none c.prio (some s.crew.job)
    { s with
      dev := updJob d s.crew.job (fun j => { j with exits := j.exits ++ [(a, id)] })
      crew := { s.crew with succ := some (a, id) } }

/-- JOB.EXITS (R164, R165); the DONE write of a zero-size successor follows the accesses before it (R41). -/
def execJobExits (a : BitVec 8) (s : State) : Out :=
  checked (.jobExits a) .control s (fun s => atExit s (fun s =>
    let addr := readS64 s (a.toNat - 0x80)
    match cardAddrTrap addr with
    | some c => takeTrap s c false
    | none =>
      match fetchCard s.dev (fragAsker s) s.crew.ctx s.nfree addr with
      | (.wait, d) => block { s with dev := d } .exits
      | (.miss h, d) => waitPage s d .exits addr h wantRead
      | (.fault, d) => takeTrap { s with dev := d } 0x03 false
      | (.poison, d) => pageTrap { s with dev := d } 0x04
      | (.bytes b, d) =>
        let s1 := { s with dev := d }
        let c := readCard b
        if !successorOk s1 addr c then takeTrap s1 0x0F false
        else if cardZero c then blockBehind s1 (fun s => endFragment (launchSuccessor s addr c))
        else endFragment (launchSuccessor s1 addr c)))

/-! ### YIELD and YIELDON (R169, R170) -/

/-- JOB.YIELD (R169). -/
def execJobYield (s : State) : Out :=
  checked .jobYield .control s (fun s =>
    if s.crew.preq.isSome then { s with frag := { s.frag with status := .yieldedJob } }
    else
      let f := gotoClause s.frag (nextClause s.frag) s.clk
      { s with frag := { f with back := true } })

/-- JOB.YIELDON.BAR (R170): its target is checked first, then the barrier object (DESIGN CHOICE; assumption 70). -/
def execJobYieldonBar (a b : BitVec 8) (s : State) : Out :=
  checked (.jobYieldonBar a b) .control s (fun s => blockBehind s (fun s =>
    match s.frag.resume with
    | .released => jump s s.frag.cont
    | .broken => takeTrap s 0x08 false
    | .fresh | .timedOut =>
      let t := readS64 s (a.toNat - 0x80)
      let o := (readS s (b.toNat - 0x80)).toNat
      let p := (readS s (b.toNat - 0x80 + 1)).toNat % 256
      withTarget s t (withBar s o true (fun bar =>
        if bar.tooFar p then takeTrap s 0x08 false
        else if bar.done p then jump s t
        else block { s with frag := { s.frag with cont := t } } (.yieldonBar o p)))))

/-- Every flag a mask names reads zero. -/
def flagsClear (w : Wave) (mask : Word) : Bool := (List.range 12).all (fun k => !mask.getLsbD k || flagOf w k == 0)

/-- JOB.YIELDON.FLG (R170). -/
def execJobYieldonFlg (a b : BitVec 8) (s : State) : Out :=
  checked (.jobYieldonFlg a b) .control s (fun s =>
    if s.frag.resume == .released then jump s s.frag.cont
    else
      let t := readS64 s (a.toNat - 0x80)
      let m := readS s (b.toNat - 0x80)
      withTarget s t (
        if flagsClear s.wave m then jump s t
        else block { s with frag := { s.frag with cont := t } } (.yieldonFlg m.toNat)))

/-! ### Patch barriers (R175 to R177) -/

/-- A patch word's rectangle: lower-left core and sides as powers of two; its top bits must be zero (R175). -/
structure Patch where
  px : Nat
  py : Nat
  a  : Nat
  b  : Nat

/-- R175. -/
def Patch.ofWord (w : Word) : Patch :=
  ⟨bitsOf w.toNat 5 0, bitsOf w.toNat 10 6, bitsOf w.toNat 13 11, bitsOf w.toNat 16 14⟩

/-- R23, R176: an aligned power-of-two rectangle inside the job's span that holds the crew's core. -/
def patchOk (w : Word) (c : Card) (cx cy : Nat) : Bool :=
  let p := Patch.ofWord w
  w.toNat < 2 ^ 17 && p.a ≤ 5 && p.b ≤ 5 && p.px % 2 ^ p.a == 0 && p.py % 2 ^ p.b == 0 &&
  c.x0 ≤ p.px && p.px + 2 ^ p.a ≤ c.x0 + c.w && c.y0 ≤ p.py && p.py + 2 ^ p.b ≤ c.y0 + c.h &&
  p.px ≤ cx && decide (cx < p.px + 2 ^ p.a) && p.py ≤ cy && decide (cy < p.py + 2 ^ p.b)

/-- The die whose table holds a patch's entries (R177). -/
def patchDie (w : Word) : Nat :=
  let p := Patch.ofWord w
  dieOf (p.px + 48 * p.py)

/-- R177: a die's table holds 512 entries; the least recently used one beyond them is spilled. -/
def spillPbars (die : Nat) : Nat → List PBar → List PBar
  | _, [] => []
  | room, e :: rest =>
    if patchDie e.patch == die && !e.spilled then
      match room with
      | 0 => { e with spilled := true } :: spillPbars die 0 rest
      | n + 1 => e :: spillPbars die n rest
    else e :: spillPbars die room rest

/-- R176, R177: the entry touched, made on its first touch, and moved to the front. -/
def touchPbar (d : Dev) (job : DWord) (w : Word) (index n : Nat) : PBar × Dev :=
  let p := Patch.ofWord w
  let same := fun e : PBar => e.job == job && e.patch == w && e.index == index
  let e := match d.pbars.find? same with
    | some e => { e with spilled := false }
    | none => ⟨job, w, index, 0, 2 ^ (p.a + p.b) * n, n, false⟩
  (e, { d with pbars := spillPbars (patchDie w) 512 (e :: d.pbars.filter (fun x => !same x)) })

/-- The entry's phase stands 1 to 128 past one (R176). -/
def phaseDone (phase p : Nat) : Bool :=
  let k := (phase + 256 - p % 256) % 256
  1 ≤ k && k ≤ 128

/-- The phase of an entry, 0 before its first touch (R176). -/
def pbarPhase (d : Dev) (job : DWord) (w : Word) (index : Nat) : Nat :=
  match d.pbars.find? (fun e => e.job == job && e.patch == w && e.index == index) with
  | some e => e.phase
  | none => 0

/-- R176: the checks of a PBAR instruction, a wait's among them, then the entry touched, and the effect. -/
def withPbar (s : State) (a b : BitVec 8) (wait : Bool) (k : State → PBar → Nat → State) : State :=
  let w := readS s (a.toNat - 0x80)
  let sel := (readS s (b.toNat - 0x80)).toNat
  let n := bitsOf sel 15 8
  if !patchOk w (jobHere s).card s.crew.cx s.crew.cy || n == 0 || sel / 2 ^ 24 != 0 ||
      (wait && 129 ≤ (pbarPhase s.dev s.crew.job w (bitsOf sel 7 0) + 256 - bitsOf sel 23 16) % 256) then takeTrap s 0x08 false
  else
    let (e, d) := touchPbar s.dev s.crew.job w (bitsOf sel 7 0) n
    k { s with dev := d } e (bitsOf sel 23 16)

/-- The entry put back changed: it is the one touched last. -/
def putPbar (s : State) (e : PBar) : State := { s with dev := { s.dev with pbars := e :: s.dev.pbars.drop 1 } }

/-- An arrival on an entry (R176). -/
def arrivePbar (e : PBar) : PBar :=
  let p := Patch.ofWord e.patch
  if e.pending == 1 then { e with phase := (e.phase + 1) % 256, pending := 2 ^ (p.a + p.b) * e.n }
  else { e with pending := e.pending - 1 }

/-- PBAR.ARRIVE (R176). -/
def execPbarArrive (a b : BitVec 8) (s : State) : Out :=
  checked (.pbarArrive a b) .control s (fun s => afterAccesses s (fun s =>
    withPbar s a b false (fun s e _ => advance (putPbar s (arrivePbar e)))))

/-- PBAR.WAIT (R176). -/
def execPbarWait (a b : BitVec 8) (s : State) : Out :=
  checked (.pbarWait a b) .control s (fun s => blockBehind s (fun s =>
    if s.frag.resume == .released then advance s
    else withPbar s a b true (fun s e p =>
      if phaseDone e.phase p then advance s
      else
        let q := Patch.ofWord e.patch
        block s (.patch q.px q.py q.a q.b e.index p))))

/-- PBAR.TEST (R176). -/
def execPbarTest (m : BitVec 3) (a b : BitVec 8) (s : State) : Out :=
  checked (.pbarTest m a b) .control s (fun s => afterAccesses s (fun s =>
    withPbar s a b false (fun s e p => reportBar s m (phaseDone e.phase p))))

/-! ### Retirement (R34, R163, R269) -/

/-- R34: the wave has no fragment and every flag reads zero. -/
def waveOver (w : Wave) : Bool := w.frags.isEmpty && (List.range 12).all (fun k => flagOf w k == 0)

/-- WAVE_RETIRE: an exited wave retires; with the last one its crew does (R34, R160, R163, R269). -/
def execWaveRetire (c w : Nat) (s : State) : Out :=
  event s (fun s => match findCrew s.dev c with
    | none => s
    | some x => match findWave x w with
      | none => s
      | some v =>
        if !waveOver v || x.state == .saved then s
        else
          let x1 := leaveEnrolments x v.enrol
          let x2 := { x1 with waves := x1.waves.filter (fun y => y.idx != w)
                              trigged := if x1.trigged.contains w then x1.trigged else x1.trigged ++ [w] }
          let d := noteTriggered s.dev x2
          if x2.waves.isEmpty then { s with dev := retireCrew d s.nfree x2 }
          else { s with dev := updCrew d c (fun _ => x2) })

end Sys2Proof.Machine
end

