-- ==== Sys2Proof/Machine/Fun.lean ====
section
/-! DEFINITION. FUN.F32 (R218, R219): the correctly rounded functions, the exact cases of the others, and, where the
manual states a bound and no value, a value left free inside that bound. -/

namespace Sys2Proof.Machine

/-! ### Approximations of the functions, to some 390 bits -/

/-- A dyadic number m · 2^e. -/
structure Dy where
  m : Int
  e : Int
  deriving DecidableEq, Repr, Inhabited

/-- A number cut to 400 bits. -/
def dyTrunc (a : Dy) : Dy :=
  let n := Nat.log2 a.m.natAbs
  if n < 400 then a else ⟨a.m / (2 ^ (n - 400) : Nat), a.e + (n - 400 : Nat)⟩
/-- The product. -/
def dyMul (a b : Dy) : Dy := dyTrunc ⟨a.m * b.m, a.e + b.e⟩
/-- The sum. -/
def dyAdd (a b : Dy) : Dy :=
  if a.m == 0 then b else if b.m == 0 then a
  else
    let q := min a.e b.e
    dyTrunc ⟨a.m * pow2 (a.e - q) + b.m * pow2 (b.e - q), q⟩
/-- The negative. -/
def dyNeg (a : Dy) : Dy := ⟨-a.m, a.e⟩
/-- The quotient, to 400 bits. -/
def dyDiv (a b : Dy) : Dy :=
  let sh := 400 + Nat.log2 b.m.natAbs
  ⟨a.m * (2 ^ sh : Nat) / b.m, a.e - b.e - sh⟩
/-- An integer. -/
def dyInt (z : Int) : Dy := ⟨z, 0⟩
/-- The absolute value. -/
def dyAbs (a : Dy) : Dy := ⟨a.m.natAbs, a.e⟩
/-- a ≤ b. -/
def dyLe (a b : Dy) : Bool :=
  let q := min a.e b.e
  decide (a.m * pow2 (a.e - q) ≤ b.m * pow2 (b.e - q))
/-- A finite exact value as a number; infinities and NaN as 0. -/
def dyOfExt : Ext → Dy
  | .nan => ⟨0, 0⟩
  | .inf _ => ⟨0, 0⟩
  | .fin s m e => ⟨if s then -(m : Int) else m, e⟩
/-- floor(log2 |a|) of a nonzero number. -/
def dyLog (a : Dy) : Int := (Nat.log2 a.m.natAbs : Int) + a.e

/-- The sum of terms t(k+1) = t(k) · x / (c·(k+1)·d(k+1)) of a power series: term `k` is the previous one times `x`
over `den k`. -/
def dySeries (x : Dy) (den : Nat → Int) : Nat → Nat → Dy → Dy → Dy
  | 0, _, _, sum => sum
  | n + 1, k, t, sum =>
    let t' := dyTrunc (dyDiv (dyMul t x) (dyInt (den k)))
    dySeries x den n (k + 1) t' (dyAdd sum t')

/-- exp(x) - 1 for |x| below 8. -/
def dyExpm1 (x : Dy) : Dy := dySeries x (fun k => k) 100 1 ⟨1, 0⟩ ⟨0, 0⟩

/-- The sum of t^(2i+1)/(2i+1), the inverse hyperbolic tangent of t for |t| ≤ 1/3. -/
def dyAtanhAux (t2 : Dy) : Nat → Nat → Dy → Dy → Dy
  | 0, _, _, sum => sum
  | n + 1, i, p, sum => dyAtanhAux t2 n (i + 1) (dyMul p t2) (dyAdd sum (dyDiv p (dyInt (2 * i + 1))))
/-- atanh t for |t| ≤ 1/3. -/
def dyAtanh (t : Dy) : Dy := dyAtanhAux (dyMul t t) 130 0 t ⟨0, 0⟩

/-- ln 2. -/
def dyLn2 : Dy := let a := dyAtanh (dyDiv (dyInt 1) (dyInt 3)); ⟨a.m, a.e + 1⟩
/-- π to 400 bits. -/
def dyPi : Dy :=
  ⟨0x3243F6A8885A308D313198A2E03707344A4093822299F31D0082EFA98EC4E6C89452821E638D01377BE5466CF34E90C6CC0AC,
    -400⟩

/-- exp(x) for any x of magnitude below 2^12, by halving x twelve times. -/
def dyExp (x : Dy) : Dy :=
  let n : Int := (dyMul (dyDiv x dyLn2) (dyInt 1)).m / pow2 (-(dyMul (dyDiv x dyLn2) (dyInt 1)).e)
  let f := dyAdd x (dyNeg (dyMul (dyInt n) dyLn2))
  let y := dyAdd (dyInt 1) (dyExpm1 f)
  ⟨y.m, y.e + n⟩

/-- The approximation of function 1 to 8 of R218 at a finite nonzero argument inside its inexact range. -/
def funApprox (f : Nat) (neg : Bool) (m : Nat) (e : Int) : Dy :=
  let x : Dy := ⟨if neg then -(m : Int) else m, e⟩
  match f with
  | 1 =>
    let r := sqrtSticky 400 m e
    dyDiv (dyInt 1) ⟨r.1, r.2⟩
  | 3 =>
    -- below -512 only that the result lies between 0 and 2^-512 matters
    let n : Int := max (-1024) (if e < 0 then x.m / pow2 (-e) else x.m * pow2 e)
    if n == -1024 then ⟨1, -1024⟩
    else
    let y := dyAdd (dyInt 1) (dyExpm1 (dyMul (dyAdd x (dyInt (-n))) dyLn2))
    ⟨y.m, y.e + n⟩
  | 4 =>
    let k : Int := dyLog x
    let c : Dy := ⟨x.m, x.e - k⟩
    let l := dyAtanh (dyDiv (dyAdd c (dyInt (-1))) (dyAdd c (dyInt 1)))
    dyAdd (dyInt k) (dyDiv ⟨l.m, l.e + 1⟩ dyLn2)
  | 5 =>
    let r : Dy := ⟨x.m % pow2 (-e), e⟩
    let t := dyMul ⟨r.m, r.e + 1⟩ dyPi
    dySeries (dyNeg (dyMul t t)) (fun k => (2 * k) * (2 * k + 1)) 80 1 t t
  | 6 =>
    let r : Dy := ⟨x.m % pow2 (-e), e⟩
    let t := dyMul ⟨r.m, r.e + 1⟩ dyPi
    dySeries (dyNeg (dyMul t t)) (fun k => (2 * k - 1) * (2 * k)) 80 1 (dyInt 1) (dyInt 1)
  | 7 =>
    let t : Dy := ⟨x.m, x.e + 1⟩
    let em1 := if dyLe (dyAbs t) (dyInt 1) then dyExpm1 t else dyAdd (dyExp t) (dyInt (-1))
    dyDiv em1 (dyAdd em1 (dyInt 2))
  | _ =>
    let x2 := dyMul x x
    let s := dySeries (dyMul x2 (dyInt 2)) (fun k => 2 * k + 1) 220 1 x x
    let r := sqrtSticky 400 1 0
    let rp := sqrtSticky 400 dyPi.m.natAbs dyPi.e
    let c := dyDiv (dyMul (dyInt 2) ⟨r.1, r.2⟩) ⟨rp.1, rp.2⟩
    dyMul c (dyMul (dyExp (dyNeg x2)) s)

/-- One unit in the last place of FP32 at the magnitude of y (R218). -/
def dyUlp (y : Dy) : Dy :=
  if y.m == 0 then ⟨1, -149⟩ else ⟨1, max (dyLog y) (-126) - 23⟩

/-- The bound R218 states for function f at argument x with mathematical result y. -/
def funBound (f : Nat) (x y : Dy) : Dy :=
  match f with
  | 1 => dyUlp y
  | 3 => if dyLe ⟨1, -126⟩ (dyAbs y) then dyMul (dyInt 2) (dyUlp y) else ⟨1, -149⟩
  | 4 => if dyLe ⟨1, -1⟩ x && dyLe x (dyInt 2) then ⟨1, -22⟩ else dyMul (dyInt 2) (dyUlp y)
  | 5 => ⟨1, -22⟩
  | 6 => ⟨1, -22⟩
  | _ => dyMul (dyInt 2) (dyUlp y)

/-- The pattern is a finite FP32 value within the bound of y; the approximation is far closer to the function than any FP32
value comes to the bound's edge (R218). -/
def funWithin (c : Word) (y bound : Dy) : Bool :=
  match decodeFmt .f32 c.toNat with
  | .nan => false
  | .inf _ => false
  | .fin s m e => dyLe (dyAbs (dyAdd (dyOfExt (.fin s m e)) (dyNeg y))) bound

/-- The value of FUN.F32 function f for operand pattern x where R218 gives a bound: the device's own value if it lies
inside the bound, else the nearest value (R218, R219). -/
def funInexact (f : Nat) (x : Word) (neg : Bool) (m : Nat) (e : Int) : Word :=
  let y := funApprox f neg m e
  let c := Config.funValue f x
  if funWithin c y (funBound f ⟨if neg then -(m : Int) else m, e⟩ y) then c
  else BitVec.ofNat 32 (roundTo .f32 ⟨0, false, false⟩ 0
    (.fin (decide (y.m < 0)) y.m.natAbs y.e)).1

/-- FTZ and UNF on a returned value (R219): a nonzero subnormal raises UNF, and flushes under FTZ. -/
def funFinish (ftz : Bool) (v : Word) (fl : Flags) : Word × Flags :=
  if isSubnormal .f32 v.toNat then
    if ftz then (v &&& 0x80000000#32, fl ||| flagUNF ||| flagINX) else (v, fl ||| flagUNF)
  else (v, fl)

/-- The quarter turn a multiple of 0.25 lies at, 0 to 3, or none (R218). -/
def quarterTurn (neg : Bool) (m : Nat) (e : Int) : Option Nat :=
  let z : Int := if neg then -(m : Int) else m
  if e + 2 ≥ 0 then some ((z * pow2 (e + 2)) % 4).toNat
  else if m % pow2 (-(e + 2)) == 0 then some ((z / pow2 (-(e + 2))) % 4).toNat
  else none

/-- The functions of FUN.F32 but RCP and SQRT, at an operand read (R218, R219). -/
def funOther (f : Nat) (sat ftz : Bool) (x : Word) (v : Ext) : Word × Flags :=
  let one : Word := 0x3F800000#32
  match v with
  | .nan => (0x7FC00000#32, 0)
  | .inf neg =>
    match f with
    | 1 => if neg then (0x7FC00000#32, flagINV) else (0#32, 0)
    | 3 => if neg then (0#32, 0) else (0x7F800000#32, 0)
    | 4 => if neg then (0x7FC00000#32, flagINV) else (0x7F800000#32, 0)
    | 5 => (0x7FC00000#32, flagINV)
    | 6 => (0x7FC00000#32, flagINV)
    | _ => (if neg then 0xBF800000#32 else one, 0)
  | .fin neg m e =>
    if m == 0 then
      match f with
      | 1 => (if neg then 0xFF800000#32 else 0x7F800000#32, flagDZ)
      | 3 => (one, 0)
      | 4 => (0xFF800000#32, flagDZ)
      | 6 => (one, 0)
      | _ => (if neg then 0x80000000#32 else 0#32, 0)
    else
      let free : Unit → Word × Flags := fun _ => funFinish ftz (funInexact f x neg m e) flagINX
      match f with
      | 1 =>
        if neg then (0x7FC00000#32, flagINV ||| flagINX)
        else
          let k := Nat.log2 m
          if m == 2 ^ k && ((k : Int) + e) % 2 == 0 then
            (BitVec.ofNat 32 (roundTo .f32 ⟨0, false, false⟩ 0 (.fin false 1 (-(((k : Int) + e) / 2)))).1, 0)
          else free ()
      | 3 =>
        let integral := 0 ≤ e || m % pow2 (-e) == 0
        if integral then
          let n : Int := if 9 ≤ (Nat.log2 m : Int) + e then 400 else if 0 ≤ e then m * pow2 e else m / pow2 (-e)
          let r := roundTo .f32 ⟨0, sat, false⟩ 0 (.fin false 1 (if neg then -n else n))
          funFinish ftz (BitVec.ofNat 32 r.1) r.2
        else if !neg && 7 ≤ (Nat.log2 m : Int) + e then
          let r := overflowResult .f32 ⟨0, sat, ftz⟩ false
          (BitVec.ofNat 32 r.1, r.2)
        else free ()
      | 4 =>
        if neg then (0x7FC00000#32, flagINV ||| flagINX)
        else
          let k := Nat.log2 m
          if m == 2 ^ k then
            (BitVec.ofNat 32 (roundTo .f32 ⟨0, false, false⟩ 0 (extOfInt ((k : Int) + e))).1, 0)
          else free ()
      | 5 =>
        match quarterTurn neg m e with
        | some q => (if q == 1 then one else if q == 3 then 0xBF800000#32 else if neg then 0x80000000#32 else 0#32, 0)
        | none => free ()
      | 6 =>
        match quarterTurn neg m e with
        | some q => (if q == 0 then one else if q == 2 then 0xBF800000#32 else 0#32, 0)
        | none => free ()
      | 7 => if extLess (.fin false m e) (.fin false 19 (-1)) then free () else (if neg then 0xBF800000#32 else one, flagINX)
      | _ => if extLess (.fin false m e) (.fin false 4 0) then free () else (if neg then 0xBF800000#32 else one, flagINX)

/-- RCP and SQRT, correctly rounded; one rounding of the lane whatever the operand (R90, R218). -/
def funRounded (f : Nat) (env : RoundEnv) (g : Word) (v : Ext) : Nat × Flags × Word :=
  let noSat := { env with sat := false }
  if f == 0 then
    match v with
    | .nan => roundLane .f32 env g .nan
    | .inf s => roundLane .f32 env g (extZero s)
    | .fin s m e =>
      if m == 0 then
        let r := roundLane .f32 noSat g (.inf s)
        (r.1, r.2.1 ||| flagDZ, r.2.2)
      else
        let q := quotSticky 80 1 0 m e
        roundLane .f32 env g (.fin s q.1 q.2)
  else
    match v with
    | .nan => roundLane .f32 env g .nan
    | .inf s =>
      let r := roundLane .f32 noSat g (if s then .nan else .inf false)
      (r.1, r.2.1 ||| flagIf s flagINV, r.2.2)
    | .fin s m e =>
      if m == 0 then roundLane .f32 env g (extZero s)
      else if s then
        let r := roundLane .f32 env g .nan
        (r.1, r.2.1 ||| flagINV, r.2.2)
      else
        let q := sqrtSticky 80 m e
        roundLane .f32 env g (.fin false q.1 q.2)

/-- FUN.F32 in one lane: function, rounding environment, DAZ, generator, operand (R218, R219). -/
def funF32 (f : Nat) (env : RoundEnv) (daz : Bool) (g : Word) (x : Word) : Word × Flags × Word :=
  let a := readFloat .f32 daz x.toNat
  if f == 0 || f == 2 then
    let r := funRounded f env g a.1
    (BitVec.ofNat 32 r.1, a.2 ||| r.2.1, r.2.2)
  else
    let r := funOther f env.sat env.ftz x a.1
    (r.1, a.2 ||| r.2, g)

end Sys2Proof.Machine
end

