-- ==== Sys2Proof/Machine/TileEval.lean ====
section
/-! DEFINITION. The values of deferred tiles: the elements of each kind of node, and the rectangles a demand carries
back to its leaves (R383, R390 to R394, R398, R408). -/

namespace Sys2Proof.Machine

/-- The format of a result or view format code (R383, R386). -/
def tileFormat (code : Nat) : Format := if code == 15 then .f32 else (formatOfCode code).getD .f32

/-- An element: its pattern in its node's result format, the flags of the roundings that led to it, and whether an
input it came from was NaN (R408). -/
structure Elem where
  bits  : Nat
  flags : Flags
  inNaN : Bool

/-- An element with nothing to report. -/
def Elem.plain (b : Nat) : Elem := ⟨b, 0, false⟩

/-- An input's element: its pattern, and whether it is NaN. -/
def Elem.input (f : Format) (b : Nat) : Elem := ⟨b, 0, extIsNaN (decodeFmt f b)⟩

/-- R390: an element as an operand of a node with this FMT. -/
def operandOf (fmtw : Word) (code : Nat) (e : Elem) : Ext :=
  (readFloat (tileFormat code) (code != 15 || fmtDAZ fmtw) e.bits).1

/-- A result from an exact value and its flags, rounded once to acc, with what its inputs reported. -/
def accElem (f : Format) (env : RoundEnv) (v : Ext × Flags) (es : List Elem) : Elem :=
  let r := roundTo f env 0 v.1
  ⟨r.1, es.foldl (fun a e => a ||| e.flags) (r.2 ||| v.2), es.any (fun e => e.inNaN)⟩

/-- 1/a to more bits than any format holds, or its special value; the mark tells a special infinity (R218, R390). -/
def rcpValue (a : Ext) : Ext × Flags × Bool :=
  match a with
  | .nan => (.nan, 0, false)
  | .inf s => (extZero s, 0, false)
  | .fin s m e =>
    if m == 0 then (.inf s, flagDZ, true)
    else
      let q := quotSticky 80 1 0 m e
      (.fin s q.1 q.2, 0, false)

/-- √a likewise (R218, R390). -/
def sqrtValue (a : Ext) : Ext × Flags × Bool :=
  match a with
  | .nan => (.nan, 0, false)
  | .inf s => if s then (.nan, flagINV, true) else (.inf false, 0, true)
  | .fin s m e =>
    if m == 0 then (extZero s, 0, false)
    else if s then (.nan, flagINV, false)
    else
      let q := sqrtSticky 80 m e
      (.fin false q.1 q.2, 0, false)

/-- R390: an elementwise or unary operation on operand values. -/
def topValue (op : Nat) (rdn sat : Bool) (a b : Ext) : Ext × Flags × Bool :=
  let lift := fun (v : Ext × Flags) => (v.1, v.2, false)
  let fun32 := fun f =>
    let x := BitVec.ofNat 32 (roundTo .f32 ⟨0, false, false⟩ 0 a).1
    let y := funOther f sat false x a
    (decodeFmt .f32 y.1.toNat, y.2, false)
  match op with
  | 0x00 => lift (extSum rdn [a, b])
  | 0x01 => lift (extSum rdn [a, extFlip b])
  | 0x02 => lift (extMul a b)
  | 0x03 => (extPick true a b, 0, false)
  | 0x04 => (extPick false a b, 0, false)
  | 0x08 => (extPick true a (extZero false), 0, false)
  | 0x09 => (extFlip a, 0, false)
  | 0x0A => (extAbs a, 0, false)
  | 0x0B => fun32 3
  | 0x0C => fun32 7
  | 0x0D => fun32 8
  | 0x0E => rcpValue a
  | _ => sqrtValue a

/-- The pattern of a value held as an FP32 word, exact in its format; INT8's −128 included, which no rounding gives
(R83, R394). -/
def backFrom (f : Format) (w : Word) : Nat :=
  if f == .i8 && w == 0xC3000000#32 then 0x80 else (roundTo f ⟨0, false, false⟩ 0 (decodeFmt .f32 w.toNat)).1

/-- R393: the source element a map reads for element (i, j), none where it gives +0. -/
def mapPlace (op : Nat) (p : List Word) (rows cols i j : Nat) : Option (Nat × Nat) :=
  let u := fun k => (p.getD k 0#32).toNat
  match op with
  | 0 => some (j, i)
  | 1 => some (u 0 + i, u 1 + j)
  | 2 => some (0, j)
  | 3 => some (i, 0)
  | 4 =>
    let r : Int := i + (p.getD 0 0#32).toInt
    let c : Int := j + (p.getD 1 0#32).toInt
    if 0 ≤ r && r < rows && 0 ≤ c && c < cols then some (r.toNat, c.toNat) else none
  | 5 =>
    if u 0 ≤ i && i - u 0 < rows && u 1 ≤ j && j - u 1 < cols then some (i - u 0, j - u 1) else none
  | 6 => some (i * u 0, j * u 1)
  | _ =>
    let q := i * u 1 + j
    some (q / cols, q % cols)

/-- A step of RSUM: one rounding (R392). -/
def sumStep (f : Format) (env : RoundEnv) (acc : Elem) (v : Ext) (e : Elem) : Elem :=
  accElem f env (extSum (env.rm == 2) [decodeFmt f acc.bits, v]) [acc, e]

/-- R392: the elements of a row or column combined in order. -/
def reduceElems (f : Format) (env : RoundEnv) (max? : Bool) (l : List (Ext × Elem)) : Elem :=
  match l with
  | [] => Elem.plain 0
  | (v, e) :: rest =>
    if max? then
      let m := rest.foldl (fun a p => extPick true a p.1) v
      accElem f env (m, 0) (e :: rest.map Prod.snd)
    else rest.foldl (fun a p => sumStep f env a p.1 p.2) (accElem f env (v, 0) [e])

/-- R390 to R394: element (i, j) of a node; `leaf n i j` is the pattern a view's bytes hold.  `fuel` bounds the depth of
the graph, at most 256 nodes. -/
def elemOf (nodes : List (Nat × TNode)) (leaf : Nat → Nat → Nat → Nat) : Nat → Nat → Nat → Nat → Elem
  | 0, _, _, _ => Elem.plain 0
  | fuel + 1, n, i, j =>
    match (nodes.find? (fun p => p.1 == n)).map Prod.snd with
    | none => Elem.plain 0
    | some x =>
      let f := accFormat x.fmtw
      let env := engineEnv (fmtRM x.fmtw) (fmtSAT x.fmtw) true
      let a := x.srcs.getD 0 0
      let b := x.srcs.getD 1 0
      let node := fun k => (nodes.find? (fun p => p.1 == k)).map Prod.snd
      let codeOf := fun k => match node k with
        | some y => y.fmt
        | none => 15
      let shapeOf := fun k => match node k with
        | some y => (y.rows, y.cols)
        | none => (0, 0)
      let get := fun k r c => elemOf nodes leaf fuel k r c
      let val := fun k (e : Elem) => operandOf x.fmtw (codeOf k) e
      match x.kind with
      | .view _ _ _ _ _ _ _ _ => Elem.input (tileFormat x.fmt) (leaf n i j)
      | .const w => Elem.input .f32 w.toNat
      | .mat vals =>
        Elem.input (tileFormat x.fmt) (backFrom (tileFormat x.fmt) (vals.getD (i * x.cols + j) 0#32))
      | .tmap op p =>
        match mapPlace op p (shapeOf a).1 (shapeOf a).2 i j with
        | some (r, c) => get a r c
        | none => Elem.plain 0
      | .top op =>
        if op == 0x10 || op == 0x11 then
          let ps := (List.range (shapeOf a).2).map (fun k => (get a i k, if op == 0x10 then get b k j else get b j k))
          let r := mmaElement f env (extZero false) (ps.map (fun p => (val a p.1, val b p.2)))
          accElem f env (r.1, r.2) (ps.flatMap (fun p => [p.1, p.2]))
        else if op == 0x18 || op == 0x1A then
          reduceElems f env (op == 0x1A) ((List.range (shapeOf a).2).map (fun k => (val a (get a i k), get a i k)))
        else if op == 0x19 || op == 0x1B then
          reduceElems f env (op == 0x1B) ((List.range (shapeOf a).1).map (fun k => (val a (get a k j), get a k j)))
        else if op == 0x20 then
          let e := get a i j
          accElem (tileFormat x.fmt) (engineEnv (fmtRM x.fmtw) (fmtSAT x.fmtw) (fmtFTZ x.fmtw)) (val a e, 0) [e]
        else
          let ea := get a i j
          let two := op ≤ 4
          let eb := if two then get b i j else Elem.plain 0
          let v := topValue op (env.rm == 2) env.sat (val a ea) (if two then val b eb else extZero false)
          accElem f (if v.2.2 then { env with sat := false } else env) (v.1, v.2.1) (if two then [ea, eb] else [ea])

/-- The events of an element (R107, R408). -/
def elemCounts (f : Format) (e : Elem) : ElemEvents := elemEvents e.flags (decodeFmt f e.bits) e.inNaN

/-! ### Rectangles (R398) -/

/-- A rectangle of elements, ends included. -/
structure Rect where
  r0 : Nat
  r1 : Nat
  c0 : Nat
  c1 : Nat
  deriving DecidableEq, Repr, Inhabited

/-- The smallest rectangle that covers both. -/
def Rect.join (a b : Rect) : Rect := ⟨min a.r0 b.r0, max a.r1 b.r1, min a.c0 b.c0, max a.c1 b.c1⟩

/-- A rectangle moved and cut to a source of a shape; none when nothing is left. -/
def moveRect (q : Rect) (dr dc : Int) (rows cols : Nat) : Option Rect :=
  let r0 := max 0 ((q.r0 : Int) + dr)
  let r1 := min ((rows : Int) - 1) (q.r1 + dr)
  let c0 := max 0 ((q.c0 : Int) + dc)
  let c1 := min ((cols : Int) - 1) (q.c1 + dc)
  if r0 ≤ r1 && c0 ≤ c1 then some ⟨r0.toNat, r1.toNat, c0.toNat, c1.toNat⟩ else none

/-- R398: the rectangle of source number k that a map needs. -/
def mapRect (op : Nat) (p : List Word) (rows cols : Nat) (q : Rect) : Option Rect :=
  let u := fun k => (p.getD k 0#32).toNat
  match op with
  | 0 => some ⟨q.c0, q.c1, q.r0, q.r1⟩
  | 1 => some ⟨u 0 + q.r0, u 0 + q.r1, u 1 + q.c0, u 1 + q.c1⟩
  | 2 => some ⟨0, 0, q.c0, q.c1⟩
  | 3 => some ⟨q.r0, q.r1, 0, 0⟩
  | 4 => moveRect q (p.getD 0 0#32).toInt (p.getD 1 0#32).toInt rows cols
  | 5 => moveRect q (-(u 0 : Int)) (-(u 1 : Int)) rows cols
  | 6 => some ⟨q.r0 * u 0, q.r1 * u 0, q.c0 * u 1, q.c1 * u 1⟩
  | _ =>
    let a := q.r0 * u 1 + q.c0
    let b := q.r1 * u 1 + q.c1
    if a / cols == b / cols then some ⟨a / cols, a / cols, a % cols, b % cols⟩
    else some ⟨a / cols, b / cols, 0, cols - 1⟩

/-- R398: the rectangles a node's rectangle demands of its sources. -/
def sourceRects (nodes : List (Nat × TNode)) (x : TNode) (q : Rect) : List (Nat × Rect) :=
  let a := x.srcs.getD 0 0
  let b := x.srcs.getD 1 0
  let shape := fun k => match (nodes.find? (fun p => p.1 == k)).map Prod.snd with
    | some y => (y.rows, y.cols)
    | none => (1, 1)
  match x.kind with
  | .view _ _ _ _ _ _ _ _ => []
  | .const _ => []
  | .mat _ => []
  | .tmap op p => match mapRect op p (shape a).1 (shape a).2 q with
    | some r => [(a, r)]
    | none => []
  | .top op =>
    if op == 0x10 then [(a, ⟨q.r0, q.r1, 0, (shape a).2 - 1⟩), (b, ⟨0, (shape b).1 - 1, q.c0, q.c1⟩)]
    else if op == 0x11 then [(a, ⟨q.r0, q.r1, 0, (shape a).2 - 1⟩), (b, ⟨q.c0, q.c1, 0, (shape b).2 - 1⟩)]
    else if op == 0x18 || op == 0x1A then [(a, ⟨q.r0, q.r1, 0, (shape a).2 - 1⟩)]
    else if op == 0x19 || op == 0x1B then [(a, ⟨0, (shape a).1 - 1, q.c0, q.c1⟩)]
    else if op ≤ 4 then [(a, q), (b, q)]
    else [(a, q)]

/-- A rectangle demanded of a node, beside what is demanded already. -/
def addRect (l : List (Nat × Rect)) (p : Nat × Rect) : List (Nat × Rect) :=
  if l.any (fun e => e.1 == p.1) then l.map (fun e => if e.1 == p.1 then (e.1, e.2.join p.2) else e) else l ++ [p]

/-- The nodes from the youngest to the oldest: each stands before those it reads. -/
def byAge (nodes : List (Nat × TNode)) : List (Nat × TNode) :=
  let ins := fun (p : Nat × TNode) (l : List (Nat × TNode)) =>
    l.takeWhile (fun q => p.2.seq < q.2.seq) ++ p :: l.dropWhile (fun q => p.2.seq < q.2.seq)
  nodes.foldl (fun l p => ins p l) []

/-- R398: the rectangle each node is demanded over, from one of the demanded node. -/
def carryBack (nodes : List (Nat × TNode)) (n : Nat) (q : Rect) : List (Nat × Rect) :=
  (byAge nodes).foldl (fun l p => match l.find? (fun e => e.1 == p.1) with
    | some e => (sourceRects nodes p.2 e.2).foldl addRect l
    | none => l) [(n, q)]

/-- Where element (i, j) of a view lies (R387). -/
def viewPlace (x : TNode) (i j : Nat) : Nat :=
  match x.kind with
  | .view base d1 d2 _ s1 s2 s3 _ =>
    ((base : Int) + (i % d1 : Nat) * s1 + (i / d1 % d2 : Nat) * s2 + (i / (d1 * d2) : Nat) * s3 +
      (j * tileSizeOf x.fmt : Nat)).toNat
  | .mat _ | .const _ | .top _ | .tmap _ _ => 0

/-- The space of a view (R387). -/
def viewSpace (x : TNode) : Nat :=
  match x.kind with
  | .view _ _ _ _ _ _ _ space => space
  | .mat _ | .const _ | .top _ | .tmap _ _ => 3

/-- The touches of a rectangle of a view in virtual memory. -/
def viewTouches (x : TNode) (q : Rect) : List Touch :=
  if viewSpace x == 0 then
    (List.range (q.r1 - q.r0 + 1)).map (fun k =>
      ⟨viewPlace x (q.r0 + k) q.c0, (q.c1 - q.c0 + 1) * tileSizeOf x.fmt, false⟩)
  else []

end Sys2Proof.Machine
end

