-- ==== Sys2Proof/Machine/Tile.lean ====
section
/-! DEFINITION. The deferred tile engine: TDEF, TOP, TMAP, TDEM, and the steps that evaluate demands and materialise
nodes (R378, R383 to R412). -/

namespace Sys2Proof.Machine

/-! ### Appending nodes (R384 to R393, R406) -/

/-- A shape R383 allows. -/
def shapeOk (rows cols : Nat) : Bool :=
  1 ≤ rows && rows ≤ 16384 && 1 ≤ cols && cols ≤ 16384 && rows * cols ≤ 16777216

/-- The node a name is bound to. -/
def boundNode (c : Crew) (t : Nat) : Option Nat := (c.tiles.names.find? (fun p => p.1 == t)).map Prod.snd

/-- A name bound to a node; none unbinds it. -/
def bindName (c : Crew) (t : Nat) (n : Option Nat) : Crew :=
  let rest := c.tiles.names.filter (fun p => p.1 != t)
  { c with tiles := { c.tiles with names := match n with
    | some k => rest ++ [(t, k)]
    | none => rest } }

/-- R406: the instruction in focus waits until an entry it needs is free, or finds none. -/
def makeRoom (s : State) (view : Bool) (k : State → State) : State :=
  let nodes := s.crew.tiles.nodes
  let take := fun (l : List (Nat × TNode)) => match ownDemand s.crew with
    | some o => awaitOwn s o
    | none => match oldestNode (l.filter (fun p => fitsEngine s.crew p.2)) with
      | some (n, x) => forceNode s n x
      | none => takeTrap s 0x0C false
  if s.crew.thunkMax == 0 then takeTrap s 0x0C false
  else if view && 64 ≤ (nodes.filter (fun p => isView p.2)).length then take (nodes.filter (fun p => isView p.2))
  else if s.crew.thunkMax ≤ nodes.length then
    take (nodes.filter (fun p => !p.2.srcs.isEmpty && s.crew.tiles.names.any (fun q => q.2 == p.1)))
  else k s

/-- R384, R385: the node appended and bound to its destination name. -/
def appendNode (s : State) (dst : Nat) (kind : NodeKind) (rows cols fmt : Nat) (srcs : List Nat) : State :=
  let nodes := s.crew.tiles.nodes
  let n := ((List.range 256).find? (fun k => !nodes.any (fun p => p.1 == k))).getD 0
  let x : TNode := ⟨kind, rows, cols, fmt, s.frag.fmt, (s.frag.clause, pcParcel s.frag), srcs, s.crew.tiles.seq⟩
  let c := { s.crew with tiles := { s.crew.tiles with
    nodes := nodes.takeWhile (fun p => p.1 < n) ++ (n, x) :: nodes.dropWhile (fun p => p.1 < n)
    seq := s.crew.tiles.seq + 1 } }
  advance { s with crew := gcNodes (bindName c dst (some n)) }

/-- The result format of FMT.ACC (R389). -/
def accCode (fmt : Word) : Nat := match fmtACC fmt with
  | 1 => 0
  | 2 => 1
  | _ => 15

/-- TDEF.VIEW (R386, R387). -/
def execTdefView (f : BitVec 4) (a b : BitVec 8) (s : State) : Out :=
  checked (.tdefView f a b) .matrix s (fun s =>
    let w := fun k => (readS s (b.toNat - 0x80 + k)).toNat
    let sg := fun k => (readS s (b.toNat - 0x80 + k)).toInt
    let space := w 7 % 4
    let base := if space == 0 then w 0 + 2 ^ 32 * w 1 else w 0
    let cols := bitsOf (w 2) 15 0
    let d1 := bitsOf (w 2) 31 16
    let d2 := bitsOf (w 3) 15 0
    let d3 := bitsOf (w 3) 31 16
    let dimOk := fun d => decide (1 ≤ d) && decide (d ≤ 16384)
    let z := tileSizeOf f.toNat
    let kind := NodeKind.view base d1 d2 d3 (sg 4) (sg 5) (sg 6) space
    let x : TNode := ⟨kind, d1 * d2 * d3, cols, f.toNat, s.frag.fmt, (0, 0), [], 0⟩
    let span := (viewSpan x).getD (0, 0, 0)
    if 4 ≤ w 7 || space == 3 || !dimOk cols || !dimOk d1 || !dimOk d2 || !dimOk d3 || !shapeOk (d1 * d2 * d3) cols then
      takeTrap s 0x08 false
    else if base % z != 0 || w 4 % z != 0 || w 5 % z != 0 || w 6 % z != 0 then takeTrap s 0x07 false
    else if space == 0 &&
        (span.2.1 < 0 || !rangeCanonical span.2.1.toNat (span.2.2 - span.2.1).toNat) then takeTrap s 0x05 false
    else if space != 0 &&
        (span.2.1 < 0 || (if space == 1 then s.crew.scratchSize else s.crew.tiles.mark) < span.2.2) then takeTrap s 0x06 false
    else makeRoom s true (fun s => appendNode s a.toNat kind (d1 * d2 * d3) cols f.toNat []))

/-- TDEF.CONST (R388). -/
def execTdefConst (a b : BitVec 8) (s : State) : Out :=
  checked (.tdefConst a b) .matrix s (fun s =>
    let x := readS s (b.toNat - 0x80)
    let w := (readS s (b.toNat - 0x80 + 1)).toNat
    let cols := bitsOf w 15 0
    let rows := bitsOf w 31 16
    if !shapeOk rows cols then takeTrap s 0x08 false
    else
      let y := if extIsNaN (decodeFmt .f32 x.toNat) then 0x7FC00000#32 else x
      makeRoom s false (fun s => appendNode s a.toNat (.const y) rows cols 15 []))

/-- R391: the formats of a matrix product's operands are of one class. -/
def mmFormats (a b : Nat) : Bool :=
  (a == 0 && b == 0) || (a == 1 && b == 1) || ((a == 2 || a == 3) && (b == 2 || b == 3)) || (a == 7 && b == 7)

/-- R389, R391: the shape and result format of an operation on these nodes; none where the table is broken. -/
def topShape (op : Nat) (fmt : Word) (x y : TNode) : Option (Nat × Nat × Nat) :=
  let acc := accCode fmt
  if op ≤ 4 then if x.rows == y.rows && x.cols == y.cols then some (x.rows, x.cols, acc) else none
  else if op == 0x10 then
    if x.cols == y.rows && mmFormats x.fmt y.fmt then some (x.rows, y.cols, acc) else none
  else if op == 0x11 then
    if x.cols == y.cols && mmFormats x.fmt y.fmt then some (x.rows, y.rows, acc) else none
  else if op == 0x18 || op == 0x1A then some (x.rows, 1, acc)
  else if op == 0x19 || op == 0x1B then some (1, x.cols, acc)
  else if op == 0x20 then
    let q := fmtQF fmt
    if q ≤ 3 || q == 7 then some (x.rows, x.cols, q) else none
  else some (x.rows, x.cols, acc)

/-- R406: a crew with THUNKS 0 takes the thunk-full fault, before its source names are looked up. -/
def withThunks (s : State) (k : State → State) : State := if s.crew.thunkMax == 0 then takeTrap s 0x0C false else k s

/-- TOP (R389 to R392). -/
def execTop (d a b p : BitVec 6) (s : State) : Out :=
  checked (.top d a b p) .matrix s (fun s => withThunks s (fun s =>
    let two := topBinary p
    match boundNode s.crew a.toNat, if two then boundNode s.crew b.toNat else some 0 with
    | some n, some m =>
      match nodeAt s.crew n, if two then nodeAt s.crew m else nodeAt s.crew n with
      | some x, some y =>
        match topShape p.toNat s.frag.fmt x y with
        | some (rows, cols, fmt) =>
          if !shapeOk rows cols then takeTrap s 0x08 false
          else makeRoom s false (fun s =>
            appendNode s d.toNat (.top p.toNat) rows cols fmt (if two then [n, m] else [n]))
        | none => takeTrap s 0x08 false
      | _, none => takeTrap s 0x08 false
      | none, some _ => takeTrap s 0x08 false
    | _, none => takeTrap s 0x08 false
    | none, some _ => takeTrap s 0x08 false))

/-- R393: a map's result shape; none where a parameter is outside its limits. -/
def mapShape (op : Nat) (p : List Word) (rows cols : Nat) : Option (Nat × Nat) :=
  let u := fun k => (p.getD k 0#32).toNat
  let ok := fun r c => if shapeOk r c then some (r, c) else none
  match op with
  | 0 => ok cols rows
  | 1 => if u 0 + u 2 ≤ rows && u 1 + u 3 ≤ cols then ok (u 2) (u 3) else none
  | 2 => if rows == 1 then ok (u 0) cols else none
  | 3 => if cols == 1 then ok rows (u 0) else none
  | 4 => ok rows cols
  | 5 => if u 0 < 16384 && u 1 < 16384 then ok (u 2) (u 3) else none
  | 6 =>
    if 1 ≤ u 0 && u 0 ≤ 16384 && 1 ≤ u 1 && u 1 ≤ 16384 then ok ((rows + u 0 - 1) / u 0) ((cols + u 1 - 1) / u 1)
    else none
  | _ => if u 0 * u 1 == rows * cols then ok (u 0) (u 1) else none

/-- TMAP (R393). -/
def execTmap (d a b p : BitVec 6) (s : State) : Out :=
  checked (.tmap d a b p) .matrix s (fun s => withThunks s (fun s =>
    match boundNode s.crew a.toNat with
    | none => takeTrap s 0x08 false
    | some n => match nodeAt s.crew n with
      | none => takeTrap s 0x08 false
      | some x =>
        let ps := (List.range (tmapParams p)).map (fun k => readS s (b.toNat + k))
        match mapShape p.toNat ps x.rows x.cols with
        | some (rows, cols) =>
          makeRoom s false (fun s => appendNode s d.toNat (.tmap p.toNat ps) rows cols x.fmt [n])
        | none => takeTrap s 0x08 false))

/-! ### Demands at issue (R395, R396) -/

/-- The eight words of a block. -/
def blockWords (s : State) (c : BitVec 8) : List Word := (List.range 8).map (fun k => readS s (c.toNat - 0x80 + k))

/-- The bytes a STORE writes, from its base on (R396). -/
def storeSpan (rows cols stride z : Nat) : Nat := (rows - 1) * stride + cols * z

/-- A demand of a region of node n in flight. -/
def issueDemand (s : State) (g : Nat) (kind : DemandKind) (n : Nat) (bl : List Word) : State :=
  let w := fun k => (bl.getD k 0#32).toNat
  let t := DemandOp.start kind n (w 0) (w 1) (w 2) (w 3) bl (behindWrites s.crew s.crew.nextOp n)
  issueOp s { newOp s (some g) s.frag.lanes (.demand t) with lanes := s.frag.lanes }

/-- TDEM.STORE (R395 to R397).  A store of no rows or no columns still checks its base; the spec states no range for
it (DESIGN CHOICE; assumption 89). -/
def execTdemStore (f : BitVec 4) (a b : BitVec 8) (s : State) : Out :=
  longLatency (.tdemStore f a b) .matrix s (fun s g =>
    let bl := blockWords s b
    let w := fun k => (bl.getD k 0#32).toNat
    let space := w 7 % 4
    let z := tileSizeOf f.toNat
    let base := w 4 + 2 ^ 32 * w 5
    let rows := w 2
    let cols := w 3
    match (boundNode s.crew a.toNat).bind (fun n => (nodeAt s.crew n).map (fun x => (n, x))) with
    | none => takeTrap s 0x08 false
    | some (n, x) =>
      if x.rows < w 0 + rows || x.cols < w 1 + cols || 2 ≤ w 7 then takeTrap s 0x08 false
      else if base % z != 0 || w 6 % z != 0 then takeTrap s 0x07 false
      else if rows == 0 || cols == 0 then
        if space == 0 && !canonical (BitVec.ofNat 64 base) then takeTrap s 0x05 false
        else if space == 1 && s.crew.scratchSize < base then takeTrap s 0x06 false
        else advance s
      else if space == 0 && !rangeCanonical base (storeSpan rows cols (w 6) z) then takeTrap s 0x05 false
      else if space == 1 && s.crew.scratchSize < base + storeSpan rows cols (w 6) z then takeTrap s 0x06 false
      else match rangeHook s (strideRows space base rows (cols * z) (w 6)) with
        | some s' => s'
        | none => issueDemand s g (.store f.toNat base (w 6) space) n bl)

/-- TDEM.FORCE (R395 to R397). -/
def execTdemForce (a b : BitVec 8) (s : State) : Out :=
  longLatency (.tdemForce a b) .matrix s (fun s g =>
    let bl := blockWords s b
    let w := fun k => (bl.getD k 0#32).toNat
    let rows := w 2
    let cols := w 3
    match (boundNode s.crew a.toNat).bind (fun n => (nodeAt s.crew n).map (fun x => (n, x))) with
    | none => takeTrap s 0x08 false
    | some (n, x) =>
      if x.rows < w 0 + rows || x.cols < w 1 + cols then takeTrap s 0x08 false
      else if w 4 % 4 != 0 then takeTrap s 0x07 false
      else if s.crew.tiles.mark < w 4 + 4 * rows * cols then takeTrap s 0x06 false
      else if rows == 0 || cols == 0 then advance s
      else match rangeHook s [(2, w 4, 4 * rows * cols)] with
        | some s' => s'
        | none => issueDemand s g (.force (w 4)) n bl)

/-- TDEM.DROP (R399). -/
def execTdemDrop (a : BitVec 8) (s : State) : Out :=
  checked (.tdemDrop a) .matrix s (fun s => advance { s with crew := gcNodes (bindName s.crew a.toNat none) })

/-- TDEM.QUERY (R399). -/
def execTdemQuery (a b : BitVec 8) (s : State) : Out :=
  checked (.tdemQuery a b) .matrix s (fun s =>
    let x := (boundNode s.crew a.toNat).bind (nodeAt s.crew)
    let r := b.toNat - 0x80
    let w0 := match x with
      | some y => y.rows + 2 ^ 16 * y.cols
      | none => 0
    let mat := match x with
      | some y => (matVals y).isSome
      | none => false
    let nodes := s.crew.tiles.nodes
    let w1 := nodes.length + 2 ^ 9 * (nodes.filter (fun p => isView p.2)).length + (if mat then 2 ^ 16 else 0) +
      (if x.isSome then 2 ^ 17 else 0) + 2 ^ 18 * engKib s.crew
    advance (writeS (writeS s r (BitVec.ofNat 32 w0)) (r + 1) (BitVec.ofNat 32 w1)))

/-! ### Order in the tile store (R378) -/

/-- The tile-store bytes an operation reads or writes: first, count, for a write. -/
def tileRegions (c : Crew) (o : Op) : List (Nat × Nat × Bool) :=
  match o.body with
  | .mmat a => [(a.dh, 4 * a.m * 16 * a.ng, true)]
  | .tsreg t => [(t.h, 4 * t.n * laneCount, !t.toReg)]
  | .copy p => match p.kind with
    | .tsmov toMem _ =>
      let w := (p.block.getD 1 0#32).toNat
      [((p.block.getD 0 0#32).toNat, w % 65536 * (w / 65536), !toMem)]
    | .cpy _ _ => []
    | .wbuf _ _ => []
  | .demand t =>
    (match t.kind with
      | .force h => [(h, 4 * t.rows * t.cols, true)]
      | .store _ _ _ _ => []
      | .own => []) ++
    (reachFrom c [t.node]).filterMap (fun n => match (nodeAt c n).bind viewSpan with
      | some (2, lo, hi) => some (lo.toNat, (hi - lo).toNat, false)
      | some _ => none
      | none => none)
  | .mem _ | .chain _ | .mmao _ | .smp _ | .trace _ => []

/-- Two lists of regions meet where one of them writes. -/
def regionsClash (a b : List (Nat × Nat × Bool)) : Bool :=
  a.any (fun p => b.any (fun q => (p.2.2 || q.2.2) && decide (p.1 < q.1 + q.2.1) && decide (q.1 < p.1 + p.2.1)))

/-- R378: no earlier operation of the crew on bytes of the tile store it needs is still to be done. -/
def tileTurn (c : Crew) (o : Op) : Bool :=
  !c.ops.any (fun e => decide (e.id < o.id) && regionsClash (tileRegions c e) (tileRegions c o))

/-- Bytes of the tile store. -/
def tileBytes (c : Crew) (a n : Nat) : List Byte := (List.range n).map (fun i => tabGet 0#8 c.tile (a + i))

/-- Bytes written into the tile store. -/
def putTile (c : Crew) (a : Nat) (bs : List Byte) : Crew := { c with tile := putPark c.tile a bs }

/-- R2, R400: bytes of the tile store that pass to or from the engine hold unspecified contents. -/
def loseTile (s : State) (a len : Nat) : Crew :=
  putTile s.crew a ((List.range len).map (fun i =>
    (unspecWord s.dev s.crew s.wave s.nfree (600000 + a + i)).setWidth 8))

/-- TDEM.DISCARD: the tile mark moves, after the accesses of earlier operations to the bytes that change hands, whose
contents are lost (R400, R412; assumption 17). -/
def execTdemDiscard (b : BitVec 8) (s : State) : Out :=
  checked (.tdemDiscard b) .matrix s (fun s =>
    let h := (readS s (b.toNat - 0x80)).toNat
    let c := s.crew
    let lo := min c.tiles.mark h
    let len := max c.tiles.mark h - lo
    if h % 1024 != 0 || c.tileSize < h then takeTrap s 0x08 false
    else if c.tileSize - 1024 * engKib c < h then takeTrap s 0x0C false
    else if c.ops.any (fun o => regionsClash (tileRegions c o) [(lo, len, true)]) then stall s
    else
      let c1 := loseTile s lo len
      advance { s with crew := { c1 with tiles := { c1.tiles with mark := h } } })

/-! ### Evaluation (R397, R398, R405, R408) -/

/-- Leaves opened one after another: the translations, the first node with a page not present, and the first whose read
met another stop. -/
def openLeaves (who : Asker) (slot : Nat) (noWatch : Bool) (c : Crew) :
    List (Nat × Rect) → Io × Option Nat × Option Nat → Io × Option Nat × Option Nat
  | [], r => r
  | (k, q) :: rest, (io, miss, stop) =>
    match nodeAt c k with
    | none => openLeaves who slot noWatch c rest (io, miss, stop)
    | some x =>
      let io1 := (viewTouches x q).foldl (ioTouch who slot noWatch) io
      let missed := !io1.miss.isEmpty && miss.isNone
      let bad := (io1.trap.isSome || io1.poison) && stop.isNone
      openLeaves who slot noWatch c rest (io1, if missed then some k else miss, if bad then some k else stop)

/-- A byte of the tile store as a view reads it: one that has passed to the engine since is unspecified (R2, R400). -/
def viewTileByte (d : Dev) (c : Crew) (n a : Nat) : Byte :=
  if a < c.tiles.mark then tabGet 0#8 c.tile a
  else (unspecWord d c (c.waves.headD default) n (600000 + a)).setWidth 8

/-- The marks since which a demand reads memory and scratchpad: those of its issue, or now (R401, R402). -/
def demandMarks (d : Dev) (c : Crew) (o : Op) (t : DemandOp) : Nat × Nat :=
  if t.fresh then (d.histSeq + 1, c.shistSeq + 1) else (o.memMark, o.scMark)

/-- The pattern element (i, j) of view k holds, in whichever space it lies (R387, R401, R402); `m` is the mark of its
reads of the scratchpad. -/
def leafBits (c : Crew) (io : Io) (m k i j : Nat) : Nat :=
  match nodeAt c k with
  | none => 0
  | some x =>
    let a := viewPlace x i j
    let z := tileSizeOf x.fmt
    match viewSpace x with
    | 0 => io.nat a z
    | 1 => natLE ((List.range z).map (fun b => scratchSince c m io.n (a + b)))
    | _ => natLE ((List.range z).map (fun b => viewTileByte io.dev c io.n (a + b)))

/-- The elements of a rectangle of a node, row by row. -/
def rectElems (c : Crew) (io : Io) (m n : Nat) (q : Rect) : List (Nat × Nat × Elem) :=
  (List.range (q.r1 - q.r0 + 1)).flatMap (fun r => (List.range (q.c1 - q.c0 + 1)).map (fun k =>
    (q.r0 + r, q.c0 + k, elemOf c.tiles.nodes (leafBits c io m) 257 n (q.r0 + r) (q.c0 + k))))

/-- R398: block b of a demanded region. -/
def blockRect (t : DemandOp) (b : Nat) : Rect :=
  let per := (t.col0 + t.cols - 1) / 64 - t.col0 / 64 + 1
  let r := t.row0 / 64 + b / per
  let k := t.col0 / 64 + b % per
  ⟨max t.row0 (64 * r), min (t.row0 + t.rows - 1) (64 * r + 63), max t.col0 (64 * k), min (t.col0 + t.cols - 1) (64 * k + 63)⟩

/-- A demand that stops at a step: its block is to be done again (R398, R409). -/
def demandStop (s : State) (c : Crew) (o : Op) (t : DemandOp) (io : Io) (stop : Option Nat) : State :=
  ioStop s c { o with body := .demand { t.restart with miss := io.missed, stop := stop } } io

/-- Where a demand writes element (i, j), and the bytes of an element there (R397). -/
def destPlace (t : DemandOp) (i j : Nat) : Nat × Nat :=
  match t.kind with
  | .store f base stride _ => (base + (i - t.row0) * stride + (j - t.col0) * tileSizeOf f, tileSizeOf f)
  | .force h => (h + 4 * ((i - t.row0) * t.cols + (j - t.col0)), 4)
  | .own => (0, 4)

/-- The touches of a STORE's writes to a rectangle. -/
def destTouches (t : DemandOp) (q : Rect) : List Touch :=
  match t.kind with
  | .store f _ _ 0 =>
    (List.range (q.r1 - q.r0 + 1)).map (fun k =>
      ⟨(destPlace t (q.r0 + k) q.c0).1, (q.c1 - q.c0 + 1) * tileSizeOf f, true⟩)
  | .store _ _ _ _ => []
  | .force _ => []
  | .own => []

/-- R397: an element as a STORE writes it: its pattern, and the element with the STORE's own rounding. -/
def storedElem (fmt : Word) (f code : Nat) (e : Elem) : Elem :=
  let r := roundTo (tileFormat f) (engineEnv (fmtRM fmt) (fmtSAT fmt) (fmtFTZ fmt)) 0 (decodeFmt (tileFormat code) e.bits)
  ⟨r.1, e.flags ||| r.2, e.inNaN⟩

/-- An element's exact FP32 pattern (R397, R405). -/
def elemWord (code : Nat) (e : Elem) : Word :=
  BitVec.ofNat 32 (roundTo .f32 ⟨0, false, false⟩ 0 (decodeFmt (tileFormat code) e.bits)).1

/-- An element of a node of format `code` as the demand writes it, and its events (R397, R405, R408). -/
def demandElem (fmt : Word) (kind : DemandKind) (code : Nat) (e : Elem) : Word × ElemEvents :=
  match kind with
  | .store f _ _ _ =>
    let y := storedElem fmt f code e
    (BitVec.ofNat 32 y.bits, elemCounts (tileFormat f) y)
  | .force _ | .own => (elemWord code e, elemCounts (tileFormat code) e)

/-- The writes of an evaluated block: the aligned words of each of its rows. -/
def blockWrites (t : DemandOp) (q : Rect) : List (Nat × List Byte) :=
  let w := q.c1 - q.c0 + 1
  (List.range (q.r1 - q.r0 + 1)).flatMap (fun r =>
    let p := destPlace t (q.r0 + r) q.c0
    wordsOf p.1 (((t.vals.drop (r * w)).take w).flatMap (fun x => bytesLE p.2 x.toNat)))

/-- The memory the current block touches: the bytes of its views' elements, then a STORE's own writes (R398). -/
def blockTouches (c : Crew) (t : DemandOp) (q : Rect) : List Touch :=
  (carryBack c.tiles.nodes t.node q).flatMap (fun p => match nodeAt c p.1 with
    | some y => viewTouches y p.2
    | none => []) ++ destTouches t q

/-- R398, R401, R408: the current block's rectangles opened and its elements evaluated, or the demand stopped. -/
def evalBlock (s : State) (c : Crew) (o : Op) (t : DemandOp) (x : TNode)
    (k : Io → List (Word × ElemEvents) → State) : State :=
  let q := blockRect t t.done
  let skip := unitSkips o (blockTouches c t q)
  let m := demandMarks s.dev c o t
  let (io, miss, stop) := openLeaves (opAsker c o) c.ctx skip c (carryBack c.tiles.nodes t.node q)
    (Io.start s.dev s.nfree m.1, none, none)
  if !io.good then demandStop s c o t io (if io.miss.isEmpty then stop else miss)
  else
    let io1 := (destTouches t q).foldl (ioTouch (opAsker c o) c.ctx skip) io
    if !io1.good then demandStop s c o t io1 none
    else k io1 ((rectElems c io1 m.2 t.node q).map (fun e => demandElem o.fmt t.kind x.fmt e.2.2))

/-- One word of a block written. -/
def writeBlockWord (kind : DemandKind) (st : Io × Crew) (w : Nat × List Byte) : Io × Crew :=
  match kind with
  | .store _ _ _ 0 => (st.1.write w.1 w.2, st.2)
  | .store _ _ _ _ => (st.1, putScratch st.2 w.1 w.2)
  | .force _ => (st.1, putTile st.2 w.1 w.2)
  | .own => st

/-- R121, R124, R397: some of the words of the evaluated block that are left written, at least one; with the last of them
the block is done and its events are counted (R408). -/
def writeBlock (s : State) (c : Crew) (o : Op) (t : DemandOp) : State :=
  let q := blockRect t t.done
  let io := ioOpen s.dev (opAsker c o) c.ctx s.nfree o.memMark true (destTouches t q)
  if !io.good then demandStop s c o t io none
  else
    let left := wordsRemaining t.part (blockWrites t q)
    let now := someOf s.nfree (2 ^ 69) left
    let (io1, c1) := now.foldl (fun st p => writeBlockWord t.kind st p.1) (io, c)
    if now.length < left.length then
      putCrew s io1.dev (setOp c1 { o with body := .demand { t with part := t.part ++ now.map Prod.snd } })
    else
      putCrew s io1.dev (setOp { c1 with mx := addTotals c1.mx t.evts }
        { passUnit o (blockTouches c t q) with body := .demand { t.restart with done := t.done + 1 } })

/-- R398: a block evaluated, and then written. -/
def runBlock (s : State) (c : Crew) (o : Op) (t : DemandOp) : State :=
  match nodeAt c t.node with
  | none => s
  | some x =>
    if t.vals.isEmpty then evalBlock s c o t x (fun io es =>
      putCrew s io.dev (setOp c { o with body := .demand { t with
        vals := es.map Prod.fst, evts := eventTotals (es.map Prod.snd), part := [] } }))
    else writeBlock s c o t

/-- A demand may take its next step: earlier accesses to the bytes of the tile store it needs are done (R378), and before
its first block the own writes over its views that were in flight when it issued (R402). -/
def demandTurn (c : Crew) (o : Op) (t : DemandOp) : Bool :=
  tileTurn c o && !(t.fresh && t.done == 0 && t.vals.isEmpty && behindWrites c o.id t.node)

/-- DEMAND_BLOCK: block b of a demand, in row-major order (R398). -/
def execDemandBlock (c o b : Nat) (s : State) : Out :=
  event s (fun s => stepping s c o (fun x p => match demandOf p with
    | none => s
    | some t =>
      if t.kind != .own && b == t.done && b < blockCount t.row0 t.col0 t.rows t.cols && demandTurn x p t then
        runBlock s x p t
      else s))

/-- TDEM_COMPLETE: the last block is written (R397). -/
def execTdemComplete (c o : Nat) (s : State) : Out :=
  event s (fun s => stepping s c o (fun x p => match demandOf p with
    | none => s
    | some t =>
      if t.kind != .own && blockCount t.row0 t.col0 t.rows t.cols ≤ t.done then
        putCrew s s.dev (gcNodes (completeOp s.dev x p s.nfree [] []))
      else s))

/-- The place of element (i, j) of a node among its values block by block (R398). -/
def matPlace (rows cols i j : Nat) : Nat :=
  let r := i / 64 * 64
  let k := j / 64 * 64
  r * cols + min 64 (rows - r) * k + (i - r) * min 64 (cols - k) + (j - k)

/-- R405: the node materialised, its values given block by block. -/
def materialised (y : TNode) (vals : List Word) : TNode :=
  { y with
    kind := .mat ((List.range (y.rows * y.cols)).map (fun k => vals.getD (matPlace y.rows y.cols (k / y.cols) (k % y.cols)) 0#32))
    srcs := [] }

/-- A forcing of a crew, found by its node, that may take its next step; one whose node another has freed ends. -/
def forcing (s : State) (c n : Nat) (k : Crew → Op → DemandOp → TNode → State) : State :=
  match findCrew s.dev c with
  | none => s
  | some x => match (demandsOf x).find? (fun d => d.2.kind == .own && d.2.node == n && d.1.status == .inflight) with
    | none => s
    | some (p, t) => match nodeAt x n with
      | none => putCrew s s.dev (completeOp s.dev x p s.nfree [] [])
      | some y => if x.state != .saved && mayStep x p && demandTurn x p t then k x p t y else s

/-- MATERIALISE: the next block of node n of a crew evaluated into the engine area; with its last the node is
materialised (R398, R405, R407).  Where the area no longer has room, the forcing ends and the waiting instruction takes
its fault. -/
def execMaterialise (c n : Nat) (s : State) : Out :=
  event s (fun s => forcing s c n (fun x p t y =>
    if !fitsEngine x y then putCrew s s.dev (gcNodes (completeOp s.dev x p s.nfree [] []))
    else evalBlock s x p t y (fun io es =>
      let x1 := { x with mx := addTotals x.mx (eventTotals (es.map Prod.snd)) }
      let vals := t.vals ++ es.map Prod.fst
      if t.done + 1 < blockCount t.row0 t.col0 t.rows t.cols then
        putCrew s io.dev (setOp x1 { passUnit p (blockTouches x t (blockRect t t.done)) with body := .demand { t with done := t.done + 1, vals := vals } })
      else putCrew s io.dev (gcNodes (completeOp io.dev (setNode x1 n (materialised y vals)) p s.nfree [] [])))))

end Sys2Proof.Machine
end

