-- ==== Sys2Proof/Machine/Units.lean ====
section
/-! DEFINITION. The commands of the copy engine unit by unit, the lines of those with the produce flag, and the room in the
engine's queue (R20, R279 to R281, R284, R286, R360, R377). -/

namespace Sys2Proof.Machine

/-! ### Units (R279 to R281, R360, R377) -/

/-- A unit: where its bytes go and come from.  Spaces are 0 virtual memory, 1 scratchpad, 2 the tile store, 3 the
weight load itself; a source of none is data at hand. -/
structure UnitPlan where
  len   : Nat
  dSp   : Nat
  dst   : Nat
  sSp   : Option Nat
  src   : Nat
  data  : List Byte
  cause : Option (Nat × Nat)   -- an element address that fails R277 (R296)
  deriving DecidableEq, Repr

/-- The space of a side of a copy. -/
def sideSp (scratch : Bool) : Nat := if scratch then 1 else 0

/-- Units of a TILE: destination, source and length, row by row. -/
def tileUnits (f : Nat) (b : List Word) : List (Nat × Nat × Nat) :=
  (List.range (tileRows b)).flatMap (fun r =>
    let d := cpyDst f b + r * blkWord b 7
    let q := cpySrc f b + r * blkWord b 6
    (cutRange (d, tileRb b)).map (fun p => (p.1, q + (p.1 - d), p.2)))

/-- An element address by its index: modulo the size of its space (R280). -/
def elemAddr (scratch : Bool) (base idx e : Nat) : Nat := (base + idx * e) % (if scratch then 2 ^ 32 else 2 ^ 64)

/-- The index of element k: the one read for it, or, before that, the word that stands in the array (R280). -/
def elemIndex (c : Crew) (b : List Word) (read : List (Nat × Nat)) (k : Nat) : Nat :=
  match read.find? (fun p => p.1 == k) with
  | some p => p.2
  | none => natLE (scratchBytes c (blkWord b 6 + 4 * k) 4)

/-- Unit k of GATHER or SCATTER. -/
def elemPlan (c : Crew) (sub f : Nat) (b : List Word) (read : List (Nat × Nat)) (k : Nat) : UnitPlan :=
  let e := blkWord b 4
  let idx := elemIndex c b read k
  let far := if sub == 2 then elemAddr (optSS f) (cpySrc f b) idx e else elemAddr (optDS f) (cpyDst f b) idx e
  let farScratch := if sub == 2 then optSS f else optDS f
  let cause := if farScratch && c.scratchSize < far + e then some (0x06, far) else none
  if sub == 2 then ⟨e, sideSp (optDS f), cpyDst f b + k * e, some (sideSp (optSS f)), far, [], cause⟩
  else ⟨e, sideSp (optDS f), far, some (sideSp (optSS f)), cpySrc f b + k * e, [], cause⟩

/-- The fill pattern from an address on (R279). -/
def fillData (b : List Word) (a n : Nat) : List Byte :=
  (List.range n).map (fun i => (bytesLE 4 (blkWord b 6)).getD ((a + i) % 4) 0#8)

/-- The piece of an XFORM's output that unit u is: its place and length, up to `n` bytes beyond what is written. -/
def xformPiece (dst outb n : Nat) : Nat × Nat :=
  let a := dst + outb
  (a, min n ((a / 128 + 1) * 128 - a))

/-- The whole output piece, or what is left of the output once the routine has ended. -/
def xformUnit (f : Nat) (b : List Word) (x : Xform) : Option UnitPlan :=
  let a := cpyDst f b + x.outb
  let whole := (a / 128 + 1) * 128 - a
  let n := if whole ≤ x.pend.length then whole else if x.code.isSome || xformBound b ≤ x.outb + x.pend.length then x.pend.length else 0
  if n == 0 then none else some ⟨n, sideSp (optDS f), a, none, 0, x.pend.take n, none⟩

/-- The units of a TSMOV memory form, each a place in the tile store, a memory address and a length: the rows cut at
every multiple of 128 of the destination (R279, R377). -/
def tsmovUnits (p : CopyOp) (toMem : Bool) (stride : Nat) : List (Nat × Nat × Nat) :=
  let w := fun k => (p.block.getD k 0#32).toNat
  let rb := w 1 % 65536
  (List.range (w 1 / 65536)).flatMap (fun r =>
    let t := w 0 + r * rb
    let m := w 2 + 2 ^ 32 * w 3 + r * stride
    (cutRange (if toMem then m else t, rb)).map (fun q =>
      if toMem then (t + (q.1 - m), q.1, q.2) else (q.1, m + (q.1 - t), q.2)))

/-- Unit u of a command; none beyond its last, and none of an XFORM while its output is still to come. -/
def unitPlan (c : Crew) (p : CopyOp) (u : Nat) : Option UnitPlan :=
  match p.kind with
  | .wbuf _ _ =>
    let l := WLoad.ofBlock p.block
    l.units[u]?.map (fun r => ⟨r.2, 3, 0, some (sideSp l.ss), r.1, [], none⟩)
  | .tsmov toMem stride =>
    (tsmovUnits p toMem stride)[u]?.map (fun r =>
      if toMem then ⟨r.2.2, 0, r.2.1, some 2, r.1, [], none⟩ else ⟨r.2.2, 2, r.1, some 0, r.2.1, [], none⟩)
  | .cpy sub f =>
    let b := p.block
    match sub with
    | 1 => (tileUnits f b)[u]?.map (fun r => ⟨r.2.2, sideSp (optDS f), r.1, some (sideSp (optSS f)), r.2.1, [], none⟩)
    | 2 => if u < blkWord b 7 then some (elemPlan c 2 f b p.idx u) else none
    | 3 => if u < blkWord b 7 then some (elemPlan c 3 f b p.idx u) else none
    | 4 => match p.xf with
      | some x => if u == p.prog then xformUnit f b x else none
      | none => none
    | 5 => (cutRange (cpyDst f b, blkWord b 4))[u]?.map (fun r =>
        ⟨r.2, sideSp (optDS f), r.1, none, 0, fillData b r.1 r.2, none⟩)
    | _ => (cutRange (cpyDst f b, blkWord b 4))[u]?.map (fun r =>
        ⟨r.2, sideSp (optDS f), r.1, some (sideSp (optSS f)), cpySrc f b + (r.1 - cpyDst f b), [], none⟩)

/-- The command with the index of unit u read, where it has one (R280). -/
def readIndex (c : Crew) (p : CopyOp) (u : Nat) : CopyOp :=
  match p.kind with
  | .cpy sub _ =>
    if (sub == 2 || sub == 3) && !p.idx.any (fun q => q.1 == u) then { p with idx := (u, elemIndex c p.block p.idx u) :: p.idx } else p
  | .wbuf _ _ | .tsmov _ _ => p

/-- Unit u is the last of the units in its destination line (R284). -/
def lineEnds (c : Crew) (p : CopyOp) (u : Nat) (x : UnitPlan) : Bool :=
  match unitPlan c p (u + 1) with
  | some y => y.dst / 128 != x.dst / 128
  | none => true

/-- The command has the produce flag. -/
def hasP (p : CopyOp) : Bool :=
  match p.kind with
  | .cpy _ f => optP f
  | .wbuf _ _ => false
  | .tsmov _ _ => false

/-- Its units go strictly in order: SCATTER (R280), XFORM (R281), weight loads (R360), and with P (R284). -/
def inOrder (p : CopyOp) : Bool :=
  match p.kind with
  | .cpy sub f => sub == 3 || sub == 4 || optP f
  | .wbuf _ _ => true
  | .tsmov _ _ => false

/-! ### Lines of produce-flagged commands (R284) -/

/-- The destination lines a produce-flagged command has not yet filled. -/
def linesLeft (p : CopyOp) : List Nat :=
  match p.kind with
  | .cpy sub f =>
    let b := p.block
    let lines := match sub with
      | 1 => (tileUnits f b).map (fun (r : Nat × Nat × Nat) => r.1 / 128)
      | 2 => ((List.range (blkWord b 7)).map (fun k => (cpyDst f b + k * blkWord b 4) / 128))
      | _ => (cutRange (cpyDst f b, (cpyDstLen sub b).getD 0)).map (fun (r : Nat × Nat) => r.1 / 128)
    lines.drop p.prog
  | .wbuf _ _ => []
  | .tsmov _ _ => []

/-- R284: the line is empty, no other command has taken it, and no earlier produce-flagged command of the wave is still
to take it. -/
def lineFree (c : Crew) (o : Op) (line : Nat) : Bool :=
  !lineFull c line && !c.ops.any (fun e => e.id != o.id && takesLine e line) &&
  !c.ops.any (fun e => e.wave == o.wave && decide (e.id < o.id) && (match copyOf e with
    | some q => hasP q && (linesLeft q).contains line
    | none => false))

/-- The next line of a produce-flagged command is full: it waits in the side list where there is room (R286). -/
def waitsForLine (c : Crew) (p : CopyOp) : Bool :=
  hasP p && (match unitPlan c p p.prog with
    | some x => lineFull c (x.dst / 128)
    | none => false)

/-- The queue entries a core's commands hold: all in flight but those in its side list of 16 (R286). -/
def coreEntries (crews : List Crew) (core : Nat) : Nat :=
  let l := crews.flatMap (fun c => if c.core == core && c.state != .saved then
    c.ops.filterMap (fun o => if o.status == .inflight then (copyOf o).map (fun p => (c, p)) else none) else [])
  l.length - min 16 (l.filter (fun q => waitsForLine q.1 q.2)).length

/-- R286: the quad's engine has a free queue entry. -/
def copyRoom (s : State) : Bool :=
  let q := quadOf s.crew.core
  let crews := s.crew :: s.dev.crews
  ([q, q + 1, q + 48, q + 49].map (coreEntries crews)).sum < 32

end Sys2Proof.Machine
end

