-- ==== Sys2Proof/Machine/Matrix.lean ====
section
/-! DEFINITION. The matrix engine: WBUF, MMAO, MMAT and TSMOV, and the steps in which they complete (R355 to R381). -/

namespace Sys2Proof.Machine

/-! ### Types (R366) -/

/-- K of a type. -/
def matK (t : Nat) : Nat := [32, 32, 64, 128, 128, 64, 128].getD t 32

/-- nA of a type. -/
def matRegs (t : Nat) : Nat := if t == 3 then 26 else 16

/-- bA: the elements of k one A scale serves. -/
def matSpan (fmt : Word) (k : Nat) : Nat := scaleBlock (fmtSBLK fmt) k

/-- nS. -/
def matScales (t : Nat) (fmt : Word) (k : Nat) : Nat := if t < 2 then 0 else ceilDiv (ceilDiv k (matSpan fmt k)) 4

/-- A code of FMT where the table of R366 allows it; the fixed code of the other types. -/
def matCode (t x : Nat) : Option Nat :=
  match t with
  | 0 => some 0
  | 1 => some 1
  | 2 => if x == 2 || x == 3 then some x else none
  | 3 => if x == 4 || x == 5 then some x else none
  | 4 => if x == 6 then some 6 else none
  | 5 => some 7
  | _ => some 8

/-- The A format. -/
def matA (t : Nat) (fmt : Word) : Option Nat := matCode t (fmtAF fmt)

/-- The EF a slot must have. -/
def matB (t : Nat) (fmt : Word) : Option Nat := matCode t (fmtBF fmt)

/-- The codes of FMT lie inside the table. -/
def matFmtOk (t : Nat) (fmt : Word) : Bool := (matA t fmt).isSome && (matB t fmt).isSome

/-- A slot meets the table for a product over k rows and n columns. -/
def slotFits (t : Nat) (fmt : Word) (k n : Nat) (x : Slot) : Bool :=
  matB t fmt == some x.ef && k ≤ x.k && n ≤ x.n

/-! ### The slot as the instructions issued so far leave it (R355, R371) -/

/-- The cores whose slot an accepted load writes: its own, or those of the patch word (R360). -/
def loadReaches (c : Crew) (p : CopyOp) (core : Nat) : Bool :=
  match p.kind with
  | .wbuf true _ =>
    let w := Patch.ofWord (p.block.getD 5 0#32)
    decide (w.px ≤ core % 48) && decide (core % 48 < w.px + 2 ^ w.a) && decide (w.py ≤ core / 48) &&
      decide (core / 48 < w.py + 2 ^ w.b)
  | .wbuf false _ => c.core == core
  | .cpy _ _ => false
  | .tsmov _ _ => false

/-- The later of two slots by their places. -/
def laterSlot (a b : Rank × Slot) : Rank × Slot := if a.1.before b.1 then b else a

/-- R371: the state of slot f as the last LOAD, MCAST or INVAL issued on the crew's core sets it. -/
def slotAhead (s : State) (f : Nat) : Slot :=
  let core := s.crew.core
  let loads := (s.crew :: s.dev.crews).flatMap (fun c =>
    if c.core == core && c.state != .saved then
      c.ops.filterMap (fun o => match copyOf o with
        | some p => if wbufSlot o == some f then some (opRank o, loadedSlot c p.block []) else none
        | none => none)
    else [])
  let invals := s.dev.slotInvals.filterMap (fun v =>
    if v.core == core && v.slot == f && invalLive s.dev v then some (v.rank, (default : Slot)) else none)
  match loads ++ invals with
  | [] => slotOf s.dev core f
  | x :: rest => (rest.foldl laterSlot x).2

/-! ### Elements (R367, R358, R368) -/

/-- An A element from its pattern and its scale byte. -/
def matElem (cmp : Ext → Ext) (a q : Nat) (scale : Option Nat) : Factor :=
  mkFactor ((formatOfCode a).getD .f16) cmp q scale

/-- R367: aval from a lane's A and scale registers. -/
def regElem (cmp : Ext → Ext) (t : Nat) (fmt : Word) (a : Nat) (regs : List Word) (k : Nat) : Factor :=
  let w := codeWidth a
  let e := 32 / w
  let q := (regs.getD (k / e) 0#32).toNat / 2 ^ (w * (k % e)) % 2 ^ w
  let j := k / matSpan fmt (matK t)
  matElem cmp a q (if t < 2 then none
    else some ((regs.getD (matRegs t + j / 4) 0#32).toNat / 2 ^ (8 * (j % 4)) % 256))

/-- Companding of an element as a matrix operation in flight sees it (R101, R102). -/
def matCompand (s : State) (c : Crew) (o : Op) (key : Nat) : Ext → Ext :=
  compandFlight s.dev c.ctx o s.nfree key 0x200

/-- bval of slot f as fetched now: zeros when the slot is not the context's, or does not fit (R363, R371). -/
def fetchElem (s : State) (c : Crew) (o : Op) (f : Nat) (fits : Slot → Bool) (k n : Nat) : Factor :=
  let x := slotOf s.dev c.core f
  if slotMine c x && fits x then slotElem (matCompand s c o (900000 + 1024 * k + n)) x k n
  else (extZero false, false)

/-- R104, R107, R368: an output element's FP32 pattern and its events. -/
def matResult (fmt : Word) (acc : Ext) (ps : List (Factor × Factor)) : Word × ElemEvents :=
  let r := mmaElement (accFormat fmt) (engineEnv (fmtRM fmt) (fmtSAT fmt) true) acc (ps.map (fun p => (p.1.1, p.2.1)))
  (BitVec.ofNat 32 (roundTo .f32 exactEnv 0 r.1).1,
   elemEvents r.2 r.1 (extIsNaN acc || ps.any (fun p => p.1.2 || p.2.2)))

/-- An FP32 accumulator, read under FMT.DAZ (R93). -/
def matAcc (fmt : Word) (x : Nat) : Ext := (readFloat .f32 (fmtDAZ fmt) x).1

/-! ### MMAO (R365 to R371) -/

/-- MMAO. -/
def execMmao (t f : BitVec 4) (a b : BitVec 8) (s : State) : Out :=
  longLatency (.mmao t f a b) .matrix s (fun s g =>
    let ty := t.toNat
    let nr := matRegs ty + matScales ty s.frag.fmt (matK ty)
    let va := a.toNat
    let vd := b.toNat
    let x := slotAhead s f.toNat
    if s.crew.vregs < va + nr || s.crew.vregs < vd + 16 || (decide (va < vd + 16) && decide (vd < va + nr)) ||
        !matFmtOk ty s.frag.fmt || (slotMine s.crew x && !slotFits ty s.frag.fmt (matK ty) 16 x) then
      takeTrap s 0x08 false
    else if s.frag.exec == 0#96 then advance s
    else
      let rows := (laneList s.frag.exec).map (fun l =>
        (l, (List.range nr).map (fun k => readV s (va + k) l), (List.range 16).map (fun k => readV s (vd + k) l)))
      let o := newOp s (some g) s.frag.exec (.mmao ⟨ty, f.toNat, vd, rows⟩)
      issueOp s { o with dstV := (List.range 16).map (vd + ·) })

/-- The rows of an MMAO computed: for each lane still there, its sixteen elements (R368 to R370). -/
def mmaoRows (s : State) (c : Crew) (o : Op) (m : MmaoOp) : List (Nat × List (Word × ElemEvents)) :=
  let a := (matA m.type o.fmt).getD 0
  let kk := matK m.type
  let b := fetchElem s c o m.slot (slotFits m.type o.fmt kk 16)
  (m.rows.filter (fun r => laneAlive c o.wave r.1)).map (fun r =>
    let av := (List.range kk).map (fun k =>
      regElem (matCompand s c o (700000 + 1024 * r.1 + k)) m.type o.fmt a r.2.1 k)
    (r.1, (List.range 16).map (fun n =>
      matResult o.fmt (matAcc o.fmt (r.2.2.getD n 0#32).toNat) (av.mapIdx (fun k x => (x, b k n))))))

/-- MMAO_COMPLETE: the slot fetched in its turn, the rows written and counted (R362, R368, R380). -/
def execMmaoComplete (c o : Nat) (s : State) : Out :=
  event s (fun s => stepping s c o (fun x p => match mmaoOf p with
    | none => s
    | some m =>
      if slotTurn s.dev x m.slot p then
        let rows := mmaoRows s x p m
        let vs := rows.flatMap (fun r => r.2.mapIdx (fun n e => (96 * (m.dst + n) + r.1, e.1)))
        let x1 := { x with mx := countElems x.mx (rows.flatMap (fun r => r.2.map Prod.snd)) }
        putCrew s s.dev (completeOp s.dev x1 p s.nfree vs [])
      else s))

/-! ### MMAT (R372 to R375) -/

/-- MMAT. -/
def execMmat (t f : BitVec 4) (a : BitVec 8) (s : State) : Out :=
  longLatency (.mmat t f a) .matrix s (fun s g =>
    let ty := t.toNat
    let w := fun k => (readS s (a.toNat - 0x80 + k)).toNat
    let m := w 3 % 128
    let ng := bitsOf (w 3) 14 8
    let x := slotAhead s f.toNat
    let mine := slotMine s.crew x
    let k := if mine then x.k else matK ty
    let srs := 4 * matScales ty s.frag.fmt k
    let rb := ceilDiv (k * codeWidth ((matA ty s.frag.fmt).getD 0)) 8
    if 2 ^ 16 ≤ w 3 || (w 3).testBit 7 || m == 0 || 64 < m || ng == 0 || 64 < ng || !matFmtOk ty s.frag.fmt ||
        (mine && (x.n < 16 * ng || k % 16 != 0 || !slotFits ty s.frag.fmt (matK ty) 16 x)) then
      takeTrap s 0x08 false
    else if w 0 % 4 != 0 || w 1 % 4 != 0 || w 2 % 4 != 0 then takeTrap s 0x07 false
    else if s.crew.scratchSize < w 0 + m * w 1 + m * srs || s.crew.scratchSize < w 0 + (m - 1) * w 1 + rb ||
        s.crew.tiles.mark < w 2 + 64 * m * ng then takeTrap s 0x06 false
    else match rangeHook s [(2, w 2, 64 * m * ng)] with
      | some s' => s'
      | none =>
        issueOp s { newOp s (some g) s.frag.lanes
            (.mmat ⟨ty, f.toNat, w 0, w 1, w 2, m, ng, (w 3).testBit 15, k, s.crew.opcGen⟩) with lanes := s.frag.lanes })

/-- The bytes of a scale row (R367). -/
def mmatScaleBytes (o : Op) (m : MmatOp) : Nat := 4 * matScales m.type o.fmt m.k

/-- The bytes of an A row (R374). -/
def mmatRowBytes (o : Op) (m : MmatOp) : Nat :=
  ceilDiv (m.k * codeWidth ((matA m.type o.fmt).getD 0)) 8

/-- The rows an MMAT fetches, each a place in the scratchpad and a length: its A rows, then its scale rows (R373). -/
def mmatRows (o : Op) (m : MmatOp) : List (Nat × Nat) :=
  (List.range m.m).map (fun i => (m.ao + i * m.ars, mmatRowBytes o m)) ++
  (List.range m.m).map (fun i => (m.ao + m.m * m.ars + i * mmatScaleBytes o m, mmatScaleBytes o m))

/-- The tag an MMAT looks for (R375). -/
def mmatTag (o : Op) (m : MmatOp) : OpcEntry :=
  ⟨m.ao, m.ars, m.m, m.type, (matA m.type o.fmt).getD 0, matSpan o.fmt m.k, m.k, m.gen, []⟩

/-- The crew's operand-cache entries with an MMAT's tag (R375). -/
def opcHits (c : Crew) (o : Op) (m : MmatOp) : List OpcEntry :=
  c.opc.filter (fun e => { e with rows := [] } == mmatTag o m)

/-- Byte j of row r of an MMAT.  Each word comes from an entry of the operand cache, or from the scratchpad as it stood
at some moment since the MMAT issued (R120, R272, R375). -/
def mmatByte (c : Crew) (n : Nat) (hits : List OpcEntry) (o : Op) (r at_ j : Nat) : Byte :=
  match hits[Config.freeNat n (500000 + 512 * r + j / 4) % (hits.length + 1)]? with
  | some e => (e.rows.getD r []).getD j 0#8
  | none => scratchSince c o.scMark n (at_ + j)

/-- The bytes an MMAT fetches, row by row. -/
def mmatFetch (c : Crew) (n : Nat) (o : Op) (m : MmatOp) : List (List Byte) :=
  let hits := opcHits c o m
  (mmatRows o m).mapIdx (fun r p => (List.range p.2).map (mmatByte c n hits o r p.1))

/-- Row i of A (R373), from the rows fetched. -/
def tileRow (s : State) (c : Crew) (o : Op) (m : MmatOp) (rows : List (List Byte)) (i : Nat) : List Factor :=
  let a := (matA m.type o.fmt).getD 0
  let w := codeWidth a
  let row := rows.getD i []
  let scales := rows.getD (m.m + i) []
  (List.range m.k).map (fun k =>
    matElem (matCompand s c o (700000 + 1024 * i + k)) a (packedElem row 0 w k)
      (if m.type < 2 then none else some (scales.getD (k / matSpan o.fmt m.k) 0#8).toNat))

/-- R373: the elements of D with their places in the tile store.  Where the slot's K at the fetch is not the K of
issue, B reads as zeros; the spec does not say which K the product then takes (DESIGN CHOICE; assumption 88). -/
def mmatElems (s : State) (c : Crew) (o : Op) (m : MmatOp) (rows : List (List Byte)) : List (Nat × Word × ElemEvents) :=
  let cols := 16 * m.ng
  let b := fetchElem s c o m.slot (fun x => matB m.type o.fmt == some x.ef && x.k == m.k && cols ≤ x.n)
  (List.range m.m).flatMap (fun i =>
    let av := tileRow s c o m rows i
    (List.range cols).map (fun n =>
      let p := m.dh + 4 * (i * cols + n)
      let acc := if m.z then extZero false else matAcc o.fmt (natLE (tileBytes c p 4))
      (p, matResult o.fmt acc (av.mapIdx (fun k x => (x, b k n))))))

/-- MMAT_COMPLETE (R362, R373, R378, R380). -/
def execMmatComplete (c o : Nat) (s : State) : Out :=
  event s (fun s => stepping s c o (fun x p => match mmatOf p with
    | none => s
    | some m =>
      if slotTurn s.dev x m.slot p && tileTurn x p then
        let rows := mmatFetch x s.nfree p m
        let es := mmatElems s x p m rows
        let x1 := { x with mx := countElems x.mx (es.map (fun e => e.2.2)) }
        let x2 := es.foldl (fun c e => putTile c e.1 (bytesLE 4 e.2.1.toNat)) x1
        let e := { mmatTag p m with rows := rows }
        let x3 := if x2.opc.contains e then x2 else { x2 with opc := e :: x2.opc }
        putCrew s s.dev (completeOp s.dev x3 p s.nfree [] [])
      else s))

/-! ### WBUF (R356 to R364) -/

/-- The slot-list entry F: the word with SUB 0, then words 0 to 6 of the block (R364). -/
def listSlot (c : Crew) (f : Nat) (bs : List Byte) : Crew := parkPut c (0x1000 + 32 * f) bs

/-- LOAD or MCAST of slot f issued, its block checked; the copy engine carries it out, and it waits at issue for a free entry of
that engine's queue (R196, R286, R359, R360, R364). -/
def issueWbuf (s : State) (g : Nat) (mcast : Bool) (f : Nat) (a : BitVec 8) : State :=
  let b := blockWords s a
  let badPatch := mcast && !patchOk (b.getD 5 0#32) (jobHere s).card s.crew.cx s.crew.cy
  let cause := if badPatch then some 0x08 else WLoad.cause b s.crew.scratchSize
  match cause with
  | some k => takeTrap s k false
  | none =>
    if !copyRoom s then stall s
    else
      let o := newOp s (some g) s.frag.lanes (.copy (.start (.wbuf mcast f) b none))
      let word := curWord s.frag &&& ~~~0x0F00#32
      let s1 := issueOp s { o with lanes := s.frag.lanes }
      { s1 with crew := listSlot s1.crew f ((word :: b.take 7).flatMap (fun w => bytesLE 4 w.toNat)) }

/-- WBUF.LOAD. -/
def execWbufLoad (f : BitVec 4) (a : BitVec 8) (s : State) : Out :=
  longLatency (.wbufLoad f a) .matrix s (fun s g => issueWbuf s g false f.toNat a)

/-- WBUF.MCAST. -/
def execWbufMcast (f : BitVec 4) (a : BitVec 8) (s : State) : Out :=
  longLatency (.wbufMcast f a) .matrix s (fun s g => issueWbuf s g true f.toNat a)

/-- Some access of the core to slot f is still to be done. -/
def slotBusy (s : State) (f : Nat) : Bool :=
  (s.crew :: s.dev.crews).any (fun c => c.core == s.crew.core && c.state != .saved && c.ops.any (fun o => usesSlot o f)) ||
  s.dev.slotInvals.any (fun v => v.core == s.crew.core && v.slot == f)

/-- WBUF.INVAL: at once when nothing earlier is outstanding, else in its turn (R361, R362, R364). -/
def execWbufInval (f : BitVec 4) (s : State) : Out :=
  checked (.wbufInval f) .matrix s (fun s =>
    let busy := slotBusy s f.toNat
    let d := if busy then
        { s.dev with slotInvals := s.dev.slotInvals ++ [⟨s.crew.core, f.toNat, s.nfree, s.crew.nextOp, some s.crew.uid⟩] }
      else clearSlot s.dev (16 * s.crew.core + f.toNat)
    let c := if busy then { s.crew with nextOp := s.crew.nextOp + 1 } else s.crew
    advance { s with dev := d, crew := listSlot c f.toNat (zeroBytes 32) })

/-- R355: the slot's map as the crew reads it. -/
def slotMap (c : Crew) (x : Slot) (pending : Bool) : Nat :=
  (if slotMine c x then
    x.ef + 16 * x.form + (if x.sc then 128 else 0) + 256 * x.sb + 1024 + 2 ^ 32 * x.k + 2 ^ 48 * x.n
   else 0) + (if pending then 2048 else 0)

/-- WBUF.QUERY (R361). -/
def execWbufQuery (f : BitVec 4) (a : BitVec 8) (s : State) : Out :=
  checked (.wbufQuery f a) .matrix s (fun s =>
    let core := s.crew.core
    let pending := loadPending (s.crew :: s.dev.crews) core f.toNat (fun c p k => loadReaches c p k)
    advance (writeS64 s (a.toNat - 0x80) (BitVec.ofNat 64 (slotMap s.crew (slotOf s.dev core f.toNat) pending))))

/-- WBUF_COMPLETE: the source is read and the slot's turn has come (R360, R362). -/
def execWbufComplete (c o : Nat) (s : State) : Out :=
  event s (fun s => stepping s c o (fun x p => match copyOf p with
    | none => s
    | some m => match m.kind with
      | .wbuf _ f =>
        if (WLoad.ofBlock m.block).units.length ≤ m.prog && slotTurn s.dev x f p then
          let new := loadedSlot x m.block m.data
          let d := (List.range 4608).foldl (fun d k =>
            if loadReaches x m k then { d with slots := tabSet default d.slots (16 * k + f) new } else d) s.dev
          putCrew s d (completeOp d x p s.nfree [] [])
        else s
      | .cpy _ _ => s
      | .tsmov _ _ => s))

/-! ### TSMOV (R376, R377) -/

/-- One past the highest active lane. -/
def laneTop (e : Lanes) : Nat := (laneList e).foldl (fun m l => max m (l + 1)) 0

/-- TSMOV.TOREG and FROMREG at issue (R376). -/
def issueTsreg (s : State) (g : Nat) (toReg : Bool) (n : Nat) (a b : BitVec 8) : State :=
  let h := (readS s (a.toNat - 0x80)).toNat
  let ls := laneList s.frag.exec
  if h % 4 != 0 then takeTrap s 0x07 false
  else if s.crew.tiles.mark < h + 4 * n * laneTop s.frag.exec then takeTrap s 0x06 false
  else if ls.isEmpty then advance s
  else match if toReg then none else rangeHook s (ls.map (fun l => (2, h + 4 * n * l, 4 * n))) with
    | some s' => s'
    | none =>
      let vals := if toReg then [] else ls.flatMap (fun l => (List.range n).map (fun j => (l, j, readV s (b.toNat + j) l)))
      let o := newOp s (some g) s.frag.exec (.tsreg ⟨toReg, h, n, b.toNat, vals⟩)
      issueOp s { o with dstV := if toReg then (List.range n).map (b.toNat + ·) else [] }

/-- TSMOV.TOREG. -/
def execTsmovToreg (n : BitVec 4) (a b : BitVec 8) (s : State) : Out :=
  longLatency (.tsmovToreg n a b) .matrix s (fun s g => issueTsreg s g true (n.toNat + 1) a b)

/-- TSMOV.FROMREG. -/
def execTsmovFromreg (n : BitVec 4) (a b : BitVec 8) (s : State) : Out :=
  longLatency (.tsmovFromreg n a b) .matrix s (fun s g => issueTsreg s g false (n.toNat + 1) a b)

/-- The memory forms at issue; they wait for a free entry of the copy engine's queue (R196, R286, R377). -/
def issueTsmem (s : State) (g : Nat) (toMem : Bool) (a b : BitVec 8) : State :=
  let w := fun k => readS s (a.toNat - 0x80 + k)
  let h := (w 0).toNat
  let rb := (w 1).toNat % 65536
  let rows := (w 1).toNat / 65536
  let base := (w 2).toNat + 2 ^ 32 * (w 3).toNat
  let stride := (readS s (b.toNat - 0x80)).toNat
  if rb == 0 || 16777215 < rows * rb then takeTrap s 0x08 false
  else if !rangeCanonical base (rowSpan rows rb stride) then takeTrap s 0x05 false
  else if s.crew.tiles.mark < h + rows * rb then takeTrap s 0x06 false
  else if rows == 0 then advance s
  else if !copyRoom s then stall s
  else match rangeHook s (if toMem then strideRows 0 base rows rb stride else [(2, h, rows * rb)]) with
    | some s' => s'
    | none =>
      let c := CopyOp.start (.tsmov toMem stride) [w 0, w 1, w 2, w 3] none
      issueOp s { newOp s (some g) s.frag.lanes (.copy c) with lanes := s.frag.lanes }

/-- TSMOV.TOMEM. -/
def execTsmovTomem (a b : BitVec 8) (s : State) : Out :=
  longLatency (.tsmovTomem a b) .matrix s (fun s g => issueTsmem s g true a b)

/-- TSMOV.FROMMEM. -/
def execTsmovFrommem (a b : BitVec 8) (s : State) : Out :=
  longLatency (.tsmovFrommem a b) .matrix s (fun s g => issueTsmem s g false a b)

/-- TSMOV_COMPLETE: a register form moves its words in its turn; a memory form whose units are all done completes
(R376 to R378). -/
def execTsmovComplete (c o : Nat) (s : State) : Out :=
  event s (fun s => stepping s c o (fun x p =>
    match tsregOf p with
    | some t =>
      if !tileTurn x p then s
      else if t.toReg then
        let vs := ((laneList p.lanes).filter (laneAlive x p.wave)).flatMap (fun l => (List.range t.n).map (fun j =>
          (96 * (t.dst + j) + l, BitVec.ofNat 32 (natLE (tileBytes x (t.h + 4 * (t.n * l + j)) 4)))))
        putCrew s s.dev (completeOp s.dev x p s.nfree vs [])
      else
        let x1 := t.vals.foldl (fun c v => putTile c (t.h + 4 * (t.n * v.1 + v.2.1)) (bytesLE 4 v.2.2.toNat)) x
        putCrew s s.dev (completeOp s.dev x1 p s.nfree [] [])
    | none => match copyOf p with
      | none => s
      | some m => match m.kind with
        | .tsmov toMem stride =>
          if (tsmovUnits m toMem stride).length ≤ m.prog then putCrew s s.dev (completeOp s.dev x p s.nfree [] []) else s
        | .wbuf _ _ => s
        | .cpy _ _ => s))

end Sys2Proof.Machine
end

