-- ==== Sys2Proof/Machine/Copy.lean ====
section
/-! DEFINITION. The copy engine: CPY and CBATCH at issue, the units of its commands, produce-flagged lines, and their
completion (R274 to R289, R295 to R301). -/

namespace Sys2Proof.Machine

/-! ### Checks at issue (R277) -/

/-- R277, check 1. -/
def cpyLimits (sub : Nat) (b : List Word) : Bool :=
  match sub with
  | 1 => tileRb b != 0 && tileRows b * tileRb b ≤ 16777215
  | 2 => [1, 2, 4, 8, 16, 32, 64, 128].contains (blkWord b 4) && blkWord b 7 ≤ 4096
  | 3 => [1, 2, 4, 8, 16, 32, 64, 128].contains (blkWord b 4) && blkWord b 7 ≤ 4096
  | _ => blkWord b 4 ≤ 16777215

/-- R284: with P, every destination line is whole. -/
def wholeLines (sub f : Nat) (b : List Word) : Bool :=
  cpyDst f b % 128 == 0 &&
  (match sub with
    | 1 => blkWord b 7 % 128 == 0 && tileRb b % 128 == 0
    | 2 => blkWord b 7 * blkWord b 4 % 128 == 0
    | 4 => xformBound b % 128 == 0
    | _ => blkWord b 4 % 128 == 0)

/-- R277, check 2. -/
def cpyAligned (sub f : Nat) (b : List Word) : Bool :=
  (!optCR f || blkWord b 5 % 16 == 0) &&
  (!(sub == 2 || sub == 3) ||
    (cpySrc f b % blkWord b 4 == 0 && cpyDst f b % blkWord b 4 == 0 && blkWord b 6 % 4 == 0)) &&
  (!optP f || wholeLines sub f b)

/-- The virtual ranges the block names. -/
def cpyVirtual (sub f : Nat) (b : List Word) : List (Nat × Nat) :=
  (match cpySrcLen sub b with
    | some n => if optSS f then [] else [(cpySrc f b, n)]
    | none => []) ++
  (match cpyDstLen sub b with
    | some n => if optDS f then [] else [(cpyDst f b, n)]
    | none => [])

/-- The scratchpad ranges the block names (R277, check 4). -/
def cpyScratch (sub f : Nat) (b : List Word) : List (Nat × Nat) :=
  (match cpySrcLen sub b with
    | some n => if optSS f then [(cpySrc f b, n)] else []
    | none => []) ++
  (match cpyDstLen sub b with
    | some n => if optDS f then [(cpyDst f b, n)] else []
    | none => []) ++
  (if optCR f then [(blkWord b 5, 16)] else []) ++
  (if sub == 2 || sub == 3 then [(blkWord b 6, 4 * blkWord b 7)] else []) ++
  (if sub == 4 && xformStat b != 0xFFFFF then [(8 * xformStat b, 8)] else [])

/-- R277, R282: the first check that fails, its cause; the addresses of an empty range are checked too, an offset at most
SCRATCH being in bounds for it (assumption 58). -/
def cpyCause (scratch sub f : Nat) (b : List Word) : Option Nat :=
  if !cpyLimits sub b then some 0x08
  else if !cpyAligned sub f b then some 0x07
  else if (cpyVirtual sub f b).any (fun r => !rangeCanonical r.1 r.2) then some 0x05
  else if (cpyScratch sub f b).any (fun r => decide (scratch < r.1 + r.2)) then some 0x06
  else none

/-- R282: the command has nothing to move. -/
def cpyEmpty (sub : Nat) (b : List Word) : Bool :=
  match sub with
  | 1 => tileRows b == 0
  | 2 => blkWord b 7 == 0
  | 3 => blkWord b 7 == 0
  | 4 => false
  | _ => blkWord b 4 == 0

/-! ### Issue -/

/-- The image of the routine an XFORM runs; none where no routine of that number is installed (R292). -/
def routineImage (d : Dev) (r : Nat) : Option (List Byte) :=
  (d.plat.sec.routines.find? (fun p => p.1 == r)).map Prod.snd

/-- A routine before its first instruction, at its image's ENTRY (R290, R486; assumption 47). -/
def routineStart (r : Nat) (image : List Byte) : Config.RoutineState :=
  let entry := if 64 ≤ r then BitVec.ofNat 64 (natLE ((image.drop 16).take 8)) else 0x80000000#64
  ⟨entry :: List.replicate 328 0#64, [], [], []⟩

/-- The transform state of a command as it is issued. -/
def xformStart (d : Dev) (b : List Word) : Xform :=
  let r := blkWord b 6 % 256
  match routineImage d r with
  | some im => ⟨r, im, routineStart r im, 0, [], [], [], [], 0, 0, false, none, none⟩
  | none => ⟨r, [], routineStart r [], 0, [], [], [], [], 0, 0, false, some 5, none⟩

/-- CPY at issue (R276 to R278, R282, R286, R403). -/
def issueCpy (s : State) (g sub f : Nat) (a : BitVec 8) : State :=
  let b := blockWords s a
  match cpyCause s.crew.scratchSize sub f b with
  | some k => takeTrap s k false
  | none =>
    if cpyEmpty sub b then advance s
    else if !copyRoom s then stall s
    else match rangeHook s (cpyWrites sub f b) with
      | some s' => s'
      | none =>
        let xf := if sub == 4 then some (xformStart s.dev b) else none
        let o := { newOp s (some g) s.frag.lanes (.copy (.start (.cpy sub f) b xf)) with lanes := s.frag.lanes }
        let s1 := issueOp s o
        { s1 with wave := { s1.wave with unsealed := s1.wave.unsealed ++ [o.id] } }

/-- CPY.LIN. -/
def execCpyLin (f : BitVec 4) (a : BitVec 8) (s : State) : Out :=
  longLatency (.cpyLin f a) .copy s (fun s g => issueCpy s g 0 f.toNat a)

/-- CPY.TILE. -/
def execCpyTile (f : BitVec 4) (a : BitVec 8) (s : State) : Out :=
  longLatency (.cpyTile f a) .copy s (fun s g => issueCpy s g 1 f.toNat a)

/-- CPY.GATHER. -/
def execCpyGather (f : BitVec 4) (a : BitVec 8) (s : State) : Out :=
  longLatency (.cpyGather f a) .copy s (fun s g => issueCpy s g 2 f.toNat a)

/-- CPY.SCATTER. -/
def execCpyScatter (f : BitVec 4) (a : BitVec 8) (s : State) : Out :=
  longLatency (.cpyScatter f a) .copy s (fun s g => issueCpy s g 3 f.toNat a)

/-- CPY.XFORM. -/
def execCpyXform (f : BitVec 4) (a : BitVec 8) (s : State) : Out :=
  longLatency (.cpyXform f a) .copy s (fun s g => issueCpy s g 4 f.toNat a)

/-- CPY.FILL. -/
def execCpyFill (f : BitVec 4) (a : BitVec 8) (s : State) : Out :=
  longLatency (.cpyFill f a) .copy s (fun s g => issueCpy s g 5 f.toNat a)

/-! ### Batches (R288, R289) -/

/-- The operations of a list that are not complete. -/
def openOps (ops : List Op) (ids : List Nat) : List Nat := ids.filter (fun k => ops.any (fun o => o.id == k))

/-- The sealed batches from the oldest one that is not done. -/
def openBatches (ops : List Op) (bs : List (List Nat)) : List (List Nat) :=
  bs.dropWhile (fun b => (openOps ops b).isEmpty)

/-- CBATCH.SEAL: it waits while 64 sealed batches are not done. -/
def execCbatchSeal (a : BitVec 8) (s : State) : Out :=
  checked (.cbatchSeal a) .copy s (fun s =>
    let bs := openBatches s.crew.ops s.wave.batches
    if 64 ≤ bs.length then block s .seal
    else
      let s1 := { s with wave := { s.wave with
        batches := bs ++ [s.wave.unsealed], unsealed := [], nb := (s.wave.nb + 1) % 65536 } }
      advance (writeS s1 (a.toNat - 0x80) (BitVec.ofNat 32 s.wave.nb)))

/-- How far batch X lies behind the newest: (NB - 1 - X) mod 65,536 (R289). -/
def batchBack (w : Wave) (x : Word) : Nat := (w.nb + 65535 + 65536 - x.toNat % 65536) % 65536

/-- The commands of batch X and of those sealed before it that are not complete (R289). -/
def batchOpen (ops : List Op) (w : Wave) (x : Word) : List Nat :=
  openOps ops (w.batches.take (w.batches.length - batchBack w x)).flatten

/-- The first operation that meets p whose trap waits for delivery. -/
def lateWhere (ops : List Op) (p : Op → Bool) : Option Op :=
  ops.find? (fun o => (match o.status with
    | .late _ => true
    | .inflight | .parked _ | .trapped _ _ => false) && p o)

/-- The batch a WAIT or TEST asks for: the one it read when it first issued (R289). -/
def batchHere (s : State) (a : BitVec 8) : Word :=
  match s.frag.status with
  | .blocked (.batch x) => BitVec.ofNat 32 x
  | .blocked _ | .ready | .stalled | .waiting | .yielded | .fetchWait | .yieldedJob | .joining => readSrc s a 0

/-- WAIT and TEST: the check of R289, then a late trap of a covered command (R296), then `k`. -/
def withBatch (s : State) (a : BitVec 8) (k : Word → Bool → State) : State :=
  let x := batchHere s a
  if 32768 ≤ batchBack s.wave x then takeTrap s 0x08 false
  else
    let l := batchOpen s.crew.ops s.wave x
    match if s.frag.trapMode then none else lateWhere s.crew.ops (fun o => l.contains o.id) with
    | some o => deliverLate s o
    | none => k x l.isEmpty

/-- CBATCH.WAIT. -/
def execCbatchWait (a : BitVec 8) (s : State) : Out :=
  checked (.cbatchWait a) .copy s (fun s =>
    if s.frag.resume == .released then advance s
    else withBatch s a (fun x done => if done then advance s else block s (.batch x.toNat)))

/-- CBATCH.TEST. -/
def execCbatchTest (m : BitVec 3) (a : BitVec 8) (s : State) : Out :=
  checked (.cbatchTest m a) .copy s (fun s =>
    withBatch s a (fun _ done => advance (writeM s m.toNat (if done then ~~~0#96 else 0#96))))

/-! ### Performing units -/

/-- The memory a unit touches, its source first. -/
def planTouches (x : UnitPlan) : List Touch :=
  (if x.sSp == some 0 then [⟨x.src, x.len, false⟩] else []) ++ (if x.dSp == 0 then [⟨x.dst, x.len, true⟩] else [])

/-- The bytes of a unit's source. -/
def planData (c : Crew) (io : Io) (o : Op) (x : UnitPlan) : List Byte :=
  match x.sSp with
  | some 0 => io.read x.src x.len
  | some 1 => scratchRead c o io.n x.src x.len
  | some _ => tileBytes c x.src x.len
  | none => x.data

/-- R279: destination bytes of a LIN or TILE that lie in its source, or in two of its rows. -/
def overlapOpen (p : CopyOp) (a : Nat) : Bool :=
  match p.kind with
  | .cpy sub f =>
    let b := p.block
    let inRows := fun base stride => (List.range (tileRows b)).filter (fun r =>
      decide (base + r * stride ≤ a) && decide (a < base + r * stride + tileRb b))
    if sub == 0 then optSS f == optDS f && cpySrc f b ≤ a && decide (a < cpySrc f b + blkWord b 4)
    else if sub == 1 then
      (optSS f == optDS f && !(inRows (cpySrc f b) (blkWord b 6)).isEmpty) || 1 < (inRows (cpyDst f b) (blkWord b 7)).length
    else false
  | .wbuf _ _ => false
  | .tsmov _ _ => false

/-- The part of the source range a byte of an overlap may come from: that of the unit, or for a LIN the source range, in
memory as far as the page of the unit's source goes (R279; assumption 59). -/
def overlapFrom (p : CopyOp) (x : UnitPlan) : Nat × Nat :=
  match p.kind with
  | .cpy 0 f =>
    let lo := cpySrc f p.block
    let hi := lo + blkWord p.block 4
    if optSS f then (lo, hi) else (max lo (x.src / 4096 * 4096), min hi ((x.src + x.len - 1) / 4096 * 4096 + 4096))
  | .cpy _ _ | .wbuf _ _ | .tsmov _ _ => (x.src, x.src + x.len)

/-- The bytes a unit writes; one in an overlap is some byte of the source, old or new, which one is left free (R279). -/
def unitBytes (c : Crew) (io : Io) (o : Op) (p : CopyOp) (x : UnitPlan) : List Byte :=
  (planData c io o x).mapIdx (fun i v =>
    if overlapOpen p (x.dst + i) then
      let (lo, hi) := overlapFrom p x
      let a := lo + Config.freeNat io.n (2 ^ 67 + x.dst + i) % max 1 (hi - lo)
      ((if x.sSp == some 1 then scratchRead c o io.n a 1 else io.read a 1)).getD 0 v
    else v)

/-- A word of a unit written. -/
def writeWord (st : Io × Crew) (x : UnitPlan) (w : Nat × List Byte) : Io × Crew :=
  match x.dSp with
  | 0 => (st.1.write w.1 w.2, st.2)
  | 1 => (st.1, putScratch st.2 w.1 w.2)
  | 2 => (st.1, putTile st.2 w.1 w.2)
  | _ => st

/-- PROG and MAP after units are done (R299). -/
def advanceProg : Nat → Nat → List Nat → Nat × List Nat
  | 0, prog, map => (prog, map)
  | k + 1, prog, map => if map.contains prog then advanceProg k (prog + 1) (map.filter (fun j => j != prog)) else (prog, map)

/-- The command after unit u: progress, what a weight load has read, what an XFORM has written. -/
def afterUnit (p : CopyOp) (u bytes : Nat) (data : List Byte) (credit : Bool) : CopyOp :=
  let (prog, map) := advanceProg (p.map.length + 1) p.prog (p.map ++ [u])
  { p with
    prog := prog, map := map, miss := [], cred := if credit then p.cred + bytes else p.cred
    part := p.part.filter (fun w => w.1 != u), idx := p.idx.filter (fun q => q.1 != u)
    data := match p.kind with
      | .wbuf _ _ => p.data ++ data
      | .cpy _ _ => []
      | .tsmov _ _ => []
    xf := p.xf.map (fun x => { x with pend := x.pend.drop bytes, outb := x.outb + bytes }) }

/-- R268, R283, R284: a unit's bytes credited, and with P its line full with the last of the line's data; what follows in the lanes
that then find it full still follows the other lines of the operation (DEDUCED; assumption 72). -/
def landUnit (c : Crew) (n : Nat) (p : CopyOp) (line : Option Nat) (bytes : Nat) : Crew :=
  match p.kind with
  | .cpy _ f =>
    let c1 := { c with full := setLines c.full line.toList true }
    if optCR f then creditBar c1 n (blkWord p.block 5) bytes else c1
  | .wbuf _ _ => c
  | .tsmov _ _ => c

/-- The memory a command is still to touch behind its unit u, unit by unit; of an XFORM its input, then its output. -/
def touchesFrom (c : Crew) (p : CopyOp) (u : Nat) : List Touch :=
  match p.kind, p.xf with
  | .cpy 4 f, some x =>
    let b := p.block
    (if optSS f then [] else [⟨cpySrc f b + x.inpos, blkWord b 4 - x.inpos, false⟩]) ++
    (if optDS f then [] else [⟨cpyDst f b + x.outb, xformBound b - x.outb, true⟩])
  | .cpy _ _, _ | .wbuf _ _, _ | .tsmov _ _, _ => match unitPlan c p u with
    | some x => planTouches x
    | none => []

/-- R325: the next pages of a command's remaining units, up to four, units looked at from u on but those done. -/
def nextPages (c : Crew) (p : CopyOp) (missed : List Nat) : Nat → Nat → List (Nat × Bool) → List (Nat × Bool)
  | 0, _, l => l
  | k + 1, u, l =>
    if 4 ≤ l.length then l.take 4
    else
      let ts := if p.map.contains u then [] else touchesFrom c p u
      let new := (ts.flatMap (fun t => ((touchPages t).take 8).map (fun a => (a, t.wr)))).filter
        (fun q => !missed.contains q.1)
      nextPages c p missed k (u + 1) (l ++ new).eraseDups

/-- R325: the next four pages of the command's remaining units predicted. -/
def predictCopy (d : Dev) (s : State) (c : Crew) (p : CopyOp) (missed : List Nat) : Dev :=
  (nextPages c p missed 131072 p.prog []).foldl (fun d q =>
    predictPage d (dieOf c.core) c.ctx s.nfree (vaBits q.1 / 4096) s.clk (touchWant q.2)) d

/-- R295, R296, R364: a command that cannot go on. -/
def copyStop (s : State) (c : Crew) (o : Op) (p : CopyOp) (io : Io) : State :=
  let o1 := { o with body := .copy { p with miss := io.missed } }
  if isReload o then
    match if io.poison then some (0x04, 0) else io.trap with
    | some (k, _) => { s with dev := updCrew io.dev c.uid (fun _ => { c with contained := some k }) }
    | none =>
      let d := io.miss.foldl (fun d q =>
        addMissing d (dieOf c.core) c.ctx (vaBits q.1 / 4096) s.clk q.2.2 (touchWant q.2.1) [.op c.uid o.id]) io.dev
      let o2 := if io.miss.isEmpty then o1 else { o1 with status := .parked 0x01 }
      { s with dev := updCrew d c.uid (fun _ => setOp c o2) }
  else
    let s1 := ioStop s c o1 io
    if io.miss.isEmpty || io.poison then s1
    else { s1 with dev := predictCopy s1.dev s c p io.missed }

/-- The words of a unit that are still to be written, each with its bytes (R121). -/
def wordsLeft (p : CopyOp) (u : Nat) (x : UnitPlan) (data : List Byte) : List (Nat × List Byte) :=
  if x.dSp == 3 then [] else (wordsOf x.dst data).filter (fun w => !p.part.contains (u, w.1 / 4))

/-- Words of unit u written, at least one of those left; with the last of them the unit is complete, or the command stopped
before it (R121, R279, R283, R284, R295, R296). -/
def runUnit (s : State) (c : Crew) (o : Op) (p0 : CopyOp) (u : Nat) (x : UnitPlan) : State :=
  let p := readIndex c p0 u
  let ts := planTouches x
  let io0 := ioOpen s.dev (opAsker c o) c.ctx s.nfree o.memMark (unitSkips o ts) ts
  let io := match x.cause with
    | some q => { io0 with trap := some q, poison := false }
    | none => io0
  if !io.good then copyStop s c o p io
  else
    let data := unitBytes c io o p x
    let left := wordsLeft p u x data
    let now := someOf s.nfree (2 ^ 68) left
    let (io1, c1) := now.foldl (fun st w => writeWord st x w) (io, c)
    let line := if hasP p then some (x.dst / 128) else none
    if now.length < left.length then
      putCrew s io1.dev (setOp c1 { o with body := .copy { p with part := p.part ++ now.map (fun w => (u, w.1 / 4)), line := line } })
    else
      let credit := match p.kind with
        | .cpy _ f => optCR f
        | .wbuf _ _ => false
        | .tsmov _ _ => false
      let full := if lineEnds c p u x then line else none
      let p1 := afterUnit { p with line := if full.isSome then none else line, filled := full.toList ++ p.filled } u x.len data credit
      putCrew s io1.dev (setOp (landUnit c1 s.nfree p full x.len) { passUnit o ts with body := .copy p1 })

/-- Unit u may be performed now: not done, within reach of PROG, in order where the command is, its line free, and no
earlier access of the crew to the bytes of the tile store that a TSMOV moves still to be done (R279, R378). -/
def unitReady (c : Crew) (o : Op) (p : CopyOp) (u : Nat) : Bool :=
  tileTurn c o && p.prog ≤ u && !p.map.contains u && (if inOrder p then u == p.prog else decide (u < p.prog + 64)) &&
  (match unitPlan c p u with
    | some x => !hasP p || lineFree c o (x.dst / 128)
    | none => false)

/-- A copy's unit u, when it may be performed. -/
def copyStep (s : State) (c : Crew) (o : Op) (p : CopyOp) (u : Nat) : State :=
  match if unitReady c o p u then unitPlan c p u else none with
  | some x => runUnit s c o p u x
  | none => s

/-- COPY_UNIT: unit u of a command (R279). -/
def execCopyUnit (c o u : Nat) (s : State) : Out :=
  event s (fun s => stepping s c o (fun x q => match copyOf q with
    | some p => copyStep s x q p u
    | none => s))

/-- FULL_EMPTY_RETEST: an LDC, STP or produce-flagged copy looks at its lines again, and takes them (R264, R286). -/
def execFullEmptyRetest (c o : Nat) (s : State) : Out :=
  event s (fun s => stepping s c o (fun x q => match memOf q with
    | some m => takeLines s c x q m
    | none => match copyOf q with
      | some p => if hasP p then copyStep s x q p p.prog else s
      | none => s))

/-- Every unit of a CPY is done (R283). -/
def copyFinished (p : CopyOp) : Bool :=
  match p.kind with
  | .cpy sub f =>
    let b := p.block
    match sub with
    | 1 => (tileUnits f b).length ≤ p.prog
    | 2 => blkWord b 7 ≤ p.prog
    | 3 => blkWord b 7 ≤ p.prog
    | 4 => match p.xf with
      | some x => x.code.isSome && x.pend.isEmpty
      | none => false
    | _ => (cutRange (cpyDst f b, blkWord b 4)).length ≤ p.prog
  | .wbuf _ _ => false
  | .tsmov _ _ => false

/-- R281, R294: an XFORM's status word, where it writes one: its words. -/
def statusWords (p : CopyOp) : List (Nat × List Byte) :=
  match p.kind, p.xf with
  | .cpy 4 _, some x =>
    if xformStat p.block == 0xFFFFF then []
    else wordsOf (8 * xformStat p.block) (bytesLE 4 x.outb ++ bytesLE 1 (x.code.getD 0) ++ zeroBytes 3)
  | .cpy _ _, _ => []
  | .wbuf _ _, _ => []
  | .tsmov _ _, _ => []

/-- COPY_COMPLETE: an XFORM's status word is written behind its output, word by word; then the command is complete (R30, R121,
R281, R283). -/
def execCopyComplete (c o : Nat) (s : State) : Out :=
  event s (fun s => stepping s c o (fun x q => match copyOf q with
    | some p =>
      if !copyFinished p then s
      else
        let left := (statusWords p).filter (fun w => !p.part.contains (p.prog, w.1 / 4))
        let now := someOf s.nfree (2 ^ 68) left
        let x1 := now.foldl (fun c w => putScratch c w.1 w.2) x
        if now.length < left.length then
          putCrew s s.dev (setOp x1 { q with body := .copy { p with part := p.part ++ now.map (fun w => (p.prog, w.1 / 4)) } })
        else putCrew s s.dev (completeOp s.dev x1 q s.nfree [] [])
    | none => s))

end Sys2Proof.Machine
end

