-- ==== Sys2Proof/Machine/Float.lean ====
section
/-! DEFINITION. The floating instructions of the lane and scalar units: FP32, packed halves, FUN, conversions,
quantisation, dot products and scaling (R215 to R223, R230 to R232), with the compact floating forms (R55). -/

namespace Sys2Proof.Machine

/-- The two-operand and fused operations of R215 and R216. -/
inductive FloatOp where
  | add | sub | mul | fma | min | max
  deriving DecidableEq, Repr

/-- One FP32, FP16 or BF16 operation on patterns A, B and D: pattern, flags and generator (R215 to R217). -/
def floatOp (k : FloatOp) (f : Format) (env : RoundEnv) (daz : Bool) (g : Word) (a b d : Nat) : Nat × Flags × Word :=
  let x := readFloat f daz a
  let y := readFloat f daz b
  let rd := x.2 ||| y.2
  let finish := fun (v : Ext × Flags) (more : Flags) =>
    let r := roundLane f env g v.1
    (r.1, v.2 ||| more ||| r.2.1, r.2.2)
  match k with
  | .add => finish (extSum (env.rm == 2) [x.1, y.1]) rd
  | .sub => finish (extSum (env.rm == 2) [x.1, extFlip y.1]) rd
  | .mul => finish (extMul x.1 y.1) rd
  | .fma =>
    let z := readFloat f daz d
    let p := extMul x.1 y.1
    finish (extSum (env.rm == 2) [z.1, p.1]) (rd ||| z.2 ||| p.2)
  | .min => let r := minMaxBits f daz false a b; (r.1, r.2, g)
  | .max => let r := minMaxBits f daz true a b; (r.1, r.2, g)

/-- An FP32 instruction (R215, R216). -/
def float32 (i : Instr) (c : RoleClass) (d a b : BitVec 8) (codes : List (BitVec 8)) (s : State) (k : FloatOp) : Out :=
  checked i c s (fun s =>
    f3Effect s codes d (fun s sc l g =>
      let r := floatOp k .f32 (laneEnv s.frag.fmt sc) (fmtDAZ s.frag.fmt) g
        (readSrc s a l).toNat (readSrc s b l).toNat (readDst s d l).toNat
      (BitVec.ofNat 32 r.1, r.2)))

/-- Both halves of a packed operation, the low half first (R217). -/
def halvesOp (k : FloatOp) (f : Format) (env : RoundEnv) (daz : Bool) (g a b d : Word) : LaneResult :=
  let lo := floatOp k f env daz g (a.toNat % 65536) (b.toNat % 65536) (d.toNat % 65536)
  let hi := floatOp k f env daz lo.2.2 (a.toNat / 65536) (b.toNat / 65536) (d.toNat / 65536)
  (BitVec.ofNat 32 (lo.1 + 65536 * hi.1), lo.2.1 ||| hi.2.1, hi.2.2)

/-- A packed-half instruction (R217). -/
def halves (i : Instr) (c : RoleClass) (bf : Bool) (d a b : BitVec 8) (codes : List (BitVec 8)) (s : State)
    (k : FloatOp) : Out :=
  checked i c s (fun s =>
    f3Effect s codes d (fun s sc l g =>
      halvesOp k (if bf then .bf16 else .f16) (laneEnv s.frag.fmt sc) (fmtDAZ s.frag.fmt) g
        (readSrcHalf bf s a l) (readSrcHalf bf s b l) (readDst s d l)))

/-- A rounding of a lane as a lane result. -/
def roundResult (f : Format) (env : RoundEnv) (g : Word) (v : Ext × Flags) : LaneResult :=
  let r := roundLane f env g v.1
  (BitVec.ofNat 32 r.1, v.2 ||| r.2.1, r.2.2)

/-- The FP32 value nearest among integers under the mode (CVT.RND, R220); specials pass as R88 gives, and the lane
steps its generator once under STO whatever the value (R90). -/
def roundIntegral (env : RoundEnv) (g : Word) (v : Ext) : LaneResult :=
  let g' := if env.rm == 5 then genStep g else g
  match v with
  | .nan => (0x7FC00000#32, 0, g')
  | .inf s => (BitVec.ofNat 32 (signed .f32 s 0x7F800000), 0, g')
  | .fin s m e =>
    if 0 ≤ e then (BitVec.ofNat 32 (roundTo .f32 exactEnv 0 (.fin s m e)).1, 0, g')
    else
      let sh := (-e).toNat
      let k0 := m / 2 ^ sh
      let rem := m % 2 ^ sh
      let k := if roundUp env.rm (genDraw g') s k0 rem sh then k0 + 1 else k0
      (BitVec.ofNat 32 (roundTo .f32 exactEnv 0 (.fin s k 0)).1, flagIf (rem != 0) flagINX, g')

/-- A half read and widened exactly to FP32 (CVT codes 4 to 7, R220); a subnormal result, of a subnormal BF16, is exact and
FTZ does not flush it (DESIGN CHOICE; assumption 74). -/
def widenHalf (f : Format) (daz : Bool) (g : Word) (h : Nat) : LaneResult :=
  let v := readFloat f daz h
  (BitVec.ofNat 32 (roundTo .f32 exactEnv 0 v.1).1, v.2, g)

/-- CVT by its raw code (R220). -/
def cvtValue (c : Nat) (env : RoundEnv) (daz : Bool) (g x : Word) : LaneResult :=
  match c with
  | 0 => roundResult .f32 env g (extOfInt x.toInt, 0)
  | 1 => roundResult .f32 env g (extOfInt x.toNat, 0)
  | 2 => roundResult .i32 env g (readFloat .f32 daz x.toNat)
  | 3 => roundResult .n32 env g (readFloat .f32 daz x.toNat)
  | 4 => widenHalf .f16 daz g (x.toNat % 65536)
  | 5 => widenHalf .f16 daz g (x.toNat / 65536)
  | 6 => widenHalf .bf16 daz g (x.toNat % 65536)
  | 7 => widenHalf .bf16 daz g (x.toNat / 65536)
  | 8 => roundResult .f16 env g (readFloat .f32 daz x.toNat)
  | 9 => roundResult .bf16 env g (readFloat .f32 daz x.toNat)
  | _ =>
    let v := readFloat .f32 daz x.toNat
    let r := roundIntegral env g v.1
    (r.1, v.2 ||| r.2.1, r.2.2)

/-- The element format FMT.QF names (R85). -/
def qfFormat (f : Word) : Format := (formatOfCode (fmtQF f)).getD .f16

/-- CVTP: two FP32 values packed into halves of format QF, the low half first (R221). -/
def packTwo (fmt : Word) (sc : Bool) (g a b : Word) : LaneResult :=
  let env := laneEnv fmt sc
  let x := readFloat .f32 (fmtDAZ fmt) a.toNat
  let y := readFloat .f32 (fmtDAZ fmt) b.toNat
  let lo := roundLane (qfFormat fmt) env g x.1
  let hi := roundLane (qfFormat fmt) env lo.2.2 y.1
  (BitVec.ofNat 32 (lo.1 + 65536 * hi.1), x.2 ||| y.2 ||| lo.2.1 ||| hi.2.1, hi.2.2)

/-- The elements of a width that a register holds (R84). -/
def regSlots (w : Nat) : Nat := 32 / w

/-- Bits [w·k + w - 1 : w·k] of a register replaced (R84, R222). -/
def putSlot (w k q : Nat) (d : Word) : Word :=
  let m := BitVec.ofNat 32 (2 ^ w - 1) <<< (w * k)
  (d &&& ~~~m) ||| (BitVec.ofNat 32 q <<< (w * k))

/-- Element k of width w of a register (R84). -/
def getSlot (w k : Nat) (d : Word) : Nat := (d.toNat / 2 ^ (w * k)) % 2 ^ w

/-- The rounding of a block quantisation: quant of R99, SAT taken as 1. -/
def quantLane (f : Format) (env : RoundEnv) (g : Word) (e : Nat) (x : Ext) : Nat × Flags × Word :=
  let env' := { env with sat := true }
  if e == 0xFF then roundLane f env' g .nan else roundLane f env' g (extScale ((127 : Int) - e) x)

/-- R222: B names a slot that the format has not, and D is left unchanged. -/
def qntKeeps (s : State) (b : Word) : Bool := regSlots (fmtWidth (qfFormat s.frag.fmt)) ≤ (b.toNat / 256) % 8

/-- QNT on one value: A, B and old D (R222). -/
def quantSlot (s : State) (sc : Bool) (g a b d : Word) : LaneResult :=
  let fmt := s.frag.fmt
  let qf := qfFormat fmt
  let w := fmtWidth qf
  let k := (b.toNat / 256) % 8
  let x := readFloat .f32 (fmtDAZ fmt) a.toNat
  let v := compandCtx s.dev s.crew.ctx 0x100 fmt x.1
  if qntKeeps s b then (d, x.2 ||| flagINV, g)
  else
    let env := laneEnv fmt sc
    let r := if fmtQF fmt ≤ 1 then roundLane qf env g v else quantLane qf env g (b.toNat % 256) v
    let q := putSlot w k r.1 d
    (if w == 6 then q &&& 0x3FFFFFFF#32 else q, x.2 ||| r.2.1, r.2.2)

/-- DQN on one value: A and B (R223). -/
def dequantSlot (s : State) (sc : Bool) (g a b : Word) : LaneResult :=
  let fmt := s.frag.fmt
  let qf := qfFormat fmt
  let w := fmtWidth qf
  let k := (b.toNat / 256) % 8
  let e := b.toNat % 256
  if regSlots w ≤ k then (0x7FC00000#32, flagINV, g)
  else
    let q := getSlot w k a
    let env := laneEnv fmt sc
    if fmtQF fmt ≤ 1 then
      let x := readFloat qf (fmtDAZ fmt) q
      roundResult .f32 env g (compandCtx s.dev s.crew.ctx 0x200 fmt x.1, x.2)
    else if e == 0xFF || extIsNaN (decodeFmt qf q) then (0x7FC00000#32, 0, g)
    else roundResult .f32 env g
      (extScale ((e : Int) - 127) (compandCtx s.dev s.crew.ctx 0x200 fmt (decodeFmt qf q)), 0)

/-- Element i of width w of a register, signed or unsigned (R230). -/
def intSlot (w : Nat) (sgn : Bool) (x : Word) (i : Nat) : Int :=
  let q := getSlot w i x
  if sgn && 2 ^ (w - 1) ≤ q then (q : Int) - 2 ^ w else q

/-- An integer dot product onto D (R230). -/
def dotInt (w : Nat) (sgn : Bool) (a b d : Word) : Word :=
  d + BitVec.ofInt 32 (((List.range (32 / w)).map (fun i => intSlot w sgn a i * intSlot w sgn b i)).sum)

/-- A code DOT4.F8 accepts (R231). -/
def f8Code (c : Nat) : Bool := c == 2 || c == 3

/-- D + Σ a·b over n narrow elements, companded at fetch, rounded once (R101, R103, R231). -/
def dotNarrow (s : State) (sc : Bool) (g : Word) (n : Nat) (a b d : Word) : LaneResult :=
  let fmt := s.frag.fmt
  let env := laneEnv fmt sc
  let w := 32 / n
  let el := fun (code : Nat) (x : Word) (i : Nat) =>
    compandCtx s.dev s.crew.ctx 0x200 fmt (decodeFmt ((formatOfCode code).getD .e4m3) (getSlot w i x))
  let z := readFloat .f32 (fmtDAZ fmt) d.toNat
  let v := dotExact (env.rm == 2) [z.1] ((List.range n).map (fun i => (el (fmtAF fmt) a i, el (fmtBF fmt) b i)))
  roundResult .f32 env g (v.1, z.2 ||| v.2)

/-- D + Σ a·b over two half elements, rounded once (R103, R231). -/
def dotHalves (f : Format) (s : State) (sc : Bool) (g a b d : Word) : LaneResult :=
  let fmt := s.frag.fmt
  let env := laneEnv fmt sc
  let rd := fun (x : Word) (i : Nat) => readFloat f (fmtDAZ fmt) (getSlot 16 i x)
  let z := readFloat .f32 (fmtDAZ fmt) d.toNat
  let v := dotExact (env.rm == 2) [z.1] ((List.range 2).map (fun i => ((rd a i).1, (rd b i).1)))
  roundResult .f32 env g
    (v.1, z.2 ||| v.2 ||| (rd a 0).2 ||| (rd a 1).2 ||| (rd b 0).2 ||| (rd b 1).2)

/-- SCLX on one value: A and old D (R232). -/
def scaleValue (s : State) (sc : Bool) (g a d : Word) : LaneResult :=
  let fmt := s.frag.fmt
  let e := a.toNat % 256
  if e == 0xFF then (0x7FC00000#32, flagINV, g)
  else
    let z := readFloat .f32 (fmtDAZ fmt) d.toNat
    roundResult .f32 (laneEnv fmt sc) g (extScale ((e : Int) - 127) z.1, z.2)

/-- ADD.F32 (R215). -/
def execAddF32 (d a b : BitVec 8) (s : State) : Out :=
  float32 (.addF32 d a b) (classByDst d) d a b [a, b] s .add

/-- SUB.F32 (R215). -/
def execSubF32 (d a b : BitVec 8) (s : State) : Out :=
  float32 (.subF32 d a b) (classByDst d) d a b [a, b] s .sub

/-- MUL.F32 (R215). -/
def execMulF32 (d a b : BitVec 8) (s : State) : Out :=
  float32 (.mulF32 d a b) (classByDst d) d a b [a, b] s .mul

/-- FMA.F32: D + A·B with one rounding (R215). -/
def execFmaF32 (d a b : BitVec 8) (s : State) : Out :=
  float32 (.fmaF32 d a b) (classByDst d) d a b [a, b] s .fma

/-- MIN.F32 (R216). -/
def execMinF32 (d a b : BitVec 8) (s : State) : Out :=
  float32 (.minF32 d a b) (classByDst d) d a b [a, b] s .min

/-- MAX.F32 (R216). -/
def execMaxF32 (d a b : BitVec 8) (s : State) : Out :=
  float32 (.maxF32 d a b) (classByDst d) d a b [a, b] s .max

/-- Compact ADD.F32 (R55, R215). -/
def execAddF32Compact (d : BitVec 5) (p : BitVec 6) (s : State) : Out :=
  float32 (.addF32Compact d p) .laneArith (d.setWidth 8) (d.setWidth 8) (compactSrc p) [] s .add

/-- Compact SUB.F32 (R55, R215). -/
def execSubF32Compact (d : BitVec 5) (p : BitVec 6) (s : State) : Out :=
  float32 (.subF32Compact d p) .laneArith (d.setWidth 8) (d.setWidth 8) (compactSrc p) [] s .sub

/-- Compact MUL.F32 (R55, R215). -/
def execMulF32Compact (d : BitVec 5) (p : BitVec 6) (s : State) : Out :=
  float32 (.mulF32Compact d p) .laneArith (d.setWidth 8) (d.setWidth 8) (compactSrc p) [] s .mul

/-- Compact MAX.F32 (R55, R216). -/
def execMaxF32Compact (d : BitVec 5) (p : BitVec 6) (s : State) : Out :=
  float32 (.maxF32Compact d p) .laneArith (d.setWidth 8) (d.setWidth 8) (compactSrc p) [] s .max

/-- Compact MIN.F32 (R55, R216). -/
def execMinF32Compact (d : BitVec 5) (p : BitVec 6) (s : State) : Out :=
  float32 (.minF32Compact d p) .laneArith (d.setWidth 8) (d.setWidth 8) (compactSrc p) [] s .min

/-- ADD.F16X2 (R217). -/
def execAddF16x2 (d a b : BitVec 8) (s : State) : Out :=
  halves (.addF16x2 d a b) (classByDst d) false d a b [a, b] s .add

/-- MUL.F16X2 (R217). -/
def execMulF16x2 (d a b : BitVec 8) (s : State) : Out :=
  halves (.mulF16x2 d a b) (classByDst d) false d a b [a, b] s .mul

/-- FMA.F16X2 (R217). -/
def execFmaF16x2 (d a b : BitVec 8) (s : State) : Out :=
  halves (.fmaF16x2 d a b) (classByDst d) false d a b [a, b] s .fma

/-- ADD.BF16X2 (R217). -/
def execAddBf16x2 (d a b : BitVec 8) (s : State) : Out :=
  halves (.addBf16x2 d a b) (classByDst d) true d a b [a, b] s .add

/-- FMA.BF16X2 (R217). -/
def execFmaBf16x2 (d a b : BitVec 8) (s : State) : Out :=
  halves (.fmaBf16x2 d a b) (classByDst d) true d a b [a, b] s .fma

/-- MAX.F16X2 (R217). -/
def execMaxF16x2 (d a b : BitVec 8) (s : State) : Out :=
  halves (.maxF16x2 d a b) (classByDst d) false d a b [a, b] s .max

/-- Compact ADD.F16X2 (R55, R217). -/
def execAddF16x2Compact (d : BitVec 5) (p : BitVec 6) (s : State) : Out :=
  halves (.addF16x2Compact d p) .laneArith false (d.setWidth 8) (d.setWidth 8) (compactSrc p) [] s .add

/-- Compact MUL.F16X2 (R55, R217). -/
def execMulF16x2Compact (d : BitVec 5) (p : BitVec 6) (s : State) : Out :=
  halves (.mulF16x2Compact d p) .laneArith false (d.setWidth 8) (d.setWidth 8) (compactSrc p) [] s .mul

/-- FUN.F32 (R218, R219). -/
def execFunF32 (d a f : BitVec 8) (s : State) : Out :=
  checked (.funF32 d a f) (classByDst d) s (fun s =>
    f3Effect s [a] d (fun s sc l g =>
      funF32 f.toNat (laneEnv s.frag.fmt sc) (fmtDAZ s.frag.fmt) g (readSrc s a l)))

/-- CVT (R220). -/
def execCvt (d a c : BitVec 8) (s : State) : Out :=
  checked (.cvt d a c) (classByDst d) s (fun s =>
    f3Effect s [a] d (fun s sc l g => cvtValue c.toNat (laneEnv s.frag.fmt sc) (fmtDAZ s.frag.fmt) g (readSrc s a l)))

/-- CVTP (R221): QF 0 or 1 only (R87). -/
def execCvtp (d a b : BitVec 8) (s : State) : Out :=
  checked (.cvtp d a b) (classByDst d) s (fun s =>
    if 1 < fmtQF s.frag.fmt then takeTrap s 0x08 false
    else f3Effect s [a, b] d (fun s sc l g => packTwo s.frag.fmt sc g (readSrc s a l) (readSrc s b l)))

/-- QNT (R222): QF 0 to 8 (R83, R87). -/
def execQnt (d a b : BitVec 8) (s : State) : Out :=
  checked (.qnt d a b) (classByDst d) s (fun s =>
    if 8 < fmtQF s.frag.fmt then takeTrap s 0x08 false
    else
      let t := latchClk s [a, b]
      let f := fun sc l g => quantSlot t sc g (readSrc t a l) (readSrc t b l) (readDst t d l)
      if scalarDst d then
        let r := f true 0 0#32
        if qntKeeps t (readSrc t b 0) then finishFlags t r.2.1
        else if dstAccepts d r.1 then scalarEffect t d r
        else takeTrap s 0x08 false
      else
        laneEffectWhere t d.toNat (fun l => !qntKeeps t (readSrc t b l)) (f false))

/-- DQN (R223): QF 0 to 8 (R83, R87). -/
def execDqn (d a b : BitVec 8) (s : State) : Out :=
  checked (.dqn d a b) (classByDst d) s (fun s =>
    if 8 < fmtQF s.frag.fmt then takeTrap s 0x08 false
    else f3Effect s [a, b] d (fun s sc l g => dequantSlot s sc g (readSrc s a l) (readSrc s b l)))

/-- DOT4.I8 (R230). -/
def execDot4I8 (d a b : BitVec 8) (s : State) : Out :=
  checked (.dot4I8 d a b) (classByDst d) s (fun s =>
    f3Effect s [a, b] d (fun s _ l g => plain g (dotInt 8 true (readSrc s a l) (readSrc s b l) (readDst s d l))))

/-- DOT4.N8 (R230). -/
def execDot4N8 (d a b : BitVec 8) (s : State) : Out :=
  checked (.dot4N8 d a b) (classByDst d) s (fun s =>
    f3Effect s [a, b] d (fun s _ l g => plain g (dotInt 8 false (readSrc s a l) (readSrc s b l) (readDst s d l))))

/-- DOT8.I4 (R230). -/
def execDot8I4 (d a b : BitVec 8) (s : State) : Out :=
  checked (.dot8I4 d a b) (classByDst d) s (fun s =>
    f3Effect s [a, b] d (fun s _ l g => plain g (dotInt 4 true (readSrc s a l) (readSrc s b l) (readDst s d l))))

/-- DOT4.F8: AF and BF each 2 or 3 (R231). -/
def execDot4F8 (d a b : BitVec 8) (s : State) : Out :=
  checked (.dot4F8 d a b) (classByDst d) s (fun s =>
    if !(f8Code (fmtAF s.frag.fmt) && f8Code (fmtBF s.frag.fmt)) then takeTrap s 0x08 false
    else f3Effect s [a, b] d (fun s sc l g => dotNarrow s sc g 4 (readSrc s a l) (readSrc s b l) (readDst s d l)))

/-- DOT8.F4: AF and BF both 6 (R231). -/
def execDot8F4 (d a b : BitVec 8) (s : State) : Out :=
  checked (.dot8F4 d a b) (classByDst d) s (fun s =>
    if !(fmtAF s.frag.fmt == 6 && fmtBF s.frag.fmt == 6) then takeTrap s 0x08 false
    else f3Effect s [a, b] d (fun s sc l g => dotNarrow s sc g 8 (readSrc s a l) (readSrc s b l) (readDst s d l)))

/-- DOT2.F16 (R231). -/
def execDot2F16 (d a b : BitVec 8) (s : State) : Out :=
  checked (.dot2F16 d a b) (classByDst d) s (fun s =>
    f3Effect s [a, b] d (fun s sc l g => dotHalves .f16 s sc g (readSrc s a l) (readSrc s b l) (readDst s d l)))

/-- DOT2.BF16 (R231). -/
def execDot2Bf16 (d a b : BitVec 8) (s : State) : Out :=
  checked (.dot2Bf16 d a b) (classByDst d) s (fun s =>
    f3Effect s [a, b] d (fun s sc l g => dotHalves .bf16 s sc g (readSrc s a l) (readSrc s b l) (readDst s d l)))

/-- SCLX (R232). -/
def execSclx (d a : BitVec 8) (s : State) : Out :=
  checked (.sclx d a) (classByDst d) s (fun s =>
    f3Effect s [a] d (fun s sc l g => scaleValue s sc g (readSrc s a l) (readDst s d l)))

end Sys2Proof.Machine
end

