-- ==== Sys2Proof/Machine/Cross.lean ====
section
/-! DEFINITION. Selection, lane exchange, wave reductions and scans, and the lane sort (R105, R224 to R229, R244). -/

namespace Sys2Proof.Machine

/-- SEL: per lane by m0, or once by m0 and EXEC (R224). -/
def execSel (d a b : BitVec 8) (s : State) : Out :=
  checked (.sel d a b) (classByDst d) s (fun s =>
    f3Effect s [a, b] d (fun s sc l g =>
      let c := if sc then (readM s 0 &&& s.frag.exec) != 0#96 else (readM s 0).getLsbD l
      plain g (if c then readSrc s a l else readSrc s b l)))

/-- The lane a lane number of 32 bits names, if it is active (R225, R226). -/
def activeLane (s : State) (x : Word) : Option Nat :=
  if x.toNat < laneCount && s.frag.exec.getLsbD x.toNat then some x.toNat else none

/-- SHFL: each active lane takes A from the lane its B names, or keeps its own (R225). -/
def execShfl (d a b : BitVec 8) (s : State) : Out :=
  checked (.shfl d a b) .laneArith s (fun s =>
    f3Effect s [a, b] d (fun s _ l g =>
      plain g (match activeLane s (readSrc s b l) with
        | some k => readSrc s a k
        | none => readSrc s a l)))

/-- RDLANE: lane B's vA, or 0, to an s-register or to every active lane (R226). -/
def execRdlane (d a b : BitVec 8) (s : State) : Out :=
  checked (.rdlane d a b) (classByDst d) s (fun _ =>
    f3Effect s [b] d (fun s _ _ g =>
      plain g (match activeLane s (readSrc s b 0) with
        | some k => readV s a.toNat k
        | none => 0#32)))

/-- WRLANE: the uniform A to vD of lane B, if that lane is active (R227). -/
def execWrlane (d a b : BitVec 8) (s : State) : Out :=
  checked (.wrlane d a b) .laneArith s (fun s =>
    let s1 := latchClk s [a, b]
    match activeLane s1 (readSrc s1 b 0) with
    | some k => advance (writeLanes s1 d.toNat [k] (fun _ => readSrc s1 a 0))
    | none => advance s1)

/-- The identities of WRED's operations (R228). -/
def wredIdentity (f : Nat) : Word :=
  match f with
  | 2 => 0x7FFFFFFF#32
  | 3 => 0x80000000#32
  | 4 => 0xFFFFFFFF#32
  | 6 => 0x7F800000#32
  | 7 => 0xFF800000#32
  | 8 => 0xFFFFFFFF#32
  | _ => 0#32

/-- The operation is floating (R68). -/
def wredFloat (f : Nat) : Bool := f == 1 || f == 6 || f == 7

/-- An FP32 pattern of a value that needs no rounding. -/
def exactF32 (v : Ext) : Word := BitVec.ofNat 32 (roundTo .f32 exactEnv 0 v).1

/-- The first lane's value read as an operand (R228): a floating value passes R88 and R93. -/
def wredFirst (f : Nat) (daz : Bool) (x : Word) : Word × Flags :=
  if wredFloat f then
    let v := readFloat .f32 daz x.toNat
    (exactF32 v.1, v.2)
  else (x, 0)

/-- One combining step: the accumulator, which is no operand and is not read under DAZ, and a lane's value (R105,
R228). -/
def wredStep (f : Nat) (env : RoundEnv) (daz : Bool) (acc x : Word) : Word × Flags :=
  match f with
  | 0 => (acc + x, 0)
  | 1 =>
    let v := readFloat .f32 daz x.toNat
    let t := extSum (env.rm == 2) [decodeFmt .f32 acc.toNat, v.1]
    let r := roundTo .f32 env 0 t.1
    (BitVec.ofNat 32 r.1, v.2 ||| t.2 ||| r.2)
  | 2 => (if acc.slt x then acc else x, 0)
  | 3 => (if acc.slt x then x else acc, 0)
  | 4 => (if acc.ult x then acc else x, 0)
  | 5 => (if acc.ult x then x else acc, 0)
  | 6 =>
    let v := readFloat .f32 daz x.toNat
    (exactF32 (extPick false (decodeFmt .f32 acc.toNat) v.1), v.2)
  | 7 =>
    let v := readFloat .f32 daz x.toNat
    (exactF32 (extPick true (decodeFmt .f32 acc.toNat) v.1), v.2)
  | 8 => (acc &&& x, 0)
  | 9 => (acc ||| x, 0)
  | _ => (acc ^^^ x, 0)

/-- The running accumulator after each lane's value, with the flags so far (R228, R229). -/
def wredRun (f : Nat) (env : RoundEnv) (daz : Bool) : Option Word → Flags → List Word → List Word × Flags
  | _, fl, [] => ([], fl)
  | acc, fl, x :: xs =>
    let r := match acc with
      | none => wredFirst f daz x
      | some a => wredStep f env daz a x
    let rest := wredRun f env daz (some r.1) (fl ||| r.2) xs
    (r.1 :: rest.1, rest.2)

/-- WRED: vA combined over the active lanes in ascending order (R228); STO reads as RNE (R91). -/
def execWred (d a f : BitVec 8) (s : State) : Out :=
  checked (.wred d a f) (classByDst d) s (fun s =>
    let xs := (laneList s.frag.exec).map (fun l => readV s a.toNat l)
    let r := wredRun f.toNat (laneEnv s.frag.fmt true) (fmtDAZ s.frag.fmt) none 0 xs
    let acc := r.1.getLast?.getD (wredIdentity f.toNat)
    if scalarDst d then
      if dstAccepts d acc then finishFlags (writeScalarDst s d acc) r.2 else takeTrap s 0x08 false
    else finishFlags (writeLanes s d.toNat (laneList s.frag.exec) (fun _ => acc)) r.2)

/-- The value a list of lanes and values gives a lane. -/
def pairAt (ps : List (Nat × Word)) (l : Nat) : Word :=
  match ps with
  | [] => 0#32
  | (j, x) :: rest => if j = l then x else pairAt rest l

/-- WSCAN: the inclusive scan of A over the active lanes (R229). -/
def execWscan (d a f : BitVec 8) (s : State) : Out :=
  checked (.wscan d a f) .laneArith s (fun s =>
    let s1 := latchClk s [a]
    let ls := laneList s1.frag.exec
    let r := wredRun f.toNat (laneEnv s1.frag.fmt true) (fmtDAZ s1.frag.fmt) none 0
      (ls.map (fun l => readSrc s1 a l))
    finishFlags (writeLanes s1 d.toNat ls (pairAt (ls.zip r.1))) r.2)

/-- A pair inserted after every pair whose key is at most its own: the step of a stable sort. -/
def insertByKey (p : Nat × Nat) : List (Nat × Nat) → List (Nat × Nat)
  | [] => [p]
  | q :: rest => if p.1 < q.1 then p :: q :: rest else q :: insertByKey p rest

/-- Lanes sorted by key, equal keys in the order given (R244). -/
def sortByKey (ps : List (Nat × Nat)) : List (Nat × Nat) := ps.foldl (fun acc p => insertByKey p acc) []

/-- The positions in order whose key differs from the one before, the first included (R244). -/
def runHeads : Option Nat → List (Nat × Nat) → List Nat
  | _, [] => []
  | prev, (k, p) :: rest => if prev == some k then runHeads (some k) rest else p :: runHeads (some k) rest

/-- The set of the lanes listed. -/
def lanesOf (ls : List Nat) : Lanes := lanesWhere (fun l => ls.contains l)

/-- CTL.REORD: the active lanes sorted by the 16-bit key of vK, the window of n + 1 registers from vW moved with
them, and m0 marking the heads of the runs (R244). -/
def execCtlReord (n : BitVec 4) (a b : BitVec 8) (s : State) : Out :=
  checked (.ctlReord n a b) .laneArith s (fun s =>
    let ls := laneList s.frag.exec
    let sorted := sortByKey (ls.map (fun l => ((readV s a.toNat l).toNat % 65536, l)))
    let moved := (List.range (n.toNat + 1)).foldl (fun t j =>
      let x := b.toNat + j
      writeLanes t x ls (pairAt (ls.zip (sorted.map (fun p => readV s x p.2))))) s
    let heads := runHeads none ((sorted.map Prod.fst).zip ls)
    advance (writeM moved 0 (lanesOf heads)))

end Sys2Proof.Machine
end

