-- ==== Sys2Proof/Machine/Int.lean ====
section
/-! DEFINITION. The integer, logic, bit-field, 64-bit and immediate instructions, and the compact integer forms (R55,
R66, R210 to R214, R238). -/

namespace Sys2Proof.Machine

/-- The count of a shift or rotate: B[4:0] (R210). -/
def shiftBy (y : Word) : Nat := y.toNat % 32

/-- Bits 63:32 of the signed product (R210). -/
def mulHighSigned (x y : Word) : Word := ((x.signExtend 64 * y.signExtend 64) >>> 32).setWidth 32

/-- Bits 63:32 of the unsigned product (R210). -/
def mulHighUnsigned (x y : Word) : Word := ((x.setWidth 64 * y.setWidth 64) >>> 32).setWidth 32

/-- The width of a bit-field descriptor: min(B[13:8], 32) (R212). -/
def fieldWidth (y : Word) : Nat := min ((y.toNat / 256) % 64) 32

/-- BFX on one value (R212). -/
def bitExtract (x y : Word) : Word :=
  let w := fieldWidth y
  let t := x >>> shiftBy y
  let r := if w == 32 then t else t &&& BitVec.ofNat 32 (2 ^ w - 1)
  if y.getLsbD 16 && decide (0 < w) && decide (w < 32) && r.getLsbD (w - 1) then r ||| (0xFFFFFFFF#32 <<< w) else r

/-- BFI on one value: old D, A and the descriptor (R212). -/
def bitInsert (z x y : Word) : Word :=
  let w := fieldWidth y
  let k := (if w == 32 then 0xFFFFFFFF#32 else BitVec.ofNat 32 (2 ^ w - 1)) <<< shiftBy y
  (z &&& ~~~k) ||| ((x <<< shiftBy y) &&& k)

/-- The number of set bits of a word. -/
def popCount (x : Word) : Nat := ((List.range 32).filter (fun i => x.getLsbD i)).length

/-- BITU's functions (R213). -/
def bitUnary (f : Nat) (x : Word) : Word :=
  match f with
  | 0 => BitVec.ofNat 32 (popCount x)
  | 1 => BitVec.ofNat 32 (if x == 0#32 then 32 else 31 - Nat.log2 x.toNat)
  | 2 => BitVec.ofNat 32 (((List.range 32).find? (fun i => x.getLsbD i)).getD 32)
  | 3 => (List.range 32).foldl (fun a i => if x.getLsbD i then a ||| (1#32 <<< (31 - i)) else a) 0#32
  | _ => x.extractLsb' 0 8 ++ x.extractLsb' 8 8 ++ x.extractLsb' 16 8 ++ x.extractLsb' 24 8

/-- A 32-bit instruction without flags: `f A B D` (R210). -/
def int32 (i : Instr) (d a b : BitVec 8) (s : State) (f : Word → Word → Word → Word) : Out :=
  checked i (classByDst d) s (fun s =>
    f3Effect s [a, b] d (fun s _ l g => plain g (f (readSrc s a l) (readSrc s b l) (readDst s d l))))

/-- An FI instruction: `f D x` (R66, R238). -/
def imm16 (i : Instr) (d : BitVec 8) (x : BitVec 16) (s : State) (f : Word → BitVec 16 → Word) : Out :=
  checked i (classByDst d) s (fun s => f3Effect s [] d (fun s _ l g => plain g (f (readDst s d l) x)))

/-- A compact integer instruction: vD := `f vD S` on the active lanes (R55). -/
def compactInt (i : Instr) (d : BitVec 5) (p : BitVec 6) (s : State) (f : Word → Word → Word) : Out :=
  checked i .laneArith s (fun s =>
    f3Effect s [] (d.setWidth 8) (fun s _ l g =>
      plain g (f (readSrc s (d.setWidth 8) l) (readSrc s (compactSrc p) l))))

/-- ADD.I32: D := A + B (R210). -/
def execAddI32 (d a b : BitVec 8) (s : State) : Out :=
  int32 (.addI32 d a b) d a b s (fun x y _ => x + y)

/-- SUB.I32: D := A - B (R210). -/
def execSubI32 (d a b : BitVec 8) (s : State) : Out :=
  int32 (.subI32 d a b) d a b s (fun x y _ => x - y)

/-- MUL.I32: the low half of the product (R210). -/
def execMulI32 (d a b : BitVec 8) (s : State) : Out :=
  int32 (.mulI32 d a b) d a b s (fun x y _ => x * y)

/-- MULHI.I32: the high half of the signed product (R210). -/
def execMulhiI32 (d a b : BitVec 8) (s : State) : Out :=
  int32 (.mulhiI32 d a b) d a b s (fun x y _ => mulHighSigned x y)

/-- MULHI.N32: the high half of the unsigned product (R210). -/
def execMulhiN32 (d a b : BitVec 8) (s : State) : Out :=
  int32 (.mulhiN32 d a b) d a b s (fun x y _ => mulHighUnsigned x y)

/-- MAD.I32: D := D + A·B (R210). -/
def execMadI32 (d a b : BitVec 8) (s : State) : Out :=
  int32 (.madI32 d a b) d a b s (fun x y z => z + x * y)

/-- MIN.I32 (R210). -/
def execMinI32 (d a b : BitVec 8) (s : State) : Out :=
  int32 (.minI32 d a b) d a b s (fun x y _ => if x.slt y then x else y)

/-- MAX.I32 (R210). -/
def execMaxI32 (d a b : BitVec 8) (s : State) : Out :=
  int32 (.maxI32 d a b) d a b s (fun x y _ => if x.slt y then y else x)

/-- MIN.N32 (R210). -/
def execMinN32 (d a b : BitVec 8) (s : State) : Out :=
  int32 (.minN32 d a b) d a b s (fun x y _ => if x.ult y then x else y)

/-- MAX.N32 (R210). -/
def execMaxN32 (d a b : BitVec 8) (s : State) : Out :=
  int32 (.maxN32 d a b) d a b s (fun x y _ => if x.ult y then y else x)

/-- AND (R210). -/
def execAnd (d a b : BitVec 8) (s : State) : Out :=
  int32 (.and d a b) d a b s (fun x y _ => x &&& y)

/-- OR (R210). -/
def execOr (d a b : BitVec 8) (s : State) : Out :=
  int32 (.or d a b) d a b s (fun x y _ => x ||| y)

/-- XOR (R210). -/
def execXor (d a b : BitVec 8) (s : State) : Out :=
  int32 (.xor d a b) d a b s (fun x y _ => x ^^^ y)

/-- ANDN: A and not B (R210). -/
def execAndn (d a b : BitVec 8) (s : State) : Out :=
  int32 (.andn d a b) d a b s (fun x y _ => x &&& ~~~y)

/-- SHL by B[4:0] (R210). -/
def execShl (d a b : BitVec 8) (s : State) : Out :=
  int32 (.shl d a b) d a b s (fun x y _ => x <<< shiftBy y)

/-- SHR.N32 by B[4:0], zeros shifted in (R210). -/
def execShrN32 (d a b : BitVec 8) (s : State) : Out :=
  int32 (.shrN32 d a b) d a b s (fun x y _ => x >>> shiftBy y)

/-- SHR.I32 by B[4:0], the sign shifted in (R210). -/
def execShrI32 (d a b : BitVec 8) (s : State) : Out :=
  int32 (.shrI32 d a b) d a b s (fun x y _ => x.sshiftRight (shiftBy y))

/-- ROT: rotate left by B[4:0] (R210). -/
def execRot (d a b : BitVec 8) (s : State) : Out :=
  int32 (.rot d a b) d a b s (fun x y _ => x.rotateLeft (shiftBy y))

/-- BFX (R212). -/
def execBfx (d a b : BitVec 8) (s : State) : Out :=
  int32 (.bfx d a b) d a b s (fun x y _ => bitExtract x y)

/-- BFI (R212). -/
def execBfi (d a b : BitVec 8) (s : State) : Out :=
  int32 (.bfi d a b) d a b s (fun x y z => bitInsert z x y)

/-- BITU: the function of the raw field (R213). -/
def execBitu (d a f : BitVec 8) (s : State) : Out :=
  int32 (.bitu d a f) d a 0xC0#8 s (fun x _ _ => bitUnary f.toNat x)

/-- ADD.I64 (R214). -/
def execAddI64 (d a b : BitVec 8) (s : State) : Out :=
  checked (.addI64 d a b) (classByDst d) s (fun s =>
    pairEffect s [a, b] d (fun s l => readSrc64 s a l + readSrc64 s b l))

/-- SUB.I64 (R214). -/
def execSubI64 (d a b : BitVec 8) (s : State) : Out :=
  checked (.subI64 d a b) (classByDst d) s (fun s =>
    pairEffect s [a, b] d (fun s l => readSrc64 s a l - readSrc64 s b l))

/-- MAD.N64.N32: D64 := D64 + zext(A)·zext(B) (R214). -/
def execMadN64N32 (d a b : BitVec 8) (s : State) : Out :=
  checked (.madN64N32 d a b) (classByDst d) s (fun s =>
    pairEffect s [a, b] d (fun s l => readDst64 s d l + (readSrc s a l).setWidth 64 * (readSrc s b l).setWidth 64))

/-- MOV64 (R214). -/
def execMov64 (d a : BitVec 8) (s : State) : Out :=
  checked (.mov64 d a) (classByDst d) s (fun s => pairEffect s [a] d (fun s l => readSrc64 s a l))

/-- MOVI: D := sext16(x) (R66, R238). -/
def execMovi (d : BitVec 8) (i : BitVec 16) (s : State) : Out :=
  imm16 (.movi d i) d i s (fun _ x => x.signExtend 32)

/-- MOVHI: D := x << 16 or the low half of D (R66, R238). -/
def execMovhi (d : BitVec 8) (i : BitVec 16) (s : State) : Out :=
  imm16 (.movhi d i) d i s (fun y x => x ++ y.extractLsb' 0 16)

/-- ADDI: D := D + sext16(x) (R66, R238). -/
def execAddi (d : BitVec 8) (i : BitVec 16) (s : State) : Out :=
  imm16 (.addi d i) d i s (fun y x => y + x.signExtend 32)

/-- ANDI: D := D and zext16(x) (R66, R238). -/
def execAndi (d : BitVec 8) (i : BitVec 16) (s : State) : Out :=
  imm16 (.andi d i) d i s (fun y x => y &&& x.setWidth 32)

/-- ORI: D := D or zext16(x) (R66, R238). -/
def execOri (d : BitVec 8) (i : BitVec 16) (s : State) : Out :=
  imm16 (.ori d i) d i s (fun y x => y ||| x.setWidth 32)

/-- Compact MOV: OR vD, S, 0; MOV v0, v0 is the NOP and changes no state (R55, R211). -/
def execMovCompact (d : BitVec 5) (p : BitVec 6) (s : State) : Out :=
  if d == 0#5 && p == 0#6 then checked (.movCompact d p) .laneArith s advance
  else compactInt (.movCompact d p) d p s (fun _ y => y)

/-- Compact ADD.I32 (R55, R210). -/
def execAddI32Compact (d : BitVec 5) (p : BitVec 6) (s : State) : Out :=
  compactInt (.addI32Compact d p) d p s (fun x y => x + y)

/-- Compact SUB.I32 (R55, R210). -/
def execSubI32Compact (d : BitVec 5) (p : BitVec 6) (s : State) : Out :=
  compactInt (.subI32Compact d p) d p s (fun x y => x - y)

/-- Compact AND (R55, R210). -/
def execAndCompact (d : BitVec 5) (p : BitVec 6) (s : State) : Out :=
  compactInt (.andCompact d p) d p s (fun x y => x &&& y)

/-- Compact OR (R55, R210). -/
def execOrCompact (d : BitVec 5) (p : BitVec 6) (s : State) : Out :=
  compactInt (.orCompact d p) d p s (fun x y => x ||| y)

/-- Compact XOR (R55, R210). -/
def execXorCompact (d : BitVec 5) (p : BitVec 6) (s : State) : Out :=
  compactInt (.xorCompact d p) d p s (fun x y => x ^^^ y)

/-- Compact SHL (R55, R210). -/
def execShlCompact (d : BitVec 5) (p : BitVec 6) (s : State) : Out :=
  compactInt (.shlCompact d p) d p s (fun x y => x <<< shiftBy y)

/-- Compact SHR.N32 (R55, R210). -/
def execShrN32Compact (d : BitVec 5) (p : BitVec 6) (s : State) : Out :=
  compactInt (.shrN32Compact d p) d p s (fun x y => x >>> shiftBy y)

/-- Compact SHR.I32 (R55, R210). -/
def execShrI32Compact (d : BitVec 5) (p : BitVec 6) (s : State) : Out :=
  compactInt (.shrI32Compact d p) d p s (fun x y => x.sshiftRight (shiftBy y))

end Sys2Proof.Machine
end

