-- ==== Sys2Proof/Machine/LoadStore.lean ====
section
/-! DEFINITION. The twelve FMEM instructions at issue (R249 to R264). -/

namespace Sys2Proof.Machine

/-- The bytes an access of size field z moves (R250). -/
def szBytes (z : BitVec 3) : Nat := [4, 1, 1, 2, 2, 8, 16, 4].getD z.toNat 4

/-- The registers a load of this many bytes writes, or a store reads, from r on. -/
def regsFor (r bytes : Nat) : List Nat := (List.range ((bytes + 3) / 4)).map (r + ·)

/-- A 64-bit virtual address with its offset, modulo 2^64 (R250, R252). -/
def virtAddr (s : State) (a : BitVec 8) (l off : Nat) : Nat := (readSrc64 s a l + BitVec.ofNat 64 off).toNat

/-- A scratchpad offset, modulo 2^32 (R250, R252). -/
def scratchAddr (s : State) (a : BitVec 8) (l off : Nat) : Nat := (readSrc s a l + BitVec.ofNat 32 off).toNat

/-- The lane registers among operand codes (R32). -/
def laneSrcs (cs : List (BitVec 8)) (n : Nat) : List Nat :=
  (cs.filter (fun c => c.toNat < 0x80)).flatMap (fun c => (List.range n).map (c.toNat + ·))

/-- The scalar registers among operand codes (R32). -/
def scalarSrcs (cs : List (BitVec 8)) (n : Nat) : List Nat :=
  (cs.filter (fun c => 0x80 ≤ c.toNat && c.toNat < 0xC0)).flatMap (fun c => (List.range n).map (c.toNat - 0x80 + ·))

/-- `bytes` bytes of a source in lane l: a register, a pair, a quad or a uniform operand (R251). -/
def storeData (s : State) (d : BitVec 8) (bytes l : Nat) : Nat :=
  if bytes ≤ 4 then (readSrc s d l).toNat % 2 ^ (8 * bytes)
  else if bytes == 8 then (readSrc64 s d l).toNat
  else (readSrc64 s d l).toNat + 2 ^ 64 * (readSrc64 s (d + 2) l).toNat

/-- The accesses of the active lanes at the addresses `addr l`, with data `x l` and comparands `c l`. -/
def laneAccs (s : State) (addr x : Nat → Nat) (c : Nat → DWord) : List LaneAcc :=
  (laneList s.frag.exec).map (fun l => ⟨l, 0, addr l, x l, c l⟩)

/-- The offset of the access AUX in bytes (R250). -/
def auxOff (z : BitVec 3) (o : BitVec 5) : Nat := o.toNat * szBytes z

/-- A load by lanes (R254, R263). -/
def loadReq (scratch : Bool) (bits : Option Bool) (d a : BitVec 8) (z : BitVec 3) (o : BitVec 5) (s : State) : MemReq :=
  { kind := .load z.toNat, scratch := scratch, scalar := false, size := szBytes z, want := wantRead, bits := bits,
    dst := d.toNat, dstV := regsFor d.toNat (szBytes z), dstS := [], srcV := laneSrcs [a] 2, srcS := scalarSrcs [a] 2,
    red := false
    accs := laneAccs s (fun l => if scratch then scratchAddr s a l (auxOff z o) else virtAddr s a l (auxOff z o))
      (fun _ => 0) (fun _ => 0) }

/-- A store by lanes (R251, R254, R263). -/
def storeReq (scratch : Bool) (bits : Option Bool) (d a : BitVec 8) (z : BitVec 3) (o : BitVec 5) (s : State) : MemReq :=
  { kind := .store, scratch := scratch, scalar := false, size := szBytes z, want := wantWrite, bits := bits,
    dst := 0, dstV := [], dstS := [], srcV := laneSrcs [a] 2 ++ laneSrcs [d] ((szBytes z + 3) / 4),
    srcS := scalarSrcs [a] 2 ++ scalarSrcs [d] ((szBytes z + 3) / 4), red := false
    accs := laneAccs s (fun l => if scratch then scratchAddr s a l (auxOff z o) else virtAddr s a l (auxOff z o))
      (storeData s d (szBytes z)) (fun _ => 0) }

/-- The operand v of an atomic in lane l: DATA, or for CAS what follows the comparand (R258). -/
def atomicV (s : State) (d : BitVec 8) (p : BitVec 4) (w : BitVec 1) (l : Nat) : Nat :=
  let at? := if p.toNat == 12 then d + BitVec.ofNat 8 (w.toNat + 1) else d
  if w == 0#1 then (readSrc s at? l).toNat else (readSrc64 s at? l).toNat

/-- The comparand of CAS in lane l (R258). -/
def atomicC (s : State) (d : BitVec 8) (w : BitVec 1) (l : Nat) : DWord :=
  if w == 0#1 then (readSrc s d l).setWidth 64 else readSrc64 s d l

/-- An atomic or a reduction by lanes (R257, R258). -/
def atomicReq (scratch ret : Bool) (d a : BitVec 8) (p : BitVec 4) (w : BitVec 1) (s : State) : MemReq :=
  let n := w.toNat + 1
  let span := if p.toNat == 12 then 2 * n else n
  { kind := .atomic p.toNat w.toNat ret, scratch := scratch, scalar := false, size := 4 * n, want := wantBoth,
    bits := none, dst := d.toNat, dstV := if ret then regsFor d.toNat (4 * n) else [], dstS := [],
    srcV := laneSrcs [a] 2 ++ laneSrcs [d] span, srcS := scalarSrcs [a] 2 ++ scalarSrcs [d] span, red := !ret
    accs := laneAccs s (fun l => if scratch then scratchAddr s a l 0 else virtAddr s a l 0) (atomicV s d p w)
      (atomicC s d w) }

/-- LD (R254). -/
def execLd (d a : BitVec 8) (z : BitVec 3) (o : BitVec 5) (s : State) : Out :=
  accessInstr (.ld d a z o) .laneMem s (loadReq false none d a z o)

/-- ST (R254). -/
def execSt (d a : BitVec 8) (z : BitVec 3) (o : BitVec 5) (s : State) : Out :=
  accessInstr (.st d a z o) .laneMem s (storeReq false none d a z o)

/-- LDS (R254). -/
def execLds (d a : BitVec 8) (z : BitVec 3) (o : BitVec 5) (s : State) : Out :=
  accessInstr (.lds d a z o) .laneMem s (loadReq true none d a z o)

/-- STS (R254). -/
def execSts (d a : BitVec 8) (z : BitVec 3) (o : BitVec 5) (s : State) : Out :=
  accessInstr (.sts d a z o) .laneMem s (storeReq true none d a z o)

/-- LDC: a load from lines that are full, which it empties (R263). -/
def execLdc (d a : BitVec 8) (z : BitVec 3) (o : BitVec 5) (s : State) : Out :=
  accessInstr (.ldc d a z o) .laneMem s (loadReq true (some true) d a z o)

/-- STP: a store to lines that are empty, which it fills (R263). -/
def execStp (d a : BitVec 8) (z : BitVec 3) (o : BitVec 5) (s : State) : Out :=
  accessInstr (.stp d a z o) .laneMem s (storeReq true (some false) d a z o)

/-- ATOM (R258). -/
def execAtom (d a : BitVec 8) (p : BitVec 4) (w : BitVec 1) (s : State) : Out :=
  accessInstr (.atom d a p w) .laneMem s (atomicReq false true d a p w)

/-- RED (R258). -/
def execRed (d a : BitVec 8) (p : BitVec 4) (w : BitVec 1) (s : State) : Out :=
  accessInstr (.red d a p w) .laneMem s (atomicReq false false d a p w)

/-- ATOMS (R258). -/
def execAtoms (d a : BitVec 8) (p : BitVec 4) (w : BitVec 1) (s : State) : Out :=
  accessInstr (.atoms d a p w) .laneMem s (atomicReq true true d a p w)

/-- LDU: once on the scalar unit (R254). -/
def execLdu (d a : BitVec 8) (z : BitVec 3) (o : BitVec 5) (s : State) : Out :=
  accessInstr (.ldu d a z o) .control s (fun s =>
    { kind := .load z.toNat, scratch := false, scalar := true, size := szBytes z, want := wantRead, bits := none,
      dst := d.toNat - 0x80, dstV := [], dstS := regsFor (d.toNat - 0x80) (szBytes z), srcV := [],
      srcS := scalarSrcs [a] 2, red := false
      accs := [⟨0, 0, virtAddr s a 0 (auxOff z o), 0, 0⟩] })

/-- STU: once on the scalar unit (R254). -/
def execStu (d a : BitVec 8) (z : BitVec 3) (o : BitVec 5) (s : State) : Out :=
  accessInstr (.stu d a z o) .control s (fun s =>
    { kind := .store, scratch := false, scalar := true, size := szBytes z, want := wantWrite, bits := none,
      dst := 0, dstV := [], dstS := [], srcV := [],
      srcS := scalarSrcs [a] 2 ++ scalarSrcs [d] ((szBytes z + 3) / 4), red := false
      accs := [⟨0, 0, virtAddr s a 0 (auxOff z o), storeData s d (szBytes z) 0, 0⟩] })

/-- The address of the buffer-record pool, its low five bits zero (R256). -/
def poolBase (s : State) : Nat := (ctxWord s 0x500).toNat / 32 * 32 + 2 ^ 32 * (ctxWord s 0x501).toNat

/-- LDREC: n + 1 words of a pool record, unless the index lies beyond POOLN (R255). -/
def execLdrec (d a : BitVec 8) (w n : BitVec 3) (s : State) : Out :=
  longLatency (.ldrec d a w n) .control s (fun s g =>
    let i := (readSrc s a 0).toNat
    if (ctxWord s 0x502).toNat ≤ i then takeTrap s 0x03 false
    else
      let base := poolBase s + 32 * i + 4 * w.toNat
      let count := n.toNat + 1
      issueAccess s g
        { kind := .words, scratch := false, scalar := true, size := 4, want := wantRead, bits := none,
          dst := d.toNat - 0x80, dstV := [], dstS := (List.range count).map (d.toNat - 0x80 + ·), srcV := [],
          srcS := scalarSrcs [a] 1, red := false
          accs := (List.range count).map (fun j => ⟨0, 4 * j, (base + 4 * j) % 2 ^ 64, 0, 0⟩) })

end Sys2Proof.Machine
end

