-- ==== Sys2Proof/Machine/Mask.lean ====
section
/-! DEFINITION. Compares and masks (R69, R233 to R237). -/

namespace Sys2Proof.Machine

/-- A compare of two words by an order and a condition EQ, NE, LT, LE, GT, GE (R69). -/
def compareWords (lt : Word → Word → Bool) (c : Nat) (x y : Word) : Bool :=
  match c with
  | 0 => x == y
  | 1 => x != y
  | 2 => lt x y
  | 3 => !lt y x
  | 4 => lt y x
  | _ => !lt x y

/-- The lanes of EXEC for which p holds, as CMP and TEST write them (R233). -/
def activeWhere (s : State) (p : Nat → Bool) : Lanes := lanesWhere p &&& s.frag.exec

/-- An integer compare (R234). -/
def cmpInt (i : Instr) (m : BitVec 3) (a b : BitVec 8) (s : State) (f : Word → Word → Bool) : Out :=
  checked i .control s (fun s =>
    let s1 := latchClk s [a, b]
    advance (writeM s1 m.toNat (activeWhere s1 (fun l => f (readSrc s1 a l) (readSrc s1 b l)))))

/-- CMP.I32 (R234). -/
def execCmpI32 (m : BitVec 3) (c : BitVec 5) (a b : BitVec 8) (s : State) : Out :=
  cmpInt (.cmpI32 m c a b) m a b s (compareWords (fun x y => x.slt y) c.toNat)

/-- CMP.N32 (R234). -/
def execCmpN32 (m : BitVec 3) (c : BitVec 5) (a b : BitVec 8) (s : State) : Out :=
  cmpInt (.cmpN32 m c a b) m a b s (compareWords (fun x y => x.ult y) c.toNat)

/-- A floating condition on two values, -0 equal to +0 (R69, R234). -/
def compareFloats (c : Nat) (x y : Ext) : Bool :=
  let un := extIsNaN x || extIsNaN y
  let eq := !un && extEq x y
  let lt := !un && !eq && extLess x y
  let gt := !un && !eq && extLess y x
  match c with
  | 0 => eq
  | 1 => un || !eq
  | 2 => lt
  | 3 => lt || eq
  | 4 => gt
  | 5 => gt || eq
  | 6 => !un
  | _ => un

/-- CMP.F32: INV for a signalling NaN and SUBIN for a subnormal of an active lane (R234). -/
def execCmpF32 (m : BitVec 3) (c : BitVec 5) (a b : BitVec 8) (s : State) : Out :=
  checked (.cmpF32 m c a b) .control s (fun s =>
    let s1 := latchClk s [a, b]
    let rd := fun (x : BitVec 8) (l : Nat) => readFloat .f32 (fmtDAZ s1.frag.fmt) (readSrc s1 x l).toNat
    let fl := (laneList s1.frag.exec).foldl (fun acc l => acc ||| (rd a l).2 ||| (rd b l).2) 0
    finishFlags (writeM s1 m.toNat
      (activeWhere s1 (fun l => compareFloats c.toNat (rd a l).1 (rd b l).1))) fl)

/-- TEST (R235). -/
def execTest (m : BitVec 3) (c : BitVec 5) (a b : BitVec 8) (s : State) : Out :=
  cmpInt (.test m c a b) m a b s (fun x y => if c.toNat == 0 then (x &&& y) != 0#32 else (x &&& y) == 0#32)

/-- MOP's operations on two masks (R236). -/
def maskOp (c : Nat) (x y : Lanes) : Lanes :=
  match c with
  | 0 => x &&& y
  | 1 => x ||| y
  | 2 => x ^^^ y
  | 3 => x &&& ~~~y
  | 4 => ~~~x
  | _ => x

/-- MOP over the lane set (R236). -/
def execMop (m : BitVec 3) (c : BitVec 5) (a b : BitVec 8) (s : State) : Out :=
  checked (.mop m c a b) .control s (fun s =>
    advance (writeM s m.toNat (maskOp c.toNat (readSel s a.toNat) (readSel s b.toNat))))

/-- The number of set bits of a lane set. -/
def laneCountOf (x : Lanes) : Nat := (laneList x).length

/-- MMOV by its COND (R69, R237). -/
def execMmov (m : BitVec 3) (c : BitVec 5) (a b : BitVec 8) (s : State) : Out :=
  checked (.mmov m c a b) .control s (fun s =>
    let r := a.toNat - 0x80
    let x := readM s m.toNat
    advance (match c.toNat with
      | 0 => writeM s m.toNat (readSel s a.toNat)
      | 1 => writeExec s (readSel s a.toNat)
      | 2 => writeS (writeS (writeS s r (x.extractLsb' 0 32)) (r + 1) (x.extractLsb' 32 32)) (r + 2)
          (x.extractLsb' 64 32)
      | 3 => writeM s m.toNat (readS s (r + 2) ++ readS s (r + 1) ++ readS s r)
      | 4 => writeS s r (BitVec.ofNat 32 (laneCountOf x))
      | _ => writeS s r (BitVec.ofNat 32 ((laneList x).headD laneCount))))

end Sys2Proof.Machine
end

