-- ==== Sys2Proof/Machine/PageCache.lean ====
section
/-! DEFINITION. The page cache and the memory side: encodings, chunks, fills, drains and evictions, snoops, writes from
outside, soft errors, failures and clears (R138, R139, R335, R460 to R475, R478). -/

namespace Sys2Proof.Machine

/-! ### Counters, fills, drains, evictions (R461, R462, R469, R470) -/

/-- R461: the clocks between two halvings. -/
def decayPeriod (p : PCache) : Nat := 2 ^ max 10 p.decay

/-- The regions whose counters stand at PROMO promoted: those that FILLSTOP held back may start now (R461, R476). -/
def promoteDue (d : Dev) : Dev :=
  let due := d.pc.counters.filter (fun e => d.pc.promo != 0 && decide (d.pc.promo ≤ e.2.1))
  { d with pc := due.foldl (fun p e => promoteRegion d p e.1 e.2.1 e.2.2) d.pc }

/-- COUNTER_DECAY: every access counter halves (R461). -/
def execCounterDecay (s : State) : Out :=
  hostReg s (fun s =>
    let p := s.dev.pc
    if p.decayAt + decayPeriod p ≤ s.clk then
      { s with dev := promoteDue { s.dev with pc := { p with
          counters := p.counters.map (fun e => (e.1, (e.2.1 / 2, e.2.2))), decayAt := p.decayAt + decayPeriod p } } }
    else s)

/-- R462, R463, R464, R476: a fill leaves the line ABSENT: L2 holds it modified, a snoop has just taken it, or the device may
not hold it. -/
def fillSkips (d : Dev) (f : Frame) (line : Nat) : Bool :=
  frameTag f line != tagAbsent || l2Of d.pc line == some .m || f.taken.contains (line % 32) || !cacheable d line

/-- R462, R467, R469: one line of a fill: read, encoded under the KEY of the page's leaf and stored, unless it is skipped or
the fill has stopped for want of a chunk. -/
def fillLine (d : Dev) (page : Nat) (x : Frame × PcDie × Bool) (i : Nat) : Frame × PcDie × Bool :=
  let line := page * 32 + i
  if x.2.2 || fillSkips d x.1 line then x
  else
    let f := retag x.1 line (tagUnder d line (tabGet 0 d.pc.pageKey page)) false
    if x.1.chunks < f.chunks then
      if x.2.1.fillstop || x.2.1.free == 0 then (x.1, x.2.1, true)
      else (f, setFree x.2.1 (x.2.1.free - (f.chunks - x.1.chunks)), false)
    else (f, x.2.1, false)

/-- R467: the lines a fill has stored were filled through the page's leaf. -/
def fillKeys (p : PCache) (page : Nat) (old new : Frame) : PCache :=
  { p with fillKey := (List.range 32).foldl (fun t i =>
      if frameTag old (page * 32 + i) != frameTag new (page * 32 + i) then
        tabSet 0 t (page * 32 + i) (tabGet 0 p.pageKey page)
      else t) p.fillKey }

/-- FRAME_FILL: the fill of a page finishes, and it is Resident (R462, R469). -/
def execFrameFill (frame : Nat) (s : State) : Out :=
  event s (fun s => match frameOf s.dev.pc frame with
    | none => s
    | some f =>
      if f.state != .filling then s
      else
        let r := (List.range 32).foldl (fillLine s.dev frame) (f, pcDie s.dev.pc f.die, false)
        let p0 := fillKeys s.dev.pc frame f r.1
        let p := { p0 with frames := tabInsert p0.frames frame { r.1 with state := .resident, taken := [] } }
        { s with dev := { s.dev with pc := updPcDie p f.die (fun _ => { r.2.1 with fills := r.2.1.fills + 1 }) } })

/-- R314, R460: lines of a Draining page leave its frame, dirty ones for their backing, and L1 copies of them go; with the last
of them the frame goes. -/
def drainLines (p : PCache) (n page : Nat) (f : Frame) : PCache :=
  let out := (List.range 32).filter (fun i => frameTag f (32 * page + i) != tagAbsent && Config.freeBit n i)
  let g := out.foldl (fun g i => retag g (32 * page + i) tagAbsent false) f
  let p0 := out.foldl (fun p i => dropL1 p (32 * page + i)) p
  let p1 := putFrame (countWb p0 f.die ((out.filter (fun i => f.dirty.contains i)).length)) page g
  if g.tags.isEmpty then dropFrame p1 page else p1

/-- FRAME_DRAIN: the page cache evicts a Resident page, as it may at any time and does while FILLSTOP stands: it is
Draining; lines of a Draining page leave (R460, R469). -/
def execFrameDrain (die frame : Nat) (s : State) : Out :=
  event s (fun s => match frameOf s.dev.pc frame with
    | none => s
    | some f =>
      if f.die != die then s
      else match f.state with
        | .filling => s
        | .resident => { s with dev := { s.dev with pc := putFrame s.dev.pc frame { f with state := .draining } } }
        | .draining => { s with dev := { s.dev with pc := drainLines s.dev.pc s.nfree frame f } })

/-- L2_EVICT (R465, R470). -/
def execL2Evict (line : Nat) (s : State) : Out :=
  event s (fun s => match l2Of s.dev.pc line with
    | none => s
    | some .m => { s with dev := { s.dev with pc := evictModified s.dev line } }
    | some .s | some .sc => { s with dev := { s.dev with pc := { s.dev.pc with l2 := tabDel s.dev.pc.l2 line } } })

/-! ### Snoops and writes from outside (R138, R335, R463 to R465, R478) -/

/-- The device holds the line modified, in L2 or in its frame. -/
def heldDirty (p : PCache) (line : Nat) : Bool :=
  l2Of p line == some .m || (match frameOf p (line / 32) with
    | some f => f.dirty.contains (line % 32)
    | none => false)

/-- The line in its frame no longer differs from its backing. -/
def cleanLine (p : PCache) (line : Nat) : PCache :=
  match frameOf p (line / 32) with
  | none => p
  | some f => putFrame p (line / 32) { f with dirty := f.dirty.filter (fun x => x != line % 32) }

/-- The device holds the line, in L1, L2 or a frame. -/
def holdsLine (p : PCache) (line : Nat) : Bool :=
  (l2Of p line).isSome || p.l1.any (fun x => x.pline == line) || (match frameOf p (line / 32) with
    | some f => frameTag f line != tagAbsent
    | none => false)

/-- R476: a page that is Filling notes a line that a snoop takes from the device. -/
def noteTaken (p : PCache) (line : Nat) : PCache :=
  match frameOf p (line / 32) with
  | some f =>
    if f.state == .filling && holdsLine p line then
      { p with frames := tabInsert p.frames (line / 32) { f with taken := line % 32 :: f.taken } }
    else p
  | none => p

/-- The line is given up: a modified copy is written back, and neither an L1, nor L2, nor the frame holds it (R463 to
R465). -/
def giveUp (p : PCache) (line : Nat) : PCache :=
  let p0 := noteTaken p line
  let p1 := if heldDirty p0 line then countWb p0 (lineDie line) 1 else p0
  dropL1 (retagLine { p1 with l2 := tabDel p1.l2 line } line tagAbsent false) line

/-- R463 to R465: a modified line is written back and then shared: L1 copies go, L2 keeps it as S, and a frame's encoding of
it from before L2 owned it goes. -/
def shareLine (p : PCache) (line : Nat) : PCache :=
  if !heldDirty p line then p
  else
    let p1 := dropL1 (countWb p (lineDie line) 1) line
    if l2Of p line == some .m then retagLine { p1 with l2 := tabInsert p1.l2 line .s } line tagAbsent false
    else cleanLine p1 line

/-- R463, R464: the answer to a snoop or back-invalidation: 0 leaves the line shared, 1 gives it up, 2 leaves it as it
stands (assumption 19). -/
def answerSnoop (p : PCache) (line kind : Nat) : PCache :=
  match kind with
  | 0 => shareLine p line
  | 1 => giveUp p line
  | _ => p

/-- SNOOP: the host's SnpData, SnpInv or SnpCur for a class 1 line (R463). -/
def execSnoop (line kind : Nat) (s : State) : Out :=
  event s (fun s =>
    if paClass (line * 128) == 1 then { s with dev := { s.dev with pc := answerSnoop s.dev.pc line kind } } else s)

/-- BACK_INVALIDATION: a pool's BISnpData, BISnpInv or BISnpCur for a class 2 line (R464). -/
def execBackInvalidation (line kind : Nat) (s : State) : Out :=
  event s (fun s =>
    if paClass (line * 128) == 2 then { s with dev := { s.dev with pc := answerSnoop s.dev.pc line kind } } else s)

/-- R478, R485: the bytes of class 0 an outside access reaches: those below the reserved part of the private region, and in
minimal mode none. -/
def windowReaches (d : Dev) (pa : Nat) : Bool :=
  paClass pa != 0 || (!d.plat.startup.minimal && decide (pa < d.priv - d.plat.privres * 2 ^ 20))

/-- A byte written from outside: into the private region, where a poisoned line discards it, or to its backing, whose ciphertext
it changes (R146, R488). -/
def hostByte (d : Dev) (pa : Nat) (b : Byte) : Dev :=
  if !windowReaches d pa || (paClass pa == 0 && markedPoison (pa / 128) d.poison) then d
  else
    let d1 := putByte d pa b
    { d1 with sealed := tabDel d1.sealed (pa / 128) }

/-- R478: what a host read of n bytes at offset x of BAR2 returns, byte by byte: the value the memory order gives below the
reserved part of the private region, none where the line is poison, and zero at every other offset. -/
def windowRead (d : Dev) (x n : Nat) : List (Option Byte) :=
  (List.range n).map (fun i =>
    if !windowReaches d (x + i) then some 0#8
    else if linePoisoned d ((x + i) / 128) then none
    else some (byteAt d (x + i)))

/-- R146: a line after a write from outside to its backing, the device holding no copy of it any more: poison that only a copy
held is gone; whether the write clears poison that the backing holds is left to the host or the pool, and is free here. -/
def hostClears (n : Nat) (d : Dev) (line : Nat) : Dev :=
  if paClass (line * 128) != 0 && markedPoison line d.poison &&
      (!markedPoison line (d.poison.filter inBacking) || Config.freeBit n line) then
    { d with poison := PoisonMark.lines line 1 false :: d.poison }
  else d

/-- Bytes written from outside, lowest first. -/
def hostBytes : Dev → Nat → List Byte → Dev
  | d, _, [] => d
  | d, pa, b :: bs => hostBytes (hostByte d pa b) (pa + 1) bs

/-- R335: a context's physical watchpoint i matched a write from pa0 on: the first address it matched is reported.  Of the
entry's fields the manual leaves open, VA is 0 and ACC is 2, a write (DESIGN CHOICE; assumption 85). -/
def reportWatch (n slot pa0 : Nat) (d : Dev) (i : Nat) : Dev :=
  let pa := max pa0 (watchOf d slot i).base
  let set := fun d k x => putCtxWord d n slot k x
  let d1 := set d 0x620 (slotWord d slot 0x620 ||| BitVec.ofNat 32 (2 ^ i))
  let d2 := set (set d1 0x621 (BitVec.ofNat 32 pa)) 0x622 (BitVec.ofNat 32 (pa / 2 ^ 32))
  postFq d2 n slot ⟨0#64, 0, 2, 2, lineDie (pa / 128), BitVec.ofNat 64 pa⟩

/-- R335: the physical watchpoints of every bound context that a write from outside matches. -/
def watchWrite (n pa len : Nat) (d : Dev) (slot : Nat) : Dev :=
  if (ctxOf d slot).en then (physHits d slot pa len).foldl (reportWatch n slot pa) d else d

/-- HOST_WRITE: a write by the host, a peer or another pool host becomes an event: the device gives the lines up, the
bytes take their places, and physical watchpoints see it (R138, R139, R335, R478). -/
def execHostWrite (pa : Nat) (bytes : List (BitVec 8)) (s : State) : Out :=
  event s (fun s =>
    let lines := linesOfRange pa bytes.length
    let d1 := { s.dev with pc := lines.foldl (fun p l => if paClass (l * 128) == 0 then p else giveUp p l) s.dev.pc }
    let d2 := hostBytes (lines.foldl (hostClears s.nfree) d1) pa bytes
    let len := ((List.range bytes.length).filter (fun i => windowReaches s.dev (pa + i))).length
    { s with dev := if len == 0 then d2 else (List.range 64).foldl (watchWrite s.nfree pa len) d2 })

/-! ### Soft errors and failures (R472 to R474, R482) -/

/-- A marking made, and vector 64 signalled (R145, R480). -/
def markPoison (d : Dev) (m : PoisonMark) : Dev := send { d with poison := m :: d.poison } (.msix 64)

/-- HBM_UNCORRECTABLE: a clean frame line becomes ABSENT; a modified one, or a private one, poison (R472).  The frame's copy of
a line that L2 holds modified serves nothing. -/
def execHbmUncorrectable (line : Nat) (s : State) : Out :=
  event s (fun s =>
    if paClass (line * 128) == 0 then { s with dev := markPoison s.dev (.lines line 1 true) }
    else match frameOf s.dev.pc (line / 32) with
      | none => s
      | some f =>
        if frameTag f line == tagAbsent then s
        else if f.dirty.contains (line % 32) && l2Of s.dev.pc line != some .m then
          let d := markPoison s.dev (.copies line 1)
          { s with dev := { d with pc := retagLine d.pc line tagPoison true } }
        else { s with dev := { s.dev with pc := retagLine s.dev.pc line tagAbsent false } })

/-- R314, R473, R474: lines that a failure marks: copies in L1 and L2 go, frames hold them as POISON. -/
def poisonCaches (p : PCache) (hit : Nat → Bool) : PCache :=
  let p1 := { p with l2 := p.l2.filter (fun e => !hit e.1), l1 := p.l1.filter (fun x => !hit x.pline) }
  p1.frames.foldl (fun p e =>
    (List.range 32).foldl (fun p i =>
      let line := e.1 * 32 + i
      if hit line && frameTag e.2 line != tagAbsent then retagLine p line tagPoison false else p) p) p1

/-- R473: a marking of class 2 lines, in the caches too. -/
def failPool (d : Dev) (ms : List PoisonMark) : Dev :=
  let hit := fun line => ms.any (fun m => markOf line m == some true)
  let d1 := send { d with poison := ms ++ d.poison } (.msix 64)
  { d1 with pc := poisonCaches d.pc hit }

/-- The markings of everything that enabled decoders send to a port (R473, R483). -/
def portMarks (d : Dev) (port : Nat) : List PoisonMark :=
  (d.decs.filter (fun e => e.2.en && e.2.ports.testBit port)).map (fun e => .routed e.2 port)

/-- POOL_FAIL: a pool, a part of one, or a port's link fails, or a pool marks what a crashed host held modified.  `size` lines
of pool address space from line `base` on fail; with size 0, all that is reached through the port (R147, R473, R474;
assumption 19). -/
def execPoolFail (port base size : Nat) (s : State) : Out :=
  event s (fun s =>
    let marks := if size == 0 then portMarks s.dev port
      else [.lines (2 * 2 ^ 48 / 128 + base) size true]
    { s with dev := failPool s.dev marks })

/-- PORT_FAIL: a pool or peer port fails: FAIL is set and what lies behind it is poison (R473, R482, R491). -/
def execPortFail (port : Nat) (s : State) : Out :=
  event s (fun s =>
    if 8 ≤ port then s
    else
      let p : Port := { tabGet default s.dev.ports port with fail := true, gen := 0 }
      let d := { s.dev with ports := tabSet default s.dev.ports port p }
      { s with dev := failPool d (portMarks d port) })

/-- R474: the class 1 lines that a frame holds or L2 holds modified, and those of which only a clean copy stands in L2 or
L1. -/
def hostLines (p : PCache) : List Nat × List Nat :=
  let mine := fun line => paClass (line * 128) == 1
  let held := (p.l2.filter (fun e => e.2 == .m)).map Prod.fst ++
    p.frames.flatMap (fun e => ((List.range 32).map (fun i => e.1 * 32 + i)).filter (fun l => frameTag e.2 l != tagAbsent))
  (held.filter mine, (p.l2.map Prod.fst ++ p.l1.map L1Line.pline).filter mine)

/-- HOST_LINK_DOWN: the host link fails: class 1 lines held in caches are marked poison, and every later class 1 access
returns poison while the link is down (R474). -/
def execHostLinkDown (s : State) : Out :=
  event s (fun s =>
    if !s.dev.host.up then s
    else
      let (held, maybe) := hostLines s.dev.pc
      let d := markPoison { s.dev with host := { s.dev.host with up := false } } (.hostCached held maybe s.nfree)
      { s with dev := { d with pc := poisonCaches d.pc (fun line => paClass (line * 128) == 1) } })

/-- R479, R481: the host link trains: GEN, WIDTH and CXL come from both ends; a link that trains again sets RECOV, and
page requests wait for CXCTL. -/
def execHostLinkUp (s : State) : Out :=
  event s (fun s =>
    let h := s.dev.host
    if h.up then s
    else
      let again := h.gen != 0
      let n := s.nfree
      let gen := if s.dev.plat.startup.minimal then 4 else 4 + Config.freeNat n 1 % 3
      let h1 := { h with up := true, gen := gen, width := 2 ^ (Config.freeNat n 2 % 5)
                         cxl := if s.dev.plat.startup.minimal then 0 else Config.freeNat n 3 % 4
                         recov := h.recov || again }
      let d := { s.dev with host := h1 }
      if again then
        { s with dev := send { d with contexts := d.contexts.map (fun e => (e.1, { e.2 with priStop := true })) } (.msix 64) }
      else { s with dev := d })

/-! ### Clears (R475) -/

/-- A line cleared to zeros, its poison gone (R475). -/
def clearLine (d : Dev) (line : Nat) : Dev :=
  let p0 := dropL1 { d.pc with l2 := tabDel d.pc.l2 line, fillKey := tabSet 0 d.pc.fillKey line 0 } line
  let p := retagLine p0 line tagZero false
  let d1 := { d with
    poison := PoisonMark.lines line 1 false :: d.poison, pc := p, lineKey := tabSet 0 d.lineKey line 0
    sealed := tabDel d.sealed line }
  (List.range 128).foldl (fun d i => putByte d (line * 128 + i) 0#8) d1

/-- The backing of a page answers (R475). -/
def backingAnswers (d : Dev) (page : Nat) : Bool :=
  match paClass (page * 4096) with
  | 1 => d.host.up
  | 2 => match decOf d (page * 4096) with
    | some e =>
      let p := tabGet default d.ports (decPort e (paOffset (page * 4096) / 4096))
      p.gen != 0 && !p.fail
    | none => false
  | _ => false

/-- Lines of a page cleared. -/
def clearLines (d : Dev) (page : Nat) (ls : List Nat) : Dev := ls.foldl (fun d i => clearLine d (page * 32 + i)) d

/-- PCCLR: the clear of a backing page begins; lines may be cleared before it is done (R475). -/
def execPcclr (v : BitVec 64) (s : State) : Out :=
  hostReg s (fun s =>
    let page := (v.extractLsb' 12 40).toNat
    let c := paClass (page * 4096)
    if s.dev.pc.clrPage.isSome then s
    else if c != 1 && c != 2 then { s with dev := { s.dev with pc := { s.dev.pc with clrFail := true } } }
    else
      let now := if backingAnswers s.dev page then (List.range 32).filter (fun i => Config.freeBit s.nfree i) else []
      let d := clearLines s.dev page now
      let left := (List.range 32).filter (fun i => !now.contains i)
      { s with dev := { d with pc := { d.pc with clrPage := some page, clrLeft := left, clrFail := false } } })

/-- PCCLR_DONE: the last line's clear holds its place (R475). -/
def execPcclrDone (s : State) : Out :=
  hostReg s (fun s => match s.dev.pc.clrPage with
    | none => s
    | some page =>
      let ok := backingAnswers s.dev page
      let d := if ok then clearLines s.dev page s.dev.pc.clrLeft else s.dev
      { s with dev := { d with pc := { d.pc with clrPage := none, clrLeft := [], clrFail := !ok } } })

/-- PCMARK: a die's watermarks (R471). -/
def execPcmark (die : Nat) (v : BitVec 64) (s : State) : Out :=
  hostReg s (fun s =>
    let low := (v.extractLsb' 0 32).toNat
    let high := (v.extractLsb' 32 32).toNat
    if 6 ≤ die then s
    else if low < 2048 || high ≤ low then
      { s with dev := { s.dev with pc := updPcDie s.dev.pc die (fun x => { x with refused := true }) } }
    else { s with dev := { s.dev with pc := updPcDie s.dev.pc die (fun x =>
        setFree { x with low := low, high := high, refused := false } x.free) } })

end Sys2Proof.Machine
end

