-- ==== Sys2Proof/Machine/Platform.lean ====
section
/-! DEFINITION. The register window, start-up and reset, signed images and attestation, memory-encryption keys, pool
decoders and power (R152, R471, R477 to R491). -/

namespace Sys2Proof.Machine

/-! ### Start-up (R484, R485) -/

/-- The start-up state changed, and vector 65 signalled (R480). -/
def setStartup (d : Dev) (x : Startup) : Dev := send { d with plat := { d.plat with startup := x } } (.msix 65)

/-- R485: minimal mode entered for a reason; the host port runs as PCIe at up to 4.0. -/
def enterMinimal (d : Dev) (reason : Nat) : Dev :=
  let d1 := setStartup d { d.plat.startup with minimal := true, reason := reason }
  { d1 with host := { d1.host with gen := if d1.host.up then 4 else d1.host.gen, cxl := 0 } }

/-- The reason a step that fails gives (R484); steps 5 and 6 do not fail. -/
def stepReason (k : Nat) : Option Nat :=
  match k with
  | 1 => some 0x01
  | 2 => some 0x02
  | 3 => some 0x03
  | 4 => some 0x05
  | _ => none

/-- R485: FSCNT after step 1's increment. -/
def countStart (x : Startup) : Startup := { x with fscnt := min 7 (x.fscnt + 1) }

/-- R459, R471: the split of HBM that step 2 sets: PRIV in GiB, a multiple of 12 from 12 to 384. -/
def splitPriv (n : Nat) : Nat := 12 * (1 + Config.freeNat n 10 % 32)

/-- The free chunks of each die after step 2 (R468, R471). -/
def splitFree (privGiB : Nat) : Nat := (768 - privGiB) * 2 ^ 30 / 6 / 512

/-- R482: the eight ports after step 5: what each trained to. -/
def trainedPorts (n : Nat) : Tab Port :=
  ((List.range 8).map (fun p =>
    let gen := Config.freeNat n (20 + p) % 3
    (p, (⟨gen, gen == 2 && Config.freeBit n (20 + p), gen == 0⟩ : Port)))).filter (fun e => e.2 != default)

/-- R292, R484: the standard routines installed. -/
def installStandard (x : Security) : Security :=
  { x with routines := [1, 2, 3, 4, 5].foldl (fun t k => tabInsert t k (Config.standardImage k)) x.routines }

/-- R484: what the completion of step k does. -/
def doneStep (d : Dev) (n clk k : Nat) : Dev :=
  let x := { d.plat.startup with step := k, reported := [], since := clk }
  match k with
  | 1 =>
    let y := countStart x
    let d1 := setStartup d y
    if 4 ≤ y.fscnt then enterMinimal d1 0x06 else d1
  | 2 =>
    let g := splitPriv n
    let d1 := setStartup { d with priv := g * 2 ^ 30, plat := { d.plat with privres := Config.freeNat n 11 % 12288 } } x
    { d1 with pc := (List.range 6).foldl (fun p die => updPcDie p die (fun y => setFree y (splitFree g))) d1.pc }
  | 4 => setStartup { d with plat := { d.plat with sec := installStandard d.plat.sec } } x
  | 5 =>
    let ports := trainedPorts n
    let d1 := setStartup { d with ports := ports } x
    if ports.any (fun e => e.2.fail) then send d1 (.msix 64) else d1
  | 6 => setStartup d { x with ready := true, fscnt := 0 }
  | _ => setStartup d x

/-- Start-up is under way. -/
def starting (d : Dev) : Bool := !d.plat.startup.ready && !d.plat.startup.minimal

/-- STARTUP_STEP: a die's controller has taken the next step, well or not; the step is done when all six have (R484). -/
def execStartupStep (die : Nat) (ok : Bool) (s : State) : Out :=
  event s (fun s =>
    let x := s.dev.plat.startup
    let k := x.step + 1
    if !starting s.dev || 6 ≤ die || x.reported.contains die then s
    else match if ok then none else stepReason k with
      | some r =>
        let x1 := if k == 1 then countStart x else x
        let d := { s.dev with plat := { s.dev.plat with startup := x1 } }
        { s with dev := enterMinimal d r }
      | none =>
        let seen := x.reported ++ [die]
        if (List.range 6).all (fun i => seen.contains i) then { s with dev := doneStep s.dev s.nfree s.clk k }
        else { s with dev := { s.dev with plat := { s.dev.plat with startup := { x with reported := seen } } } })

/-- STARTUP_TIMEOUT: a die's controller has not answered for 2^28 clocks (R484). -/
def execStartupTimeout (die : Nat) (s : State) : Out :=
  event s (fun s =>
    let x := s.dev.plat.startup
    if starting s.dev && die < 6 && !x.reported.contains die && decide (x.since + 2 ^ 28 ≤ s.clk) then
      let x1 := if x.step == 0 then countStart x else x
      { s with dev := enterMinimal { s.dev with plat := { s.dev.plat with startup := x1 } } 0x04 }
    else s)

/-- FSCLR: FSCNT cleared, and vector 65 where STARTST changes (R480, R485). -/
def execFsclr (v : BitVec 64) (s : State) : Out :=
  event s (fun s =>
    let x := s.dev.plat.startup
    if v == 1#64 && x.fscnt != 0 then { s with dev := setStartup s.dev { x with fscnt := 0 } } else s)

/-- The poison that outlives a reset: what failed pools return (R146, R147, R473). -/
def lastingPoison (m : PoisonMark) : Bool :=
  match m with
  | .lines first _ _ => paClass (first * 128) == 2
  | .routed _ _ => true
  | .copies _ _ | .hostCached _ _ _ => false

/-! ### Signed images and attestation (R486, R487) -/

/-- The physical address of a host address (R457). -/
def hostPa (a : DWord) : Nat := 2 ^ 48 + a.toNat % 2 ^ 48

/-- Bytes the die controllers read from the host; none where the link is down or a line is poison. -/
def hostRead (d : Dev) (pa n : Nat) : Option (List Byte) := if rangePoisoned d pa n then none else some (bytesAt d pa n)

/-- A load begun; a second one while BUSY stands is ignored (assumption 20). -/
def startLoad (s : State) (k : ImageKind) (v : BitVec 64) : State :=
  let x := s.dev.plat.sec
  if x.loading.isSome then s
  else { s with dev := { s.dev with plat := { s.dev.plat with sec := { x with loading := some (k, hostPa v) } } } }

/-- RTLOAD (R486). -/
def execRtload (v : BitVec 64) (s : State) : Out := hostReg s (fun s => startLoad s .routine v)

/-- FWLOAD, which responds in minimal mode too (R485, R486). -/
def execFwload (v : BitVec 64) (s : State) : Out := event s (fun s => startLoad s .firmware v)

/-- R486: a routine image read at an address: its number and its bytes, when it passes. -/
def goodRoutine (d : Dev) (a : Nat) : Option (Nat × List Byte) :=
  match hostRead d a 64 with
  | none => none
  | some h =>
    let number := natLE ((h.drop 4).take 4)
    let size := natLE ((h.drop 8).take 4)
    if number < 64 || 262144 < size then none
    else match hostRead d a size with
      | none => none
      | some b => if Config.imageGood 0 b then some (number, b) else none

/-- The bytes of a firmware image; the manual gives no size (assumption 43). -/
def firmwareSize : Nat := Config.freeNat 0 12

/-- R486: the end of a load: BUSY falls, and FAIL says whether it failed. -/
def endLoad (d : Dev) (k : ImageKind) (a : Nat) : Security :=
  let x := { d.plat.sec with loading := none }
  match k with
  | .routine => match goodRoutine d a with
    | some (number, b) => { x with fail := false, routines := tabInsert x.routines number b }
    | none => { x with fail := true }
  | .firmware => match hostRead d a firmwareSize with
    | some b => if Config.imageGood 1 b then { x with fail := false, staged := some b } else { x with fail := true }
    | none => { x with fail := true }

/-- IMAGE_LOAD_DONE (R486). -/
def execImageLoadDone (s : State) : Out :=
  event s (fun s => match s.dev.plat.sec.loading with
    | none => s
    | some (k, a) => { s with dev := { s.dev with plat := { s.dev.plat with sec := endLoad s.dev k a } } })

/-- STARTST (R484). -/
def startst (x : Startup) : DWord :=
  BitVec.ofNat 64 (x.step + (if x.ready then 16 else 0) + (if x.minimal then 32 else 0) + 256 * x.reason + 65536 * x.fscnt)

/-- What an attestation report measures (R487). -/
def measured (d : Dev) : List Byte :=
  bytesLE 8 (Config.identityWord 0).toNat ++ d.plat.sec.firmware ++ (d.plat.sec.routines.map Prod.snd).flatten ++
  bytesLE 8 (startst d.plat.startup).toNat

/-- ATTEST: the nonce read and the report written behind it, as the device reads and writes host lines (R463, R487). -/
def execAttest (v : BitVec 64) (s : State) : Out :=
  hostReg s (fun s =>
    let a := hostPa v
    match hostRead s.dev a 32 with
    | none => s
    | some nonce =>
      let report := Config.attestReport nonce (measured s.dev)
      let d := touchLines s.dev s.nfree 0 (linesOfRange a 32)
      { s with dev := storeBytes 0 (ownLines d s.nfree 0 (linesOfRange (a + 32) report.length)) (a + 32) report })

/-! ### Keys (R488) -/

/-- The key an index names, as it is loaded; none where the index has no key. -/
def keyValue (x : Security) (k : Nat) : List DWord := tabGet [] x.keys k

/-- R488: modified lines held under the key are written back, and frames mark its lines ABSENT. -/
def dropKeyLines (d : Dev) (k : Nat) : PCache :=
  (((d.lineKey ++ d.pc.fillKey).filter (fun e => e.2 == k)).map Prod.fst).foldl giveUp d.pc

/-- KEYCTL: with GO, the installation of a key begins (R488). -/
def execKeyctl (v : BitVec 64) (s : State) : Out :=
  hostReg s (fun s =>
    let k := (v.extractLsb' 0 7).toNat
    let x := s.dev.plat.sec
    if !v.getLsbD 7 || k == 0 || x.keyBusy.isSome then s
    else
      let key := (List.range 8).map (fun i => tabGet 0#64 x.keydata i)
      { s with dev := { s.dev with
          pc := dropKeyLines s.dev k, plat := { s.dev.plat with sec := { x with keyBusy := some (k, key) } } } })

/-- R488: a line's stored ciphertext as it reads once its index holds another key.  The ciphertext itself stays as it was
made, so a key that is loaded again brings back the bytes written under it (assumption 42). -/
def rekeyLine (old new : List DWord) (d : Dev) (line : Nat) : Dev :=
  let made := match d.sealed.find? (fun e => e.1 == line) with
    | some e => e.2
    | none => (old, bytesAt d (128 * line) 128)
  let text := if made.1 == new then made.2.take 128 else (List.range 128).map (Config.rekey made.1 new line made.2)
  let d1 := text.zipIdx.foldl (fun d e => putByte d (128 * line + e.2) e.1) d
  { d1 with sealed := if made.1 == new then tabDel d.sealed line else tabInsert d.sealed line made }

/-- R488: every location of host and pool pages whose stored ciphertext was made under the index, line by line. -/
def rekeyLines (d : Dev) (k : Nat) (old new : List DWord) : Dev :=
  ((d.lineKey.filter (fun e => e.2 == k && paClass (128 * e.1) != 0)).map Prod.fst).foldl (rekeyLine old new) d

/-- KEY_INSTALL: the installation takes effect as one event (R488). -/
def execKeyInstall (s : State) : Out :=
  hostReg s (fun s => match s.dev.plat.sec.keyBusy with
    | none => s
    | some (k, key) =>
      let x := s.dev.plat.sec
      let d := rekeyLines s.dev k (keyValue x k) key
      { s with dev := { d with plat := { d.plat with sec := { x with keyBusy := none, keys := tabInsert x.keys k key } } } })

/-! ### Reset (R484) -/

/-- The indices no longer hold keys: what was written under one reads as under no key (R484, R488; assumption 42). -/
def forgetKeys (d : Dev) : Dev :=
  (d.plat.sec.keys.map Prod.fst).foldl (fun d k => rekeyLines d k (keyValue d.plat.sec k) []) d

/-- The device after a reset: host and pool memory and what is not volatile stay, staged firmware takes effect, and
everything else is as right after reset (R475, R484 to R486; assumption 56). -/
def resetDev (d0 : Dev) : Dev :=
  let d := forgetKeys d0
  { Dev.reset with
    mem := d.mem.filter (fun c => paClass c.1 != 0)
    lineKey := d.lineKey.filter (fun e => paClass (128 * e.1) != 0)
    sealed := d.sealed
    poison := d.poison.filter lastingPoison
    out := d.out
    host := { Dev.reset.host with ats := d.host.ats, pri := d.host.pri }
    plat := { Plat.reset with
      startup := { Plat.reset.startup with fscnt := d.plat.startup.fscnt }
      sec := { Plat.reset.sec with firmware := d.plat.sec.staged.getD d.plat.sec.firmware } } }

/-- RESET (R484). -/
def execReset (s : State) : Out :=
  .next { State.reset with dev := resetDev (stow s).dev, agenda := s.agenda, nfree := s.nfree }

/-! ### Pool decoders (R483) -/

/-- A decoder with one of its two words written. -/
def decWrite (e : PoolDec) (word : Nat) (v : BitVec 64) : PoolDec :=
  if word == 0 then { e with en := v.getLsbD 0, base := (v.extractLsb' 12 36).toNat }
  else { e with size := (v.extractLsb' 0 36).toNat, ports := (v.extractLsb' 36 8).toNat }

/-- R483: a write to decoder i that leaves it as e is refused. -/
def decRefuses (d : Dev) (i : Nat) (old e : PoolDec) : Bool :=
  (old.en && (List.range 64).any (ctxLive d)) ||
  (e.en && (e.ports == 0 || e.size == 0 ||
    d.decs.any (fun x => x.1 != i && x.2.en && rangesMeet e.base e.size x.2.base x.2.size)))

/-- POOLDEC: word i of the 32 words of the decoders written (R483). -/
def execPooldec (i : Nat) (v : BitVec 64) (s : State) : Out :=
  hostReg s (fun s =>
    if 32 ≤ i then s
    else
      let old := tabGet default s.dev.decs (i / 2)
      let e := decWrite old (i % 2) v
      if decRefuses s.dev (i / 2) old e then { s with dev := { s.dev with decRefused := true } }
      else { s with dev := { s.dev with decs := tabSet default s.dev.decs (i / 2) e, decRefused := false } })

/-! ### Power (R489, R490) -/

/-- PWRLIM (R489): a value with a bit of [63:12] set is one of the other values, and refused whole (DESIGN CHOICE;
assumption 71). -/
def execPwrlim (v : BitVec 64) (s : State) : Out :=
  hostReg s (fun s =>
    let w := (v.extractLsb' 0 12).toNat
    if v.toNat < 4096 && 300 ≤ w && w ≤ 2800 then
      { s with dev := { s.dev with plat := { s.dev.plat with power := { s.dev.plat.power with limit := w } } } }
    else s)

/-- The quads, by their lower-left cores (R11). -/
def quads : List Nat := (List.range 16).flatMap (fun y => (List.range 24).map (fun x => 2 * x + 96 * y))

/-- The quad islands that may be lowered one step now (R489). -/
def lowerable (p : Power) (clk : Nat) : List Nat :=
  quads.filter (fun q => tabGet 0 p.steps q < 9 && (match p.lowered.find? (fun e => e.1 == q) with
    | some e => decide (e.2 + 65536 ≤ clk)
    | none => true))

/-- R490: crews of a quad asked to save. -/
def askQuad (d : Dev) (clk q : Nat) : Dev :=
  { d with crews := d.crews.map (fun c => if quadOf c.core == q && c.state != .saved then requestCrew clk none c else c) }

/-- R489, R490: power over the limit: the busiest islands go one step lower; with every island at the lowest, a quad's crews
are asked to save, the next quad's once it is gated.  Which islands are the busiest is left free. -/
def overLimit (d : Dev) (n clk : Nat) (p : Power) : Dev :=
  let set := fun (d : Dev) (p : Power) => { d with plat := { d.plat with power := p } }
  match lowerable p clk with
  | x :: xs =>
    let p1 := (someOf n (2 ^ 70) (x :: xs)).foldl (fun (p : Power) q =>
      { p with steps := tabInsert p.steps q (tabGet 0 p.steps q + 1), lowered := tabInsert p.lowered q clk }) p
    send (set d p1) (.msix 66)
  | [] =>
    if !quads.all (fun q => 9 ≤ tabGet 0 p.steps q) || p.asked.any (fun q => !p.gated.contains q) then set d p
    else match quads.filter (fun q => !p.asked.contains q) with
      | [] => set d p
      | x :: xs =>
        let q := (x :: xs).getD (Config.freeNat n 31 % (xs.length + 1)) x
        askQuad (set d { p with asked := p.asked ++ [q] }) clk q

/-- R490: quads whose crews have been asked and are all saved or gone are gated. -/
def gateQuads (d : Dev) : Dev :=
  let p := d.plat.power
  let done := p.asked.filter (fun q => !p.gated.contains q && !d.crews.any (fun c => quadOf c.core == q && c.state != .saved))
  if done.isEmpty then d else { d with plat := { d.plat with power := { p with gated := p.gated ++ done } } }

/-- POWER_CHECK: the average draw over the last 2^16 clocks is `draw` watts (R489, R490). -/
def execPowerCheck (draw : Nat) (s : State) : Out :=
  event s (fun s =>
    let p := { s.dev.plat.power with now := draw % 4096 }
    if p.limit < p.now then { s with dev := gateQuads (overLimit s.dev s.nfree s.clk p) }
    else
      let p1 := { p with steps := (p.steps.map (fun e =>
        (e.1, if Config.freeBit s.nfree (40 + e.1) then e.2 - 1 else e.2))).filter (fun e => e.2 != 0) }
      let p2 := if 10 * p.now ≤ 9 * p.limit then { p1 with asked := [], gated := [] } else p1
      { s with dev := gateQuads { s.dev with plat := { s.dev.plat with power := p2 } } })

/-! ### The register window (R152, R308, R471, R477 to R490) -/

/-- What an offset of the window names. -/
inductive Reg where
  | startst | hostlink | fsclr | privres
  | queue (q k : Nat)       -- word k of host queue q
  | slot (n k : Nat)        -- word k of context slot n
  | pc (k : Nat)            -- word k of the page cache's global block
  | pcDie (die k : Nat)
  | portst (p : Nat)
  | pooldec (i : Nat)
  | rtload | rtst | fwload | attest | keydata (i : Nat) | keyctl | keyst
  | pwrlim | pwrnow
  | other
  deriving DecidableEq, Repr

/-- R477: the register at an offset; one that is not aligned names none. -/
def regAt (a : Nat) : Reg :=
  if a % 8 != 0 then .other
  else if a == 0x0 then .startst
  else if a == 0x10 then .hostlink
  else if a == 0x18 then .fsclr
  else if a == 0x20 then .privres
  else if 0x100000 ≤ a && a < 0x700000 then
    let o := a % 0x100000
    if o < 0x1000 then .queue (64 * (a / 0x100000 - 1) + o / 0x40) (o % 0x40 / 8) else .other
  else if 0x800000 ≤ a && a < 0x802000 then .slot ((a - 0x800000) / 0x80) (a % 0x80 / 8)
  else if 0x900000 ≤ a && a < 0x900040 then .pc (a % 0x40 / 8)
  else if 0x901000 ≤ a && a < 0x901180 then .pcDie ((a - 0x901000) / 0x40) (a % 0x40 / 8)
  else if 0xA00000 ≤ a && a < 0xA00040 then .portst (a % 0x40 / 8)
  else if 0xA00100 ≤ a && a < 0xA00200 then .pooldec ((a - 0xA00100) / 8)
  else if a == 0xB00000 then .rtload
  else if a == 0xB00008 then .rtst
  else if a == 0xB00010 then .fwload
  else if a == 0xB00020 then .attest
  else if 0xB00100 ≤ a && a < 0xB00140 then .keydata ((a - 0xB00100) / 8)
  else if a == 0xB00140 then .keyctl
  else if a == 0xB00148 then .keyst
  else if a == 0xC00000 then .pwrlim
  else if a == 0xC00008 then .pwrnow
  else .other

/-- A Boolean as bit k. -/
def bitAt (b : Bool) (k : Nat) : Nat := if b then 2 ^ k else 0

/-- A context slot's register k as it reads (R308); CXCWD apart, whose read is an event. -/
def slotRead (d : Dev) (n k : Nat) : DWord :=
  let c := ctxOf d n
  match k with
  | 0 => BitVec.ofNat 64 (bitAt c.en 0 + bitAt c.pasiden 1 + bitAt c.prien 2 + 16 * c.tag + 2 ^ 16 * c.gen + 2 ^ 20 * c.pasid)
  | 1 => c.root
  | 2 => BitVec.ofNat 64 (bitAt (d.wraps.contains c.tag) 0 + bitAt (ctxLive d n) 1 + bitAt c.refused 2 +
      bitAt c.invBusy 3 + bitAt (fqFull c) 4 + bitAt c.cwErr 5 + bitAt c.fqErr 6)
  | 3 => c.fq
  | 4 => c.fqHead
  | 5 => c.fqTail
  | 7 => c.inva
  | 9 => c.prej
  | 11 => BitVec.ofNat 64 c.cwn
  | 12 => cxcwdValue d n
  | _ => 0#64

/-- A die's page-cache register k (R471); RESV is 0 until step 2 of start-up has given the die its chunks. -/
def pcDieRead (split : Bool) (x : PcDie) (k : Nat) : DWord :=
  match k with
  | 0 => BitVec.ofNat 64 (x.free % 2 ^ 32)
  | 1 => BitVec.ofNat 64 (x.low + 2 ^ 32 * x.high)
  | 2 => BitVec.ofNat 64 (bitAt x.fillstop 0 + bitAt (split && decide (x.free ≤ 1024)) 1 + bitAt x.refused 2 + bitAt x.wbraw 3)
  | 3 => BitVec.ofNat 64 x.fills
  | 4 => BitVec.ofNat 64 x.wb
  | 5 => BitVec.ofNat 64 x.fwd
  | _ => 0#64

/-- What a register of the window reads (R7, R477); in minimal mode only the identity and start-up block and RTST
respond (R485). -/
def regRead (d : Dev) (a : Nat) : DWord :=
  let p := d.plat
  match regAt a with
  | .startst => startst p.startup
  | .hostlink =>
    let h := d.host
    BitVec.ofNat 64 (h.gen + 8 * h.width + 256 * h.cxl + bitAt h.up 10 + bitAt h.recov 11)
  | .privres => BitVec.ofNat 64 p.privres
  | .rtst => BitVec.ofNat 64 (bitAt p.sec.loading.isSome 0 + bitAt p.sec.fail 1)
  | r =>
    if p.startup.minimal then 0#64
    else match r with
      | .queue q k =>
        let x := queueOf d q
        match k with
        | 1 => BitVec.ofNat 64 (bitAt x.en 0 + 2 * x.prio + 16 * x.ctag)
        | 2 => BitVec.ofNat 64 x.cards.length
        | 3 => x.lastId
        | 4 => x.err
        | _ => 0#64
      | .slot n k => slotRead d n k
      | .pc 0 => BitVec.ofNat 64 (bitAt d.pc.nocmp 0 + 256 * d.pc.promo + 65536 * d.pc.decay)
      | .pc 1 => if d.priv == 0 then 0#64 else BitVec.ofNat 64 (d.priv / 2 ^ 30 + 1024 * (768 - d.priv / 2 ^ 30))
      | .pc 3 => BitVec.ofNat 64 (bitAt d.pc.clrPage.isSome 0 + bitAt d.pc.clrFail 1)
      | .pc _ => 0#64
      | .pcDie die k => pcDieRead (decide (2 ≤ p.startup.step)) (pcDie d.pc die) k
      | .portst i =>
        let x := tabGet default d.ports i
        BitVec.ofNat 64 (x.gen + bitAt x.hdmdb 2 + bitAt x.fail 3 + bitAt (i == 0 && d.decRefused) 4)
      | .pooldec i =>
        let e := tabGet default d.decs (i / 2)
        if i % 2 == 0 then BitVec.ofNat 64 (bitAt e.en 0 + 4096 * e.base) else BitVec.ofNat 64 (e.size + 2 ^ 36 * e.ports)
      | .keyst => BitVec.ofNat 64 (bitAt p.sec.keyBusy.isSome 0)
      | .pwrlim => BitVec.ofNat 64 p.power.limit
      | .pwrnow => BitVec.ofNat 64 p.power.now
      | .keydata _ | .keyctl | .rtload | .fwload | .attest | .fsclr | .other | .startst | .hostlink | .privres | .rtst => 0#64

/-- A register with no behaviour of its own takes its fields (R152, R308, R471, R479, R482, R488); a register that is
only read, and an offset that names none, ignore the write (R7, R477). -/
def writeField (s : State) (r : Reg) (v : BitVec 64) : State :=
  let d := s.dev
  match r with
  | .hostlink =>
    { s with dev := { d with host := { d.host with recov := d.host.recov && !v.getLsbD 11 } } }
  | r =>
    if d.plat.startup.minimal then s
    else match r with
      | .queue q 1 =>
        { s with dev := updQueue d q (fun x => { x with
            en := v.getLsbD 0, prio := (v.extractLsb' 1 3).toNat, ctag := (v.extractLsb' 4 12).toNat }) }
      | .queue q 4 => { s with dev := updQueue d q (fun x => { x with err := x.err &&& ~~~ (v &&& 0xF#64) }) }
      | .slot n 1 => { s with dev := updCtx d n (fun c => { c with root := v &&& 0x000FFFFFFFFFF000#64 }) }
      | .slot n 7 => { s with dev := updCtx d n (fun c => { c with inva := v }) }
      | .slot n 9 => { s with dev := updCtx d n (fun c => { c with prej := v }) }
      | .pc 0 =>
        { s with dev := { d with pc := { d.pc with
            nocmp := v.getLsbD 0, promo := (v.extractLsb' 8 8).toNat, decay := (v.extractLsb' 16 5).toNat } } }
      | .pcDie die 2 =>
        { s with dev := { d with pc := updPcDie d.pc die (fun x => { x with wbraw := x.wbraw && !v.getLsbD 3 }) } }
      | .portst p =>
        let x := tabGet default d.ports p
        { s with dev := { d with ports := tabSet default d.ports p { x with fail := x.fail && !v.getLsbD 3 } } }
      | .keydata i =>
        let x := d.plat.sec
        { s with dev := { d with plat := { d.plat with sec := { x with keydata := tabSet 0#64 x.keydata i v } } } }
      | .queue _ _ | .slot _ _ | .pc _ | .pcDie _ _ | .pooldec _ | .startst | .hostlink | .fsclr | .privres | .rtload | .rtst
      | .fwload | .attest | .keyctl | .keyst | .pwrlim | .pwrnow | .other => s

/-- REGISTER_WRITE: a write at an offset of the window; a register whose writing is an event of its own has that event
(R477). -/
def execRegisterWrite (addr : Nat) (v : BitVec 64) (s : State) : Out :=
  match regAt addr with
  | .fsclr => execFsclr v s
  | .queue q 0 => execQlaunch q v s
  | .slot n 0 => execCxctl n v s
  | .slot n 3 => execCxfq n v s
  | .slot n 4 => execCxfqhead n v s
  | .slot n 6 => execCxfresp n v s
  | .slot n 8 => execCxinvc n v s
  | .slot n 10 => execCxpre n v s
  | .slot n 11 => execCxcwn n v s
  | .slot n 12 => execCxcwdWrite n v s
  | .pc 2 => execPcclr v s
  | .pcDie die 1 => execPcmark die v s
  | .pooldec i => execPooldec i v s
  | .rtload => execRtload v s
  | .fwload => execFwload v s
  | .attest => execAttest v s
  | .keyctl => execKeyctl v s
  | .pwrlim => execPwrlim v s
  | r => event s (fun s => writeField s r v)

end Sys2Proof.Machine
end

