-- ==== Sys2Proof/Machine/Preempt.lean ====
section
/-! DEFINITION. The clock's events for fragments (R197, R243, R267), and pre-emption: the deadline, the save and the
restore of a crew (R36 to R38, R171 to R173, R192, R193, R202 to R204, R364, R381). -/

namespace Sys2Proof.Machine

/-! ### Fragments and the clock -/

/-- A fragment changed where a condition on it holds. -/
def fragWhen (s : State) (f : FragRef) (p : Frag → Bool) (k : Frag → Frag) : State :=
  { s with dev := updFrag s.dev f (fun x => if p x then k x else x) }

/-- FRAGMENT_AGED (R197). -/
def execFragmentAged (f : FragRef) (s : State) : Out :=
  event s (fun s => fragWhen s f (agedNow s.clk) (fun x => { x with aged := true }))

/-- CTL.SLEEP's count has run out (R243). -/
def sleepOver (clk : Nat) (x : Frag) : Bool :=
  match x.status with
  | .blocked (.sleep t) => decide (t ≤ clk)
  | .blocked (.barrier _ _) | .blocked (.barrierT _ _ _) | .blocked (.patch _ _ _ _ _ _) | .blocked (.batch _)
  | .blocked .seal | .blocked (.tlbinv _) | .blocked .launch | .blocked .depwait | .blocked .exits
  | .blocked (.yieldonBar _ _) | .blocked (.yieldonFlg _) | .blocked .earlier | .ready | .stalled | .waiting | .yielded | .fetchWait
  | .yieldedJob | .joining => false

/-- SLEEP_EXPIRE (R243). -/
def execSleepExpire (f : FragRef) (s : State) : Out :=
  event s (fun s => fragWhen s f (sleepOver s.clk) (fun x => { x with status := .ready, resume := .released, age := s.clk }))

/-- BAR.WAITT's limit has passed (R267). -/
def waittOver (clk : Nat) (x : Frag) : Bool :=
  match x.status with
  | .blocked (.barrierT _ _ t) => decide (t ≤ clk)
  | .blocked (.barrier _ _) | .blocked (.sleep _) | .blocked (.patch _ _ _ _ _ _) | .blocked (.batch _)
  | .blocked .seal | .blocked (.tlbinv _) | .blocked .launch | .blocked .depwait | .blocked .exits
  | .blocked (.yieldonBar _ _) | .blocked (.yieldonFlg _) | .blocked .earlier | .ready | .stalled | .waiting | .yielded | .fetchWait
  | .yieldedJob | .joining => false

/-- WAITT_TIMEOUT (R267). -/
def execWaittTimeout (f : FragRef) (s : State) : Out :=
  event s (fun s => fragWhen s f (waittOver s.clk) (fun x => { x with status := .ready, resume := .timedOut, age := s.clk }))

/-! ### The deadline (R168, R171) -/

/-- The count of a pending request has run out. -/
def preqOver (clk : Nat) (c : Crew) : Bool :=
  c.state == .requested && !c.forced && (match c.preq with
    | some t => decide (t ≤ clk)
    | none => false)

/-- PREQ_EXPIRE: the device forces the save (R171). -/
def execPreqExpire (c : Nat) (s : State) : Out :=
  event s (fun s => { s with dev := updCrew s.dev c (fun x => if preqOver s.clk x then { x with forced := true } else x) })

/-! ### Saving (R171, R193, R381) -/

/-- The fragment counts as yielded (R191), unless it waits on a flag that an operation stopped without a record holds
(R37). -/
def countsYielded (c : Crew) (w : Wave) (f : Frag) : Bool :=
  match f.status with
  | .yielded => f.parcel != 63 || !waitsUnrecorded c w.idx f.hdr
  | .fetchWait | .yieldedJob | .blocked _ | .joining => true
  | .ready | .stalled | .waiting => false

/-- R33: the instruction waits at issue for its flag's counter to fall. -/
def stalledByFlag (w : Wave) (f : Frag) : Bool :=
  f.status == .stalled && flagOf w (flagHere f) == 63 &&
  ((bodyItems 0 f.body).getD []).any (fun x => x.parcel == f.parcel && x.longLatency)

/-- An access that cannot take its place before the save: it has stopped, or waits for a line (R36, R264). -/
def stuckAccess (o : Op) : Bool :=
  o.status != .inflight || (memOf o).any (fun m => m.bits.isSome && !m.taken)

/-- The instruction waits at issue behind an access of its lanes that cannot take its place before the save
(R141; assumption 64). -/
def stalledBehind (c : Crew) (w : Wave) (f : Frag) : Bool :=
  f.status == .stalled && c.ops.any (fun o => o.wave == w.idx && (pendingLanes o &&& f.lanes) != 0#96 && stuckAccess o)

/-- The instruction waits at issue for a forcing or materialisation made for it, which the save parks (R407, R410). -/
def stalledForcing (c : Crew) (w : Wave) (f : Frag) : Bool :=
  f.status == .stalled && c.ops.any (fun o => o.wave == w.idx && o.frag == f.id && o.status == .inflight &&
    (demandOf o).any (fun t => t.kind == .own))

/-- R171: a forced save stops the fragment where it stands: at a clause boundary, at an instruction stalled by R33, in a
FENCE.ASYNC (R271), at one that waits behind an access the save stops, or at one that waits for its own forcing.  One that an
ERET or a restore has put inside a clause, and that has not fetched it again, stops there as well (DEDUCED; assumption 81). -/
def stoppedForced (c : Crew) (w : Wave) (f : Frag) : Bool :=
  countsYielded c w f || f.parcel == 63 || !f.latched || f.status == .waiting || stalledByFlag w f || stalledBehind c w f ||
  stalledForcing c w f

/-- Every fragment of the crew satisfies p. -/
def allFrags (c : Crew) (p : Crew → Wave → Frag → Bool) : Bool := c.waves.all (fun w => w.frags.all (p c w))

/-- The crew has a fragment that has not exited. -/
def anyFrag (c : Crew) : Bool := c.waves.any (fun w => !w.frags.isEmpty)

/-- R193: the fragment waits on a flag that an operation with missing pages holds. -/
def waitsParked (d : Dev) (c : Crew) (w : Wave) (f : Frag) : Bool :=
  c.ops.any (fun o => o.wave == w.idx && missingCount d (.op c.uid o.id) != 0 && (match o.flag with
    | some k => (f.status == .yielded && inWait f.hdr k) || (match f.status with
      | .blocked (.yieldonFlg m) => m.testBit k
      | .blocked _ | .ready | .stalled | .waiting | .yielded | .fetchWait | .yieldedJob | .joining => false)
    | none => false))

/-- R193: the crew is page-bound. -/
def pageBound (d : Dev) (c : Crew) : Bool :=
  allFrags c countsYielded && c.waves.any (fun w => w.frags.any (waitsParked d c w))

/-- A crew that is ready to be placed on the core does not fit (R193). -/
def coreWanted (d : Dev) (core : Nat) : Bool := (candsOn d core).any (fun k => !fitsCore d core (candNeeds d k) [])

/-- R171, R178, R193: the crew may be saved as far as its fragments go; one with no fragment left retires. -/
def saveDue (d : Dev) (c : Crew) : Bool :=
  (c.state == .requested && anyFrag c && (allFrags c countsYielded || (c.forced && allFrags c stoppedForced))) ||
  (c.state != .saved && pageBound d c && coreWanted d c.core)

/-- The pieces of an access that are still to take their place all wait behind earlier accesses of their lanes. -/
def allHeld (ops : List Op) (o : Op) (m : MemOp) : Bool :=
  let held := heldLanes ops o
  m.pieces.all (fun p => !pieceOpen p ||
    (!p.inHub && (if m.scalar then (held &&& o.order) != 0#96 else held.getLsbD p.lane)))

/-- What a save does with an operation. -/
inductive SaveOp where
  | keep      -- it stays as it stands
  | park      -- it parks with cause 0x12
  | record    -- it has stopped, and its record is written now: it had none (R37), or it changes (R382)
  | wait      -- the save waits for it
  deriving DecidableEq, Repr

/-- R382: a load of a weight slot that is parked on a missing page carries cause 0x12 in the image of a forced save. -/
def recauses (forced : Bool) (o : Op) : Bool := forced && (wbufSlot o).isSome && o.status == .parked 0x01

/-- An access with lanes that are neither done nor parked. -/
def looseLanes (o : Op) : Bool := (memOf o).any (fun m => m.pieces.any (fun p => pieceOpen p && !p.parked))

/-- R37, R142, R143, R171, R315, R381, R382, R432: what becomes of an operation at a save. -/
def saveKind (forced : Bool) (ops : List Op) (o : Op) : SaveOp :=
  match o.status with
  | .parked _ | .late _ | .trapped _ _ =>
    if o.recOff.isNone || recauses forced o || looseLanes o then .record else .keep
  | .inflight =>
    match o.body with
    | .mem m =>
      if m.pieces.any (fun p => p.inHub) then .wait
      else if allHeld ops o m && m.kind == .store then .keep
      else .park
    | .mmao _ | .mmat _ => .keep
    | .tsreg _ => .wait
    -- the elements of a boundary are written once, in the step that completes (R432)
    | .chain h => if h.out.isSome then .wait else .park
    | .copy _ | .demand _ | .smp _ | .trace _ => .park

/-- R253: an access all of whose lanes that are not done are parked. -/
def parkLanes (o : Op) : Op :=
  match o.body with
  | .mem m => { o with body := .mem { m with pieces := m.pieces.map (fun p => if pieceOpen p then { p with parked := true } else p) } }
  | .chain _ | .copy _ | .mmao _ | .mmat _ | .tsreg _ | .demand _ | .smp _ | .trace _ => o

/-- R317, R341: the operation waits for a translation that is requested again after an invalidation race
(assumption 54). -/
def refetching (d : Dev) (c : Crew) (o : Op) : Bool :=
  let again := d.atsReqs.filter (fun r => r.slot == c.ctx && (r.stale || r.again))
  let on := fun (a n : Nat) => again.any (fun r => rangesMeet a n (r.page * 4096) 4096)
  match o.body with
  | .mem m => m.pieces.any (fun p => pieceOpen p && p.pa.isNone && on (vaBits p.va) p.size)
  | .copy _ | .mmao _ | .mmat _ | .tsreg _ | .chain _ | .demand _ | .smp _ | .trace _ =>
    o.awaits.any (fun a => on (vaBits a) 4096)

/-- The crew with one operation prepared for the save; none where the save must wait. -/
def saveOp (d : Dev) (c0 : Crew) (o : Op) : Option Crew → Option Crew
  | none => none
  | some c =>
    match saveKind c0.forced c0.ops o with
    | .keep => some c
    | .wait => none
    | .park =>
      let c1 := stopOp c (parkLanes o) (if refetching d c0 o then 0x11 else 0x12) false 0 0
      match findOp c1 o.id with
      | some p => if p.recOff.isSome then some c1 else none
      | none => none
    | .record =>
      let (cause, late) := match o.status with
        | .parked k => (if recauses c0.forced o then 0x12 else k, false)
        | .late k => (k, true)
        | .trapped _ k => (k, true)
        | .inflight => (0, false)
      let (c1, p) := recordOp c (parkLanes o) cause late (missingCount d (.op c0.uid o.id))
      if p.recOff.isSome then some (setOp c1 p) else none

/-- R171, R172, R202, R203: the crew as saved: its operations parked, its operand cache empty. -/
def savedCrew (d : Dev) (c0 : Crew) : Option Crew :=
  -- a reload that is under way is issued again by the next restore (R364)
  let c := { c0 with ops := c0.ops.filter (fun o => !isReload o) }
  (c.ops.foldl (fun x o => saveOp d c o x) (some c)).map (fun c =>
    { c with state := .saved, forced := false, preq := none, preqFor := none, opc := [], since := none, hold := false })

/-- CREW_SAVE (R171, R172, R193). -/
def execCrewSave (c : Nat) (s : State) : Out :=
  event s (fun s => match findCrew s.dev c with
    | none => s
    | some x =>
      if !saveDue s.dev x then s
      else match savedCrew s.dev x with
        | some y => { s with dev := { updCrew s.dev c (fun _ => y) with slotInvals := saveInvals x s.dev.slotInvals } }
        | none => s)

/-! ### Restoring (R38, R172, R192, R204, R364) -/

/-- The slot-list entry of slot f: the word of its LOAD, and the block's words (R364). -/
def listEntry (c : Crew) (f : Nat) : Word × List Word :=
  let w := fun i => BitVec.ofNat 32 (parkNat c (0x1000 + 32 * f + 4 * i) 4)
  (w 0, (List.range 7).map (fun i => w (i + 1)) ++ [0#32])

/-- R339, R364: the slot a list entry loads; an entry that is no WBUF.LOAD is an illegal instruction. -/
def entrySlot (w : Word) : Option Nat :=
  match decode [w.extractLsb' 0 16, w.extractLsb' 16 16] with
  | .ok (.wbufLoad f _, _) => some f.toNat
  | _ => none

/-- R364: the LOAD a list entry stands for, in flight. -/
def reloadOp (d : Dev) (n : Nat) (c : Crew) (f : Nat) (b : List Word) : Op :=
  { (default : Op) with
    id := c.nextOp, status := .inflight, born := n, turn := n, memMark := d.histSeq, scMark := c.shistSeq,
    body := .copy { (default : CopyOp) with kind := .wbuf false f, block := b } }

/-- R364: the slot list's loads issued, in the order of its entries; one that fails its checks contains the crew. -/
def reloadSlots (d : Dev) (n : Nat) (c : Crew) : Crew :=
  (List.range 16).foldl (fun c f =>
    let (w, b) := listEntry c f
    if w == 0#32 && b.all (fun x => x == 0#32) then c
    else match entrySlot w with
      | none => { c with contained := some (c.contained.getD 0x08) }
      | some k => match WLoad.cause b c.scratchSize with
        | some cause => { c with contained := some (c.contained.getD cause) }
        | none => { c with ops := c.ops ++ [reloadOp d n c k b], nextOp := c.nextOp + 1 }) c

/-- R362, R364, R381: an operation of a restored crew that was in flight when it was saved: a product that had not begun to
fetch, or a held store.  It fetches what stands then, and its turn at the slots comes after the slot list's reloads. -/
def heldAgain (d : Dev) (c : Crew) (n : Nat) (o : Op) : Op :=
  if (mmaoOf o).isSome || (mmatOf o).isSome || (wbufSlot o).isSome then
    { o with turn := n, memMark := d.histSeq, scMark := c.shistSeq }
  else o

/-- The operation parked and resumes at once when its crew is restored (R38). -/
def opParked (o : Op) : Bool := match o.status with
  | .parked _ => true
  | .inflight | .late _ | .trapped _ _ => false

/-- R38, R381: the operations of a restored crew go on. -/
def restoreOps (d : Dev) (n : Nat) (c : Crew) : Crew :=
  let c1 := { c with ops := c.ops.map (heldAgain d c n) }
  (c1.ops.filter opParked).foldl (resumeIn d n) c1

/-- The waves of a crew in the free slots of a core, lowest first. -/
def slotWaves (slots : List Nat) (ws : List Wave) : List Wave := ws.mapIdx (fun i w => { w with slot := slots.getD i i })

/-- R192, R243: a restored fragment: one that yielded by JOB.YIELD goes on at the next clause, and a sleep is over. -/
def wakeRestored (clk : Nat) (w : Wave) : Wave :=
  let v := wakeYielded clk w
  { v with frags := v.frags.map (fun f => match f.status with
      | .blocked (.sleep _) => { f with status := .ready, resume := .released, age := clk }
      | .ready | .stalled | .waiting | .yielded | .fetchWait | .yieldedJob | .blocked _ | .joining => f) }

/-- R172, R192, R204: the crew as it runs again on a core. -/
def resumedCrew (d : Dev) (clk n core : Nat) (c : Crew) : Crew :=
  reloadSlots d n (restoreOps d n { c with
    state := .running, core := core, since := none, hold := false, opc := []
    waves := slotWaves (freeSlots d core) (c.waves.map (wakeRestored clk)) })

/-- R154, R172, R204: the saved crew may run again on that core of its die. -/
def mayResume (d : Dev) (c : Crew) (core : Nat) : Bool :=
  let c1 := { c with core := core }
  let d1 := updCrew d c.uid (fun _ => c1)
  c.state == .saved && dieOf core == dieOf c.core && pagesPresent d c && mayPlace d1 core (.saved c1)

/-- R172: a saved crew that would run again and finds no room on its core may have requests raised for it. -/
def askRoom (s : State) (c : Crew) : State :=
  if s.dev.crews.any (fun x => x.preqFor == some c.uid) || !pagesPresent s.dev c ||
      fitsCore s.dev c.core (crewNeeds c) [] then s
  else
    let vs := victims s.dev c.core c.prio (crewNeeds c)
    { s with dev := { s.dev with crews := s.dev.crews.map (fun x =>
        if vs.contains x.uid then requestCrew s.clk (some c.uid) x else x) } }

/-- CREW_RESUME: a saved crew is restored on a core of its die (R154, R172, R204). -/
def execCrewResume (c cx cy : Nat) (s : State) : Out :=
  let t := stow s
  match findCrew t.dev c with
  | none => .next t
  | some x =>
    if 48 ≤ cx || 32 ≤ cy || x.state != .saved then .next t
    else if !mayResume t.dev x (cx + 48 * cy) then .next (askRoom t x)
    else
      let d := withdrawFor t.dev t.clk c
      .next { t with dev := { updCrew d c (fun _ => resumedCrew t.dev t.clk t.nfree (cx + 48 * cy) x) with
        slotInvals := restoreInvals c (cx + 48 * cy) t.nfree d.slotInvals } }

end Sys2Proof.Machine
end

