-- ==== Sys2Proof/Machine/Sample.lean ====
section
/-! DEFINITION. The sample engine: SMP at issue, texture descriptors, footprints and filters, and the lanes it finishes
or parks (R342 to R354). -/

namespace Sys2Proof.Machine

/-! ### Texture descriptors (R342, R343, R346) -/

/-- A texture. -/
structure Texture where
  base  : Nat
  size  : Nat
  efmt  : Nat
  pitch : Nat
  w     : Nat
  h     : Nat
  modeU : Nat
  modeV : Nat
  deriving DecidableEq, Repr

/-- R342. -/
def Texture.ofBytes (b : List Byte) : Texture :=
  let f := fun o n => natLE ((b.drop o).take n)
  ⟨f 0 8, f 8 8, f 16 1, f 20 4, f 24 2, f 26 2, f 28 1 % 4, f 28 1 / 4 % 4⟩

/-- The bytes of a texel (R343). -/
def Texture.bpp (t : Texture) : Nat := if t.efmt == 2 then 8 else 4

/-- R346: the first check a descriptor fails, the index apart. -/
def textureCause (b : List Byte) : Option Nat :=
  let t := Texture.ofBytes b
  let f := fun o n => natLE ((b.drop o).take n)
  let dim := fun n : Nat => 1 ≤ n && n ≤ 16384
  if f 17 1 != 1 || t.efmt == 0 || 4 ≤ t.efmt || t.modeU == 3 || t.modeV == 3 || f 18 2 != 0 || 16 ≤ f 28 4 ||
      !dim t.w || !dim t.h || t.pitch < t.w * t.bpp || t.size < t.h * t.pitch then some 0x03
  else if t.base % t.bpp != 0 || t.pitch % t.bpp != 0 then some 0x07
  else if !rangeCanonical t.base t.size then some 0x05
  else none

/-- The address of record i of the context's pool (R256). -/
def recordAddr (d : Dev) (slot i : Nat) : Nat :=
  (slotWord d slot 0x500).toNat / 32 * 32 + 2 ^ 32 * (slotWord d slot 0x501).toNat + 32 * i

/-! ### Footprints (R347) -/

/-- floor(x · k) of a finite value; none for NaN and infinities. -/
def floorMul (x : Ext) (k : Nat) : Option Int :=
  match x with
  | .fin neg m e =>
    let z : Int := if neg then -((m * k : Nat) : Int) else ((m * k : Nat) : Int)
    some (if 0 ≤ e then z * (2 ^ e.toNat : Nat) else z.fdiv ((2 ^ (-e).toNat : Nat) : Int))
  | .nan => none
  | .inf _ => none

/-- axis of R347: 0 wrap, 1 clamp, 2 mirror. -/
def texAxis (i : Int) (n mode : Nat) : Nat :=
  if mode == 0 then (i.emod n).toNat
  else if mode == 1 then min i.toNat (n - 1)
  else
    let m := (i.emod (2 * n : Nat)).toNat
    if n ≤ m then 2 * n - 1 - m else m

/-- The texels a lane reads, each with its weight: those of nonzero weight for BIL, one for PT, all four for GATHER4
(R347 to R349); none where a coordinate is not finite. -/
def footprint (t : Texture) (sub : Nat) (u v : Word) : Option (List (Nat × Nat × Nat)) :=
  let x := decodeFmt .f32 u.toNat
  let y := decodeFmt .f32 v.toNat
  if sub == 1 then
    match floorMul x t.w, floorMul y t.h with
    | some i, some j => some [(texAxis i t.w t.modeU, texAxis j t.h t.modeV, 65536)]
    | some _, none => none
    | none, _ => none
  else
    match floorMul x (t.w * 256), floorMul y (t.h * 256) with
    | some p, some q =>
      let tx := p - 128
      let ty := q - 128
      let i0 := tx.fdiv 256
      let j0 := ty.fdiv 256
      let a := (tx - 256 * i0).toNat
      let b := (ty - 256 * j0).toNat
      let x0 := texAxis i0 t.w t.modeU
      let x1 := texAxis (i0 + 1) t.w t.modeU
      let y0 := texAxis j0 t.h t.modeV
      let y1 := texAxis (j0 + 1) t.h t.modeV
      let all := [(x0, y0, (256 - a) * (256 - b)), (x1, y0, a * (256 - b)), (x0, y1, (256 - a) * b), (x1, y1, a * b)]
      some (if sub == 0 then all.filter (fun r => r.2.2 != 0) else all)
    | some _, none => none
    | none, _ => none

/-- The address of a texel. -/
def texelAddr (t : Texture) (x y : Nat) : Nat := t.base + y * t.pitch + x * t.bpp

/-! ### Filters (R343, R348) -/

/-- rnd of R348. -/
def smpRound (x : Ext) : Word := BitVec.ofNat 32 (roundTo .f32 ⟨0, false, false⟩ 0 x).1

/-- n ÷ d rounded as rnd does. -/
def smpRatio (n d : Nat) : Word :=
  if n == 0 then 0#32
  else
    let q := quotSticky 80 n 0 d 0
    smpRound (.fin false q.1 q.2)

/-- Component c of a texel of formats 2 and 3, from its bytes. -/
def texelComp (efmt c : Nat) (b : List Byte) : Ext :=
  if efmt == 2 then decodeFmt .f16 (natLE ((b.drop (2 * c)).take 2))
  else if c == 0 then decodeFmt .f32 (natLE b)
  else if c == 3 then extOfInt 1
  else extZero false

/-- The weighted sum of component c over texels, divided by 65,536 and rounded. -/
def smpBlend (efmt c : Nat) (ts : List (Nat × List Byte)) : Word :=
  if efmt == 1 then smpRatio ((ts.map (fun t => t.1 * (t.2.getD c 0#8).toNat)).sum) (255 * 65536)
  else smpRound (extScale (-16) (extSum false (ts.map (fun t => (extMul (extOfInt t.1) (texelComp efmt c t.2)).1))).1)

/-- One component of one texel rounded. -/
def smpPoint (efmt c : Nat) (b : List Byte) : Word :=
  if efmt == 1 then smpRatio (b.getD c 0#8).toNat 255 else smpRound (texelComp efmt c b)

/-- A lane's four results from the texels it read. -/
def smpResults (efmt sub comp : Nat) (ts : List (Nat × List Byte)) : List Word :=
  if sub == 2 then ts.map (fun t => smpPoint efmt comp t.2)
  else if sub == 1 then (List.range 4).map (fun c => smpPoint efmt c ((ts.map Prod.snd).headD []))
  else (List.range 4).map (fun c => smpBlend efmt c ts)

/-! ### Issue (R344 to R346, R353) -/

/-- R353: the quad's engine has a free queue entry. -/
def smpRoom (s : State) : Bool :=
  let q := quadOf s.crew.core
  ((s.crew :: s.dev.crews).flatMap (fun c => if quadOf c.core == q && c.state != .saved then
    c.ops.filter (fun o => o.status == .inflight && (smpOf o).isSome) else [])).length < 16

/-- A sample in flight as its instruction issues it. -/
def smpOp (s : State) (g sub comp dst index : Nat) (desc : Option (List Byte)) : Op :=
  let coords := (laneList s.frag.exec).map (fun l => (l, readV s dst l, readV s (dst + 1) l))
  { newOp s (some g) s.frag.exec (.smp ⟨sub, comp, index, desc, coords, 0#96, [], dst⟩) with
    dstV := (List.range 4).map (dst + ·) }

/-- The touch that reads a descriptor. -/
def descTouch (d : Dev) (slot i : Nat) : Touch := ⟨recordAddr d slot i, 32, false⟩

/-- A sample issued, with what its fragment has asked for its descriptor. -/
def issueSmpOp (s : State) (o : Op) : State :=
  let s1 := issueOp s o
  { s1 with dev := adoptLink s1.dev (.frag (selfRef s)) (.op s.crew.uid o.id) }

/-- SMP at issue: its descriptor read and checked; where the read meets a stop, the instruction issues with no lane begun,
and parks or takes its trap as its engine finds it (R346).  It waits at issue for a Translation Completion, unless a forced save
meets that wait (R315). -/
def issueSmp (s : State) (g sub comp dst : Nat) (b : BitVec 8) : State :=
  if s.frag.exec == 0#96 then advance s
  else
    let i := (readSrc s b 0).toNat
    if (ctxWord s 0x502).toNat ≤ i then takeTrap s 0x03 false
    else if !smpRoom s then stall s
    else afterAccesses s (fun s =>
      let io := ioOpen s.dev (fragAsker s) s.crew.ctx s.nfree s.dev.histSeq s.frag.oneShot [descTouch s.dev s.crew.ctx i]
      let s1 := { s with dev := io.dev }
      if io.poison || io.trap.isSome || !io.miss.isEmpty || (io.wait && s.crew.forced) then issueSmpOp s1 (smpOp s1 g sub comp dst i none)
      else if io.wait then stall s1
      else
        let desc := io.read (recordAddr io.dev s.crew.ctx i) 32
        match textureCause desc with
        | some k => takeTrap (forgetAsks s1) k false
        | none => issueSmpOp s1 (smpOp s1 g sub comp dst i (some desc)))

/-- SMP.BIL. -/
def execSmpBil (a b : BitVec 8) (s : State) : Out :=
  longLatency (.smpBil a b) .traversal s (fun s g => issueSmp s g 0 0 a.toNat b)

/-- SMP.PT. -/
def execSmpPt (a b : BitVec 8) (s : State) : Out :=
  longLatency (.smpPt a b) .traversal s (fun s g => issueSmp s g 1 0 a.toNat b)

/-- SMP.GATHER4. -/
def execSmpGather4 (c : BitVec 2) (a b : BitVec 8) (s : State) : Out :=
  longLatency (.smpGather4 c a b) .traversal s (fun s g => issueSmp s g 2 c.toNat a.toNat b)

/-! ### Lanes finished and parked (R349, R350, R352) -/

/-- A lane read: what it touched, its four results, or the stop it met. -/
structure LaneRead where
  lane : Nat
  ts   : List Touch
  res  : List Word
  io   : Io

/-- One lane's texels read, none behind the first that cannot be; each read is one of its own, whichever texel it is of (R349,
R350). -/
def readLane (s : State) (d : Dev) (c : Crew) (o : Op) (t : SmpOp) (x : Texture) (p : Nat × Word × Word) : LaneRead :=
  match footprint x t.sub p.2.1 p.2.2 with
  | none => ⟨p.1, [], [0#32, 0#32, 0#32, 0#32], Io.start d s.nfree o.memMark⟩
  | some ts =>
    let touches := ts.map (fun q => (⟨texelAddr x q.1 q.2.1, x.bpp, false⟩ : Touch))
    let io := ioUntil d (opAsker c o) c.ctx s.nfree (laneMark o p.1) (unitSkips o touches) touches
    let data := ts.mapIdx (fun k q => (q.2.2, ({ io with n := s.nfree + 2 ^ 100 * (k + 1) }).read (texelAddr x q.1 q.2.1) x.bpp))
    ⟨p.1, touches, smpResults x.efmt t.sub t.comp data, io⟩

/-- The lanes read one after another, each with the translations made before it. -/
def readLanes (s : State) (c : Crew) (o : Op) (t : SmpOp) (x : Texture) :
    Dev → List (Nat × Word × Word) → Dev × List LaneRead
  | d, [] => (d, [])
  | d, p :: ps =>
    let r := readLane s d c o t x p
    let q := readLanes s c o t x r.io.dev ps
    (q.1, r :: q.2)

/-- The lane met a stop, other than the wait for a Translation Completion. -/
def laneStops (r : LaneRead) : Bool := !r.io.miss.isEmpty || r.io.trap.isSome || r.io.poison

/-- Results written as their lanes finish. -/
def writeFinished (s : State) (c : Crew) (o : Op) (t : SmpOp) (rs : List LaneRead) : Crew × Op × SmpOp :=
  let vs := rs.flatMap (fun r => r.res.mapIdx (fun k x => (96 * (t.dst + k) + r.lane, x)))
  let t1 := { t with done := rs.foldl (fun a r => a ||| (1#96 <<< r.lane)) t.done, miss := [] }
  (putResults s.dev c o s.nfree vs [], { passUnit o (rs.flatMap LaneRead.ts) with body := .smp t1 }, t1)

/-- R321, R350: the stop of the instruction by those its lanes met, poison met by one of them coming first or not: the
missing pages of all where there are any, else the trap of one of them. -/
def laneStop (s : State) (d : Dev) (o : Op) (rs : List LaneRead) : Io :=
  let io := Io.start d s.nfree o.memMark
  let traps := rs.filter (fun r => r.io.trap.isSome)
  let miss := rs.flatMap (fun r => r.io.miss)
  { io with
    poison := rs.any (fun r => r.io.poison) &&
      (Config.freeBit s.nfree 1 || rs.all (fun r => !laneStops r || r.io.poison))
    miss := miss, missAt := (rs.filterMap (fun r => r.io.missAt)).head?
    trap := if miss.isEmpty then (traps[Config.freeNat s.nfree 1 % max 1 traps.length]?).bind (fun r => r.io.trap) else none }

/-- The lanes of a sample that are still to be written are read; `park` says which of the two ends this step is. -/
def smpRun (s : State) (c : Crew) (o : Op) (t : SmpOp) (park : Bool) : State :=
  match t.desc with
  | none =>
    let ts := [descTouch s.dev c.ctx t.index]
    let io := ioOpen s.dev (opAsker c o) c.ctx s.nfree o.memMark (unitSkips o ts) ts
    if !io.good then (if park then ioStop s c { o with body := .smp { t with miss := io.missed } } io else s)
    else
      let desc := io.read (recordAddr io.dev c.ctx t.index) 32
      match if (slotWord io.dev c.ctx 0x502).toNat ≤ t.index then some 0x03 else textureCause desc with
      | some k =>
        if park then ioStop s c o { io with trap := some (k, recordAddr io.dev c.ctx t.index) } else s
      | none => putCrew s io.dev (setOp c { passUnit o ts with body := .smp { t with desc := some desc } })
  | some desc =>
    let x := Texture.ofBytes desc
    let (d, rs) := readLanes s c o t x s.dev (t.coords.filter (fun p => !t.done.getLsbD p.1))
    if park then
      if !rs.any laneStops then s
      else
        let ok := rs.filter (fun r => r.io.good && Config.freeBit s.nfree (400000 + r.lane))
        let (c1, o1, t1) := writeFinished s c o t ok
        let io := laneStop s d o rs
        ioStop s c1 { o1 with body := .smp { t1 with miss := io.missed } } io
    else
      let good := rs.filter (fun r => r.io.good)
      let (c1, o1, t1) := writeFinished s c o t (someOf s.nfree (2 ^ 72) good)
      if smpPend t1 == 0#96 then putCrew s d (completeOp d c1 o1 s.nfree [] [])
      else putCrew s d (setOp c1 { o1 with awaits := rs.flatMap (fun r => r.io.awaits) })

/-- SMP_COMPLETE: the lanes are written; with the last of them the flag falls (R30, R350). -/
def execSmpComplete (c o : Nat) (s : State) : Out :=
  event s (fun s => stepping s c o (fun x p => match smpOf p with
    | some t => smpRun s x p t false
    | none => s))

/-- SMP_PARK: a lane met a stop; it and the others not finished park (R36, R350). -/
def execSmpPark (c o : Nat) (s : State) : Out :=
  event s (fun s => stepping s c o (fun x p => match smpOf p with
    | some t => smpRun s x p t true
    | none => s))

end Sys2Proof.Machine
end

