-- ==== Sys2Proof/Machine/Sys.lean ====
section
/-! DEFINITION. The SYS instructions (R336 to R339): software traps, the return from trap mode, control words, the park
area, watchpoints, invalidations and HALT. -/

namespace Sys2Proof.Machine

/-- R72: the rest of SYS executes only in trap mode; outside it nothing of the instruction happens, CLK.L's latching among
it. -/
def inTrapMode (s : State) (o : Out) : Out := if s.frag.trapMode then o else .next (takeTrap s 0x08 false)

/-- SYS.TRAP: trap mode with cause 0x13 and the operand in ETRAPV; a double fault inside it (R337). -/
def execSysTrap (a : BitVec 8) (s : State) : Out :=
  checked (.sysTrap a) .control s (fun s =>
    if s.frag.trapMode then takeTrap s 0x13 true
    else
      let x := readSrc s a 0
      takeTrap { s with frag := { s.frag with etrapv := x } } 0x13 true)

/-! ### ERET (R201, R321, R341) -/

/-- The operation's trap was delivered to this fragment of this wave. -/
def trappedBy (w frag : Nat) (o : Op) : Bool :=
  match o.status with
  | .trapped f _ => o.wave == w && f == frag
  | .inflight | .parked _ | .late _ => false

/-- The record at a park-area offset belongs to an operation of the crew. -/
def recordOwned (c : Crew) (p : Nat) : Bool :=
  c.ops.any (fun o => o.recOff == some p || (copyOf o).bind CopyOp.xoff == some p)

/-- The record of a trap, which no operation owns, freed at the return (R341). -/
def freeTrapRecord (c : Crew) (erecoff : Word) : Crew :=
  let p := erecoff.toNat
  if erecoff == 0xFFFFFFFF#32 || recordOwned c p || (indexOf c p).isNone then c else freeRecord c p

/-- The wave in focus stands in the crew's list while operations of the crew are settled. -/
def withWave (w : Wave) (c : Crew) (k : Crew → Crew) : Crew × Wave :=
  let c1 := k { c with waves := insertWave w c.waves }
  ({ c1 with waves := c1.waves.filter (fun x => x.idx != w.idx) }, (findWave c1 w.idx).getD w)

/-- The crew after ERET of a fragment: its trap's record freed, the operation whose trap it took resumed (R321). -/
def eretCrew (d : Dev) (n : Nat) (w : Wave) (f : Frag) (c : Crew) : Crew × Wave :=
  let c1 := freeTrapRecord c f.erecoff
  let mine := c1.ops.filter (trappedBy w.idx f.id)
  if mine.any (fun o => o.tampered) then withWave w c1 (fun c => mine.foldl (resumeIn d n) c)
  else ({ c1 with ops := c1.ops.map (fun o => if trappedBy w.idx f.id o then resumeOp d c1 o else o) }, w)

/-- SYS.ERET (R201, R334). -/
def execSysEret (s : State) : Out :=
  inTrapMode s (checked .sysEret .control s (fun s =>
    if (targetTrap s.frag.epc).isSome then trapReturn s
    else
      let t := trapReturn s
      let (c, w) := eretCrew t.dev t.nfree t.wave s.frag t.crew
      { t with crew := c, wave := w, frag := { t.frag with erecoff := 0xFFFFFFFF#32 } }))

/-! ### Control words (R338) -/

/-- SYS.CTLRD (R72, R338). -/
def execSysCtlrd (a b : BitVec 8) (s : State) : Out :=
  checked (.sysCtlrd a b) .control s (fun t =>
    let n := (readSrc t b 0).toNat
    if !t.frag.trapMode && !isUserWord n then takeTrap s 0x08 false
    else match ctlRead t n with
      | none => takeTrap s 0x08 false
      | some x => advance (writeS t (a.toNat - 0x80) x))

/-- SYS.CTLWR (R338); a window word waits until the combinations under way are delivered (R260). -/
def execSysCtlwr (a b : BitVec 8) (s : State) : Out :=
  inTrapMode s (checked (.sysCtlwr a b) .control s (fun s =>
    let n := (readSrc s b 0).toNat
    match ctlWrite s n (readSrc s a 0) with
    | none => takeTrap s 0x08 false
    | some t => if hubsHeld s.dev s.crew.ctx n then stall s else advance t))

/-! ### The park area (R339) -/

/-- R339: an offset PARKRD and PARKWR refuse. -/
def parkOffset (s : State) (o : Nat) (k : State → State) : State :=
  if o % 4 != 0 then takeTrap s 0x07 false
  else if s.crew.parkSize ≤ o then takeTrap s 0x06 false
  else k s

/-- SYS.PARKRD (R339). -/
def execSysParkrd (a b : BitVec 8) (s : State) : Out :=
  inTrapMode s (checked (.sysParkrd a b) .control s (fun s =>
    let o := (readSrc s b 0).toNat
    parkOffset s o (fun s => advance (writeS s (a.toNat - 0x80) (BitVec.ofNat 32 (parkNat s.crew o 4))))))

/-- The place taken in the park area that holds an offset. -/
def allocAt (c : Crew) (o : Nat) : Option Nat :=
  (c.allocs.find? (fun a => a.1 ≤ o && decide (o < a.1 + a.2))).map Prod.fst

/-- The record whose bytes, or whose index entry, hold a park-area offset. -/
def recordAt (c : Crew) (o : Nat) : Option Nat :=
  if o < 0x1000 then
    let p := parkNat c (o / 8 * 8) 4
    if p == 0 then none else some p
  else allocAt c o

/-- The lanes a handler marks done by setting bits of word k of DONE. -/
def markedLanes (k : Nat) (bits : Word) : Lanes := bits.setWidth 96 <<< (32 * k)

/-- R339: the resumption skips the marked lanes; a scalar access is skipped when all its lanes are marked. -/
def skipLanes (o : Op) (m : MemOp) (ls : Lanes) : MemOp :=
  if m.scalar then
    if (ls &&& o.lanes) == o.lanes then { m with pieces := m.pieces.map (fun p => { p with skip := true }) } else m
  else { m with pieces := m.pieces.map (fun p => if ls.getLsbD p.lane && pieceOpen p then { p with skip := true } else p) }

/-- R253, R339: the write sets bits, and only sets bits, of DONE in the record at p of a lane access parked with
FLAGS.LATE 0. -/
def doneWrite (c : Crew) (o : Op) (p off : Nat) (x : Word) : Bool :=
  (memOf o).isSome && (match o.status with
    | .parked _ => true
    | .inflight | .late _ | .trapped _ _ => false) &&
  o.recOff == some p && p + 64 ≤ off && off < p + 76 &&
  BitVec.ofNat 32 (parkNat c off 4) &&& ~~~ x == 0#32

/-- An operation whose record at p a handler wrote. -/
def handlerWrote (c : Crew) (p off : Nat) (x : Word) (o : Op) : Op :=
  if o.recOff == some p || (copyOf o).bind CopyOp.xoff == some p then
    if doneWrite c o p off x then
      -- the whole DONE field as the write leaves it
      let done := (BitVec.ofNat 96 (parkNat c (p + 64) 12) : Lanes) ||| markedLanes ((off - (p + 64)) / 4) x
      match memOf o with
      | some m => { o with body := .mem (skipLanes o m done) }
      | none => o
    else { o with tampered := true }
  else o

/-- R3, R339: the crew after a write into the record at p: an operation that owns it is marked; a record that no operation
owns, or a spilled split-table entry, leaves a fragment's outcome undefined, which stays its crew's own: the fragment goes
on, or the crew is contained; which is left free (assumption 63). -/
def parkWrote (n : Nat) (c : Crew) (p off : Nat) (x : Word) : Crew :=
  if recordOwned c p then { c with ops := c.ops.map (handlerWrote c p off x) }
  else if Config.freeBit n (2 ^ 67 + off) then { c with contained := some (freeCause n off) }
  else c

/-- SYS.PARKWR (R339). -/
def execSysParkwr (a b : BitVec 8) (s : State) : Out :=
  inTrapMode s (checked (.sysParkwr a b) .control s (fun s =>
    let x := readSrc s a 0
    let off := (readS s (b.toNat - 0x80)).toNat
    parkOffset s off (fun s =>
      let c := match recordAt s.crew off with
        | some p => parkWrote s.nfree s.crew p off x
        | none => s.crew
      advance { s with crew := parkPut c off (bytesLE 4 x.toNat) })))

/-! ### WATCH, TLBINV, HALT (R339) -/

/-- SYS.WATCH: watchpoint i set from a quad (R339). -/
def execSysWatch (i : BitVec 2) (a : BitVec 8) (s : State) : Out :=
  inTrapMode s (checked (.sysWatch i a) .control s (fun s =>
    let r := a.toNat - 0x80
    let lo := readS s r
    let hi := readS s (r + 1)
    let size := readS s (r + 2)
    let mode := readS s (r + 3)
    if watchSound (lo.toNat + 2 ^ 32 * hi.toNat) size.toNat mode.toNat then
      let n := 0x610 + 4 * i.toNat
      let put := fun d k x => putCtxWord d s.nfree s.crew.ctx (n + k) x
      advance { s with dev := put (put (put (put s.dev 0 lo) 1 hi) 2 size) 3 mode }
    else takeTrap s 0x08 false))

/-- SYS.TLBINV: a full invalidation of a range of the crew's context; the fragment is Blocked until it completes
(R339). -/
def execSysTlbinv (a : BitVec 8) (s : State) : Out :=
  inTrapMode s (checked (.sysTlbinv a) .control s (fun s =>
    if s.frag.resume == .released then advance s
    else
      let r := a.toNat - 0x80
      let size := (readS s (r + 2)).toNat
      if size < 12 || 57 < size || readS s (r + 3) != 0#32 then takeTrap s 0x08 false
      else
        let t := stow s
        let d := startInval t.dev (.tlbinv (selfRef s)) s.crew.ctag (vaBits (readS64 s r).toNat) (2 ^ size)
        block (focusOn { t with dev := d } (selfRef s)) (.tlbinv t.dev.nextInv)))

/-- SYS.HALT: the crew is contained with the cause in ECAUSE (R339). -/
def execSysHalt (s : State) : Out :=
  inTrapMode s (checked .sysHalt .control s (fun s =>
    { s with crew := { s.crew with contained := some (s.frag.ecause.toNat % 256) } }))

end Sys2Proof.Machine
end

