-- ==== Sys2Proof/Machine/Trace.lean ====
section
/-! DEFINITION. The traversal engine: TRACE at issue, the tests of nodes, instances and triangles, the traversal of a
lane, and the steps in which an operation completes or parks (R435 to R456). -/

namespace Sys2Proof.Machine

/-! ### Arithmetic (R436, R437, R446) -/

/-- An FP32 pattern as a value. -/
def fp (w : Word) : Ext := decodeFmt .f32 w.toNat

/-- round_to(FP32, x) in mode rm; no flag is raised. -/
def fpRound (rm : Nat) (x : Ext) : Word := BitVec.ofNat 32 (roundTo .f32 ⟨rm, false, false⟩ 0 x).1

/-- An exact sum of products. -/
def dotOf (l : List (Ext × Ext)) (more : List Ext) : Ext := (extSum false (more ++ l.map (fun p => (extMul p.1 p.2).1))).1

/-- a is below b as numbers. -/
def numLess (a b : Ext) : Bool := extLess a b && !extEq a b

/-- The value is a NaN or an infinity. -/
def notFinite : Ext → Bool
  | .nan => true
  | .inf _ => true
  | .fin _ _ _ => false

/-- The exact difference. -/
def extSub (a b : Ext) : Ext := (extSum false [a, extFlip b]).1

/-- A quotient as IEEE 754 division treats infinities, b not a zero (R446). -/
def extQuot (a b : Ext) : Ext :=
  match a, b with
  | .nan, _ => .nan
  | .inf _, .nan => .nan
  | .fin _ _ _, .nan => .nan
  | .inf _, .inf _ => .nan
  | .inf s, .fin t _ _ => .inf (s != t)
  | .fin s _ _, .inf t => extZero (s != t)
  | .fin s m e, .fin t n f =>
    if m == 0 then extZero (s != t)
    else
      let q := quotSticky 80 m e n f
      .fin (s != t) q.1 q.2

/-- The quotient of two integers as a value. -/
def ratio (a : Int) (b : Nat) : Ext :=
  if a == 0 then extZero false
  else
    let q := quotSticky 80 a.natAbs 0 b 0
    .fin (decide (a < 0)) q.1 q.2

/-- A ray: origin and direction. -/
structure Ray where
  o : List Word
  d : List Word
  deriving DecidableEq, Repr, Inhabited

/-! ### Nodes (R435 to R438, R441) -/

/-- A signed byte of a node. -/
def signedByte (b : List Byte) (i : Nat) : Int := (b.getD i 0#8).toInt

/-- A number in a node or record. -/
def fieldAt (b : List Byte) (o n : Nat) : Nat := natLE ((b.drop o).take n)

/-- An FP32 word in a node or record. -/
def wordAt (b : List Byte) (o : Nat) : Word := BitVec.ofNat 32 (fieldAt b o 4)

/-- An element 1 - 2(p² + q²) or 2(pq ± r·w) of Q, in RNE: 2(p·q − z·√r) ÷ 16,129, exact but for one rounding; the
square root of r carries enough bits to settle it. -/
def mixElem (pq z : Int) (r : Nat) : Word :=
  let k : Nat := 200
  let root := isqrt (r * 2 ^ (2 * k))
  let a : Int := pq * (2 ^ k : Nat) - z * (root : Int)
  if root * root == r * 2 ^ (2 * k) || z == 0 then fpRound 0 (extScale (-(k : Int)) (ratio (2 * a) 16129))
  else fpRound 0 (extScale (-(k : Int)) (ratio (2 * a + 1) 16129))

/-- The rotation Q of a node by rows (R436). -/
def nodeRotation (x y z : Int) : List (List Word) :=
  let r := (16129 - (x * x + y * y + z * z)).toNat
  let diag := fun (p q : Int) => fpRound 0 (ratio (16129 - 2 * (p * p + q * q)) 16129)
  [[diag y z, mixElem (x * y) z r, mixElem (x * z) (-y) r],
   [mixElem (x * y) (-z) r, diag x z, mixElem (y * z) x r],
   [mixElem (x * z) y r, mixElem (y * z) (-x) r, diag x y]]

/-- The ray in the node's frame (R436). -/
def nodeRay (b : List Byte) (r : Ray) : Ray :=
  let x := signedByte b 16
  let y := signedByte b 17
  let z := signedByte b 18
  if x == 0 && y == 0 && z == 0 then r
  else
    let turn := fun (v : List Word) => (nodeRotation x y z).map (fun row =>
      fpRound 0 (dotOf ((row.zip v).map (fun p => (fp p.1, fp p.2))) []))
    ⟨turn r.o, turn r.d⟩

/-- R441: a node that is malformed. -/
def badNode (b : List Byte) : Bool :=
  let x := signedByte b 16
  let y := signedByte b 17
  let z := signedByte b 18
  fieldAt b 15 1 != 0 || fieldAt b 19 13 != 0 || [12, 13, 14].any (fun i => fieldAt b i 1 == 0xFF) ||
  x == -128 || y == -128 || z == -128 || decide (16129 < x * x + y * y + z * z) ||
  [0, 4, 8].any (fun o => notFinite (fp (wordAt b o)))

/-- R441: a child reference that is malformed. -/
def badRef (r : Nat) : Bool :=
  match r % 8 with
  | 0 => r != 0
  | 1 => bitsOf r 7 3 != 0 || r / 256 % 2 != 0
  | 2 => bitsOf r 7 3 != 0
  | 3 => false
  | _ => true

/-- The bounds of child c on axis k (R437). -/
def childBounds (b : List Byte) (c k : Nat) : Ext × Ext :=
  let org := fp (wordAt b (4 * k))
  let e : Int := (fieldAt b (12 + k) 1 : Int) - 127
  let at' := fun (i rm : Nat) =>
    fp (fpRound rm (extSum (rm == 2) [org, extScale e (extOfInt (fieldAt b (32 + 6 * c + i) 1))]).1)
  (at' k 2, at' (3 + k) 3)

/-- The slab of an axis: entry and exit distance; none when the child fails (R446). -/
def slab (lo hi o d : Ext) : Option (Word × Word) :=
  if extIsZero d then
    if !numLess o lo && !numLess hi o then some (0xFF800000#32, 0x7F800000#32) else none
  else
    let p := extSub lo o
    let q := extSub hi o
    let x := extQuot p d
    let y := extQuot q d
    if extIsNaN p || extIsNaN q || extIsNaN x || extIsNaN y then none
    else
      let a := (fpRound 0 x).toNat
      let b := (fpRound 0 y).toNat
      some (BitVec.ofNat 32 (minMaxBits .f32 false false a b).1, BitVec.ofNat 32 (minMaxBits .f32 false true a b).1)

/-- The box test of child c: its entry distance when it passes (R446). -/
def boxTest (b : List Byte) (r : Ray) (tmin bound : Word) (c : Nat) : Option Word :=
  let q := fun i => fieldAt b (32 + 6 * c + i) 1
  if q 3 < q 0 || q 4 < q 1 || q 5 < q 2 then none
  else
    let slabs := (List.range 3).map (fun k =>
      let bb := childBounds b c k
      slab bb.1 bb.2 (fp (r.o.getD k 0#32)) (fp (r.d.getD k 0#32)))
    if slabs.any Option.isNone then none
    else
      let l := slabs.filterMap id
      let up := fun (a b : Word) => BitVec.ofNat 32 (minMaxBits .f32 false true a.toNat b.toNat).1
      let down := fun (a b : Word) => BitVec.ofNat 32 (minMaxBits .f32 false false a.toNat b.toNat).1
      let tenter := l.foldl (fun a p => up a p.1) tmin
      let texit := l.foldl (fun a p => down a p.2) bound
      if numLess (fp texit) (fp tenter) then none else some tenter

/-- An entry put among others: nearer first, of equal ones the lower child first (R445). -/
def insertEntry (e : Word × Word) : List (Word × Word) → List (Word × Word)
  | [] => [e]
  | x :: rest => if numLess (fp e.2) (fp x.2) then e :: x :: rest else x :: insertEntry e rest

/-- The children of a node that pass, nearest first, and whether a reference is malformed (R445, R446). -/
def nodeChildren (b : List Byte) (r : Ray) (tmin bound : Word) : List (Word × Word) × Bool :=
  let turned := nodeRay b r
  let refs := (List.range 8).map (fun c => fieldAt b (80 + 4 * c) 4)
  let pass := (List.range 8).filterMap (fun c =>
    let ref := refs.getD c 0
    if badRef ref || ref % 8 == 0 then none
    else (boxTest b turned tmin bound c).map (fun t => (BitVec.ofNat 32 ref, t)))
  (pass.foldl (fun l e => insertEntry e l) [], refs.any badRef)

/-! ### Instances and triangles (R439 to R441, R447) -/

/-- R439: the ray in the lower structure's space. -/
def crossing (b : List Byte) (r : Ray) : Ray :=
  let row := fun k => (List.range 4).map (fun j => fp (wordAt b (16 * k + 4 * j)))
  let prods := fun (k : Nat) (v : List Word) => ((row k).zip v).map (fun p => (p.1, fp p.2))
  ⟨(List.range 3).map (fun k => fpRound 0 (dotOf (prods k r.o) [(row k).getD 3 .nan])),
   (List.range 3).map (fun k => fpRound 0 (dotOf (prods k r.d) []))⟩

/-- R441: an instance record that is malformed, for this ray. -/
def badInstance (b : List Byte) (r : Ray) : Bool :=
  let q := crossing b r
  fieldAt b 60 4 != 0 || fieldAt b 48 8 % 128 != 0 || (q.o ++ q.d).any (fun w => notFinite (fp w)) ||
  q.d.all (fun w => extIsZero (fp w))

/-- A difference of vectors, a cross product and a dot product of exact values. -/
def vecSub (a b : List Ext) : List Ext := (a.zip b).map (fun p => extSub p.1 p.2)
/-- The cross product. -/
def vecCross (a b : List Ext) : List Ext :=
  let g := fun (v : List Ext) k => v.getD k .nan
  [(1, 2), (2, 0), (0, 1)].map (fun p => extSub (extMul (g a p.1) (g b p.2)).1 (extMul (g a p.2) (g b p.1)).1)
/-- The dot product. -/
def vecDot (a b : List Ext) : Ext := dotOf (a.zip b) []

/-- A quotient of exact values rounded; a zero quotient is +0. -/
def solved (a b : Ext) : Word := if extIsZero a then 0#32 else fpRound 0 (extQuot a b)

/-- The sign of a quotient of finite values. -/
def quotNeg (a b : Ext) : Bool := !extIsZero a && extNeg a != extNeg b

/-- R447: the hit of a triangle record, by t, u and v alone. -/
def triangleHit (b : List Byte) (r : Ray) (cull : Bool) : Option (Word × Word × Word) :=
  let v := fun o => (List.range 3).map (fun k => fp (wordAt b (o + 4 * k)))
  let v0 := v 0
  if (v0 ++ v 12 ++ v 24).any notFinite then none
  else
    let e1 := vecSub (v 12) v0
    let e2 := vecSub (v 24) v0
    let n := vecCross e1 e2
    let d := r.d.map fp
    let det := vecDot d n
    if extIsZero det then none
    else if cull && fieldAt b 40 4 % 2 == 0 && !extNeg det then none
    else
      let p := vecSub (r.o.map fp) v0
      let t := extFlip (vecDot p n)
      let u := vecDot p (vecCross e2 d)
      let w := vecDot p (vecCross d e1)
      let rest := extSub det (extSum false [u, w]).1
      if quotNeg u det || quotNeg w det || quotNeg rest det then none
      else some (solved t det, solved u det, solved w det)

/-! ### A lane's traversal (R445, R449, R452) -/

/-- A lane under way: its rays, roots and instance ids by level, and what it has read. -/
structure LaneRun where
  x     : TraceLane
  rays  : List Ray
  roots : List Nat
  ids   : List Word
  dev   : Dev
  stop  : Option Io              -- the read that stopped

/-- What a traversal is of. -/
structure TraceEnv where
  who  : Asker
  slot : Nat
  n    : Nat
  o    : Op
  any  : Bool
  cull : Bool

/-- Bytes of a structure read, or the stop; each word as it stood at a moment of its own since the operation issued or
resumed, for every read anew (R120, R454). -/
def laneGet (v : TraceEnv) (r : LaneRun) (a n : Nat) : Io :=
  let t : List Touch := [⟨a, n, false⟩]
  ioOpen r.dev v.who v.slot (v.n + 2 ^ 100 * (r.x.visits + 1) + 2 ^ 130 * r.x.lane) (laneMark v.o r.x.lane) (unitSkips v.o t) t

/-- tmin of a lane. -/
def laneTmin (x : TraceLane) : Word := x.ray.getD 6 0#32

/-- The bound: tmax, or the best hit's T (R445). -/
def laneBound (x : TraceLane) : Word := match x.best with
  | some h => h.t
  | none => x.ray.getD 7 0#32

/-- Entries pushed, nearest on top; what falls off the bottom of a full stack sets TRUNC (R445). -/
def pushEntries (x : TraceLane) (es : List (Word × Word)) : TraceLane :=
  let l := es ++ x.stack
  { x with stack := l.take 32, trunc := x.trunc || decide (32 < l.length) }

/-- The lane is finished. -/
def laneEnd (r : LaneRun) : LaneRun := { r with x := { r.x with ended := true, stack := [] } }

/-- The lane stops at an entry, which goes back on its stack as a push of R445 (R449; assumption 62). -/
def laneHalt (r : LaneRun) (e : Word × Word) (io : Io) : LaneRun :=
  { r with x := { pushEntries r.x [e] with begun := true, held := true }, dev := io.dev, stop := some io }

/-- A hit accepted under R447. -/
def acceptHit (v : TraceEnv) (r : LaneRun) (b : List Byte) (h : Word × Word × Word) : Option TraceHit :=
  let t := fp h.1
  let ok := !numLess t (fp (laneTmin r.x)) && !numLess (fp (r.x.ray.getD 7 0#32)) t &&
    (v.any || (match r.x.best with
      | some q => numLess t (fp q.t)
      | none => true))
  if ok then
    let id := fun k => if k ≤ r.x.level then r.ids.getD k 0xFFFFFFFF#32 else 0xFFFFFFFF#32
    some ⟨h.1, h.2.1, h.2.2, wordAt b 36, id 1, id 2⟩
  else none

/-- The triangles of a leaf, from address a on: none where the lane goes on, else whether it stopped or, under ANY,
hit (R445, R447). -/
def runLeaf (v : TraceEnv) : Nat → Nat → LaneRun → LaneRun × Option (Option Io)
  | 0, _, r => (r, none)
  | k + 1, a, r =>
    let io := laneGet v r a 64
    if !io.good then (r, some (some io))
    else
      let b := io.read a 64
      let r1 := { r with dev := io.dev, x := { r.x with visits := r.x.visits + 1 } }
      if fieldAt b 40 4 / 2 != 0 then runLeaf v k (a + 64) { r1 with x := { r1.x with bad := true } }
      else
        match (triangleHit b (r.rays.getD r.x.level default) v.cull).bind (acceptHit v r b) with
        | some h =>
          let r2 := { r1 with x := { r1.x with best := some h } }
          if v.any then (r2, some none) else runLeaf v k (a + 64) r2
        | none => runLeaf v k (a + 64) r1

/-- R445: entries popped until one is to be taken; none when the stack is empty. -/
def popEntry (any : Bool) (bound : Word) : List (Word × Word) → Option ((Word × Word) × List (Word × Word))
  | [] => none
  | e :: rest =>
    if e.1.toNat % 8 == 7 || any || !numLess (fp bound) (fp e.2) then some (e, rest) else popEntry any bound rest

/-- What one entry leads to: the entry to take next, or the lane's end or stop. -/
inductive Turn where
  | pop (r : LaneRun)
  | take (r : LaneRun) (e : Word × Word)
  | halt (r : LaneRun)

/-- R445: one entry. -/
def takeEntry (v : TraceEnv) (r : LaneRun) (e : Word × Word) : Turn :=
  let ref := e.1.toNat
  let root := r.roots.getD r.x.level 0
  let a := root + 64 * (ref / 256)
  let ray := r.rays.getD r.x.level default
  match ref % 8 with
  | 1 =>
    let io := laneGet v r a 128
    if !io.good then .halt (laneHalt r e io)
    else
      let b := io.read a 128
      let targets := (List.range 8).filterMap (fun c =>
        let q := fieldAt b (80 + 4 * c) 4
        if badRef q || q % 8 == 0 then none else some (root + 64 * (q / 256)))
      let x := { r.x with visits := r.x.visits + 1, begun := true, near := targets }
      let r1 := { r with dev := io.dev }
      if badNode b then .pop { r1 with x := { x with bad := true } }
      else
        let ch := nodeChildren b ray (laneTmin x) (laneBound x)
        .pop { r1 with x := pushEntries { x with bad := x.bad || ch.2 } ch.1 }
  | 2 =>
    if 2 ≤ r.x.level then .pop { r with x := { r.x with bad := true } }
    else
      let io := laneGet v r a 64
      if !io.good then .halt (laneHalt r e io)
      else
        let b := io.read a 64
        let x := { r.x with visits := r.x.visits + 1 }
        if badInstance b ray then .pop { r with dev := io.dev, x := { x with bad := true } }
        else
          let x1 := pushEntries x [(7#32, e.2)]
          let l := x.level + 1
          .take { r with
              dev := io.dev
              x := { x1 with level := l, irec := x.irec.set (l - 1) a }
              rays := r.rays.take l ++ [crossing b ray], roots := r.roots.take l ++ [fieldAt b 48 8]
              ids := r.ids.take l ++ [wordAt b 56] } (1#32, e.2)
  | 3 =>
    match runLeaf v (bitsOf ref 7 3 + 1) a r with
    | (r1, some (some io)) => .halt (laneHalt { r1 with x := { r1.x with visits := r.x.visits } } e io)
    | (r1, some none) => .halt (laneEnd r1)
    | (r1, none) => .pop r1
  | 7 => .pop { r with x := { r.x with level := r.x.level - 1, irec := r.x.irec.set (r.x.level - 1) 0 } }
  | _ => .pop { r with x := { r.x with bad := true } }

/-- R445: the loop, from an entry to take or from the stack; an entry it had stopped at is taken again as it is (R449). -/
def runLane (v : TraceEnv) : Nat → Option (Word × Word) → LaneRun → LaneRun
  | 0, _, r => r
  | k + 1, none, r =>
    match if r.x.held then r.x.stack.head?.map (fun e => (e, r.x.stack.tail)) else popEntry v.any (laneBound r.x) r.x.stack with
    | none => laneEnd r
    | some (e, rest) => runLane v k (some e) { r with x := { r.x with stack := rest, held := false } }
  | k + 1, some e, r =>
    if 1048576 ≤ r.x.visits then laneEnd { r with x := { r.x with limit := true } }
    else match takeEntry v r e with
      | .pop r1 => runLane v k none r1
      | .take r1 e1 => runLane v k (some e1) r1
      | .halt r1 => r1

/-- Turns enough for any traversal: every entry comes from one of at most 2^20 visits. -/
def traceFuel : Nat := 2 ^ 25

/-- The stack without its k topmost markers and what stands above the last of them. -/
def dropMarkers : Nat → List (Word × Word) → List (Word × Word)
  | _, [] => []
  | 0, l => l
  | k + 1, e :: rest => if e.1.toNat % 8 == 7 then dropMarkers k rest else dropMarkers (k + 1) rest

/-- R452: the rays of the levels above 0 rebuilt from the records crossed; a record that is now malformed ends its
level. -/
def rebuild (v : TraceEnv) : Nat → LaneRun → LaneRun
  | 0, r => r
  | k + 1, r =>
    let l := r.rays.length
    if r.x.level < l || r.stop.isSome then r
    else
      let a := r.x.irec.getD (l - 1) 0
      let io := laneGet v r a 64
      if !io.good then { r with dev := io.dev, stop := some io }
      else
        let b := io.read a 64
        let ray := r.rays.getD (l - 1) default
        if badInstance b ray then
          { r with dev := io.dev, x := { r.x with
              bad := true, held := false, stack := dropMarkers (r.x.level + 1 - l) r.x.stack, level := l - 1 } }
        else
          rebuild v k { r with dev := io.dev, rays := r.rays ++ [crossing b ray], roots := r.roots ++ [fieldAt b 48 8]
                               ids := r.ids ++ [wordAt b 56] }

/-- A ray R445 refuses. -/
def refusedRay (x : TraceLane) : Bool :=
  let w := fun k => fp (x.ray.getD k 0#32)
  (List.range 8).any (fun k => extIsNaN (w k)) || (List.range 6).any (fun k => notFinite (w k)) ||
  (extIsZero (w 3) && extIsZero (w 4) && extIsZero (w 5))

/-- A lane run until it finishes or stops (R445, R449, R452). -/
def traceLane (v : TraceEnv) (root : Nat) (d : Dev) (x : TraceLane) : LaneRun :=
  let ray : Ray := ⟨x.ray.take 3, (x.ray.drop 3).take 3⟩
  let r : LaneRun := ⟨x, [ray], [root], [0xFFFFFFFF#32], d, none⟩
  if x.begun then
    let r1 := rebuild v 3 r
    if r1.stop.isSome then r1 else runLane v traceFuel none r1
  else if refusedRay x then laneEnd { r with x := { x with badray := true } }
  else if numLess (fp (x.ray.getD 7 0#32)) (fp (x.ray.getD 6 0#32)) then laneEnd r
  else runLane v traceFuel none r

/-! ### Issue (R442 to R444, R455) -/

/-- R455: the quad's engine has a free queue entry. -/
def traceRoom (s : State) : Bool :=
  let q := quadOf s.crew.core
  ((s.crew :: s.dev.crews).flatMap (fun c => if quadOf c.core == q && c.state != .saved then
    c.ops.filter (fun o => o.status == .inflight && (traceOf o).isSome) else [])).length < 16

/-- A lane that has not begun: its stack holds the first entry (R445, R452). -/
def TraceLane.start (lane : Nat) (ray : List Word) : TraceLane :=
  { lane := lane, ray := ray, irec := [0, 0], best := none, level := 0, stack := [(1#32, ray.getD 6 0#32)], visits := 0,
    trunc := false, bad := false, badray := false, limit := false, begun := false, held := false, near := [],
    ended := false }

/-- TRACE at issue. -/
def issueTrace (s : State) (g : Nat) (any cull : Bool) (dst : Nat) (b : BitVec 8) : State :=
  if s.frag.exec == 0#96 then advance s
  else
    let root := readS64 s (b.toNat - 0x80)
    if root.toNat % 128 != 0 then takeTrap s 0x07 false
    else if !canonical root then takeTrap s 0x05 false
    else if !traceRoom s then stall s
    else
      let lanes := (laneList s.frag.exec).map (fun l => TraceLane.start l ((List.range 8).map (fun k => readV s (dst + k) l)))
      issueOp s { newOp s (some g) s.frag.exec (.trace ⟨any, cull, root, dst, lanes, []⟩) with
        dstV := (List.range 8).map (dst + ·) }

/-- TRACE.CLOSEST. -/
def execTraceClosest (c : BitVec 1) (a b : BitVec 8) (s : State) : Out :=
  longLatency (.traceClosest c a b) .traversal s (fun s g => issueTrace s g false (c == 1#1) a.toNat b)

/-- TRACE.ANY. -/
def execTraceAny (c : BitVec 1) (a b : BitVec 8) (s : State) : Out :=
  longLatency (.traceAny c a b) .traversal s (fun s g => issueTrace s g true (c == 1#1) a.toNat b)

/-- TRACE.QUERY (R444). -/
def execTraceQuery (a : BitVec 8) (s : State) : Out :=
  checked (.traceQuery a) .traversal s (fun s =>
    let l := s.crew.ops.filter (fun o => o.wave == s.wave.idx && (traceOf o).isSome)
    let parks := l.filter (fun o => o.status != .inflight)
    advance (writeS (writeS s (a.toNat - 0x80) (BitVec.ofNat 32 (l.length % 256 + 256 * (parks.length % 256)))) (a.toNat - 0x80 + 1)
      (BitVec.ofNat 32 (32 + 256 * 2))))

/-! ### Completion and parking (R449 to R454) -/

/-- The eight words of a lane's result (R448). -/
def traceResult (x : TraceLane) : List Word :=
  let flag := fun (b : Bool) k => if b then 2 ^ k else 0
  hitWords x.best ++ [BitVec.ofNat 32 (flag x.best.isSome 0 + flag x.trunc 1 + flag x.bad 2 + flag x.badray 3 + flag x.limit 4), 0#32]

/-- The lanes run one after another, each with the translations made before it. -/
def runLanes (v : TraceEnv) (root : Nat) : Dev → List TraceLane → Dev × List LaneRun
  | d, [] => (d, [])
  | d, x :: rest =>
    let r := traceLane v root d x
    let q := runLanes v root r.dev rest
    (q.1, r :: q.2)

/-- A lane that only waits for a Translation Completion. -/
def laneWaits (r : LaneRun) : Bool := match r.stop with
  | some io => io.wait && io.miss.isEmpty && io.trap.isNone && !io.poison
  | none => false

/-- R449: the stop of the instruction: poison, else the missing pages of all its lanes, found first at the address of the first
lane that misses one, else a trap cause. -/
def traceStop (n : Nat) (rs : List LaneRun) : Option Io :=
  let ios := rs.filterMap LaneRun.stop
  match ios.find? (fun io => io.poison) with
  | some io => some io
  | none => match ios with
    | [] => none
    | io :: _ =>
      match ios.find? (fun io => !io.miss.isEmpty) with
      | some q => some { q with miss := ios.flatMap Io.miss, trap := none, wait := false }
      | none =>
        let traps := ios.filter (fun io => io.trap.isSome)
        some { (traps.getD (Config.freeNat n 1 % max 1 traps.length) io) with miss := [], wait := false }

/-- R453: the pages of the child targets of the last nodes read, predicted. -/
def predictTrace (d : Dev) (s : State) (c : Crew) (rs : List LaneRun) (missed : List Nat) : Dev :=
  let pages := ((rs.filter (fun r => r.stop.isSome)).flatMap (fun r => (r.x.near.map (fun a => a / 4096 * 4096)).eraseDups)).take 64
  ((pages.filter (fun p => !missed.contains p)).eraseDups).foldl (fun d p =>
    predictPage d (dieOf c.core) c.ctx s.nfree (vaBits p / 4096) s.clk wantRead) d

/-- The lanes of a TRACE that are not finished run; `park` says which of the two ends this step is. -/
def traceRun (s : State) (c : Crew) (o : Op) (t : TraceOp) (park : Bool) : State :=
  let v : TraceEnv := ⟨opAsker c o, c.ctx, s.nfree, o, t.any, t.cull⟩
  let (d, rs) := runLanes v t.root.toNat s.dev (t.lanes.filter (fun x => !x.ended))
  if rs.any laneWaits then putCrew s d (setOp c { o with awaits := (rs.filterMap LaneRun.stop).flatMap (fun io => io.awaits) })
  else if park != rs.any (fun r => r.stop.isSome) then s
  else
    let ended := rs.filter (fun r => r.x.ended)
    let vs := ended.flatMap (fun r => (traceResult r.x).mapIdx (fun k w => (96 * (t.dst + k) + r.x.lane, w)))
    match if park then traceStop s.nfree rs else none with
    | none => putCrew s d (completeOp d c o s.nfree vs [])
    | some io =>
      let c1 := putResults d c o s.nfree vs []
      let lanes := t.lanes.map (fun x => match rs.find? (fun r => r.x.lane == x.lane) with
        | some r => r.x
        | none => x)
      let o1 := { o with body := .trace { t with lanes := lanes, miss := io.missed } }
      let s1 := ioStop s c1 o1 { io with dev := d }
      if io.miss.isEmpty || io.poison then s1 else { s1 with dev := predictTrace s1.dev s c rs io.missed }

/-- TRACE_COMPLETE: every lane's result is written (R30, R454). -/
def execTraceComplete (c o : Nat) (s : State) : Out :=
  event s (fun s => stepping s c o (fun x p => match traceOf p with
    | some t => traceRun s x p t false
    | none => s))

/-- TRACE_PARK: some lane stopped, and the instruction parks (R36, R449). -/
def execTracePark (c o : Nat) (s : State) : Out :=
  event s (fun s => stepping s c o (fun x p => match traceOf p with
    | some t => traceRun s x p t true
    | none => s))

end Sys2Proof.Machine
end

