-- ==== Sys2Proof/Machine/Inflate.lean ====
section
/-! DEFINITION. The standard decoders INFLATE and LZ4D of the transform core (R292), each as what it has put out after
some of its input.  The manual names the formats, RFC 1951 and the LZ4 block format, and does not give them: their rules
are taken from there (PRESUMED; assumption 77). -/

namespace Sys2Proof.Machine

/-! ### What a decoder has put out so far -/

/-- Where a decoder stands after the input it has been given. -/
inductive DecStop where
  | more                   -- it wants more input
  | done                   -- the stream has ended
  | bad (status : Nat)     -- it ends with this status (R292, R294)
  deriving DecidableEq, Repr, Inhabited

/-- A decoder's output, the last byte first, and where it stands. -/
structure Decoded where
  out  : List Byte
  stop : DecStop
  deriving DecidableEq, Repr, Inhabited

/-- A decoder's end once its whole input has been given: one that wants more has a malformed stream. -/
def Decoded.final (complete : Bool) (r : Decoded) : Decoded :=
  match r.stop with
  | .more => if complete then { r with stop := .bad 1 } else r
  | .done | .bad _ => r

/-- What is read of a stream: a value and what follows it, not enough of the stream yet, or nothing its format allows. -/
inductive Taken (α β : Type) where
  | ok (x : α) (rest : β)
  | more
  | bad
  deriving Repr

/-- n bytes copied from distance d behind the end of the output, one after another. -/
def copyBack : Nat → Nat → List Byte → List Byte
  | 0, _, out => out
  | n + 1, d, out => copyBack n d (out.getD (d - 1) 0#8 :: out)

/-! ### Bits, lowest of each byte first -/

/-- The bits of bytes, the lowest bit of each first. -/
def bitStream (bs : List Byte) : List Bool := bs.flatMap (fun b => (List.range 8).map (fun i => b.getLsbD i))

/-- The number bits give, the first the lowest. -/
def lowFirst : List Bool → Nat
  | [] => 0
  | b :: bs => (if b then 1 else 0) + 2 * lowFirst bs

/-- n bits taken as a number, the first the lowest. -/
def takeLow (n : Nat) (bs : List Bool) : Taken Nat (List Bool) :=
  if (bs.take n).length < n then .more else .ok (lowFirst (bs.take n)) (bs.drop n)

/-! ### Prefix codes (RFC 1951, 3.2.2) -/

/-- A code: length, code value with its first bit the highest, symbol. -/
abbrev CodeTable := List (Nat × Nat × Nat)

/-- The codes of length l among code lengths. -/
def codesAt (lens : List Nat) (l : Nat) : Nat := (lens.filter (fun x => x == l)).length

/-- The first code of length l. -/
def firstCode (lens : List Nat) : Nat → Nat
  | 0 => 0
  | l + 1 => 2 * (firstCode lens l + if l == 0 then 0 else codesAt lens l)

/-- The codes that code lengths give, symbol by symbol. -/
def codeTable (lens : List Nat) : CodeTable :=
  (List.range 16).tail.flatMap (fun l =>
    (lens.zipIdx.filter (fun p => p.1 == l)).zipIdx.map (fun p => (l, firstCode lens l + p.2, p.1.2)))

/-- More codes of some length than there are. -/
def oversubscribed (lens : List Nat) : Bool :=
  (List.range 16).tail.any (fun l => 2 ^ l < firstCode lens l + codesAt lens l)

/-- A symbol read bit by bit, code `c` of `l` bits read so far, at most n more. -/
def readSymbol (t : CodeTable) : Nat → Nat → Nat → List Bool → Taken Nat (List Bool)
  | 0, _, _, _ => .bad
  | _, _, _, [] => .more
  | n + 1, l, c, b :: bs =>
    let c1 := 2 * c + if b then 1 else 0
    match t.find? (fun e => e.1 == l + 1 && e.2.1 == c1) with
    | some e => .ok e.2.2 bs
    | none => readSymbol t n (l + 1) c1 bs

/-! ### INFLATE (RFC 1951) -/

/-- The bases of the length codes 257 to 285 and their extra bits. -/
def lengthBase : List (Nat × Nat) :=
  [(3, 0), (4, 0), (5, 0), (6, 0), (7, 0), (8, 0), (9, 0), (10, 0), (11, 1), (13, 1), (15, 1), (17, 1), (19, 2), (23, 2),
   (27, 2), (31, 2), (35, 3), (43, 3), (51, 3), (59, 3), (67, 4), (83, 4), (99, 4), (115, 4), (131, 5), (163, 5), (195, 5),
   (227, 5), (258, 0)]

/-- The bases of the distance codes 0 to 29 and their extra bits. -/
def distanceBase : List (Nat × Nat) :=
  [(1, 0), (2, 0), (3, 0), (4, 0), (5, 1), (7, 1), (9, 2), (13, 2), (17, 3), (25, 3), (33, 4), (49, 4), (65, 5), (97, 5),
   (129, 6), (193, 6), (257, 7), (385, 7), (513, 8), (769, 8), (1025, 9), (1537, 9), (2049, 10), (3073, 10), (4097, 11),
   (6145, 11), (8193, 12), (12289, 12), (16385, 13), (24577, 13)]

/-- A base with its extra bits read. -/
def withExtra (bases : List (Nat × Nat)) (k : Nat) (bs : List Bool) : Taken Nat (List Bool) :=
  match bases[k]? with
  | none => .bad
  | some (base, n) => match takeLow n bs with
    | .ok x r => .ok (base + x) r
    | .more => .more
    | .bad => .bad

/-- The fixed literal and length codes' lengths. -/
def fixedLengths : List Nat :=
  List.replicate 144 8 ++ List.replicate 112 9 ++ List.replicate 24 7 ++ List.replicate 8 8

/-- The order in which the code length codes' lengths come. -/
def lengthOrder : List Nat := [16, 17, 18, 0, 8, 7, 9, 6, 10, 5, 11, 4, 12, 3, 13, 2, 14, 1, 15]

/-- n lengths of three bits each. -/
def readThrees : Nat → List Bool → List Nat → Taken (List Nat) (List Bool)
  | 0, bs, acc => .ok acc bs
  | n + 1, bs, acc => match takeLow 3 bs with
    | .ok x r => readThrees n r (acc ++ [x])
    | .more => .more
    | .bad => .bad

/-- Code lengths read by code t until there are `want`; at most `fuel` codes. -/
def readLengths (t : CodeTable) (want : Nat) : Nat → List Bool → List Nat → Taken (List Nat) (List Bool)
  | 0, _, _ => .bad
  | k + 1, bs, acc =>
    if acc.length == want then .ok acc bs
    else if want < acc.length then .bad
    else match readSymbol t 15 0 0 bs with
      | .more => .more
      | .bad => .bad
      | .ok s r =>
        let again := fun (x base n : Nat) => match takeLow n r with
          | .ok e r1 => readLengths t want k r1 (acc ++ List.replicate (base + e) x)
          | .more => .more
          | .bad => .bad
        if s < 16 then readLengths t want k r (acc ++ [s])
        else if s == 16 then (match acc.getLast? with
          | some x => again x 3 2
          | none => .bad)
        else if s == 17 then again 0 3 3
        else again 0 11 7

/-- The code lengths' lengths put to their symbols. -/
def lengthLengths (xs : List Nat) : List Nat :=
  (List.range 19).map (fun k => xs.getD (lengthOrder.findIdx (fun i => i == k)) 0)

/-- The two codes of a block with dynamic codes. -/
def dynamicCodes (bs : List Bool) : Taken (CodeTable × CodeTable) (List Bool) :=
  match takeLow 14 bs with
  | .more => .more
  | .bad => .bad
  | .ok h r =>
    let hlit := h % 32 + 257
    let hdist := h / 32 % 32 + 1
    if 286 < hlit then .bad
    else match readThrees (h / 1024 + 4) r [] with
      | .more => .more
      | .bad => .bad
      | .ok xs r1 =>
        if oversubscribed (lengthLengths xs) then .bad
        else match readLengths (codeTable (lengthLengths xs)) (hlit + hdist) 320 r1 [] with
          | .more => .more
          | .bad => .bad
          | .ok ls r2 =>
            if oversubscribed (ls.take hlit) || oversubscribed (ls.drop hlit) then .bad
            else .ok (codeTable (ls.take hlit), codeTable (ls.drop hlit)) r2

/-- Where the decoder stands in the stream. -/
inductive InfPhase where
  | header
  | codes (lit dist : CodeTable) (last : Bool)
  | ended

/-- A length and a distance read behind length symbol s, and the bytes copied. -/
def readMatch (dist : CodeTable) (s : Nat) (bs : List Bool) (out : List Byte) : Taken (List Byte) (List Bool) :=
  match withExtra lengthBase (s - 257) bs with
  | .more => .more
  | .bad => .bad
  | .ok len r => match readSymbol dist 15 0 0 r with
    | .more => .more
    | .bad => .bad
    | .ok d r1 => match withExtra distanceBase d r1 with
      | .more => .more
      | .bad => .bad
      | .ok off r2 => if out.length < off then .bad else .ok (copyBack len off out) r2

/-- A stored block, from the first whole byte behind its header on. -/
def readStored (bs : List Bool) (out : List Byte) : Taken (List Byte × Bool) (List Bool) :=
  match takeLow 32 (bs.drop (bs.length % 8)) with
  | .more => .more
  | .bad => .bad
  | .ok h r =>
    let len := h % 65536
    if h / 65536 != 65535 - len then .bad
    else
      let n := min len (r.length / 8)
      let data := (List.range n).map (fun i => BitVec.ofNat 8 (lowFirst ((r.drop (8 * i)).take 8)))
      .ok (data.reverse ++ out, decide (n < len)) (r.drop (8 * n))

/-- A block's header, and a stored block with it: the phase behind it, the output, and whether the block is cut. -/
def readHeader (bs : List Bool) (out : List Byte) : Taken (InfPhase × List Byte × Bool) (List Bool) :=
  match takeLow 3 bs with
  | .more => .more
  | .bad => .bad
  | .ok h r =>
    let last := h % 2 == 1
    match h / 2 with
    | 0 => match readStored r out with
      | .more => .more
      | .bad => .bad
      | .ok (o, cut) r1 => .ok (if last then .ended else .header, o, cut) r1
    | 1 => .ok (.codes (codeTable fixedLengths) (codeTable (List.replicate 32 5)) last, out, false) r
    | 2 => match dynamicCodes r with
      | .more => .more
      | .bad => .bad
      | .ok (l, d) r1 => .ok (.codes l d last, out, false) r1
    | _ => .bad

/-- The decoder from a phase on, symbol by symbol. -/
def inflateFrom : Nat → InfPhase → List Bool → List Byte → Decoded
  | _, .ended, _, out => ⟨out, .done⟩
  | 0, _, _, out => ⟨out, .more⟩
  | k + 1, .header, bs, out =>
    match readHeader bs out with
    | .more => ⟨out, .more⟩
    | .bad => ⟨out, .bad 1⟩
    | .ok (ph, o, cut) r => if cut then ⟨o, .more⟩ else inflateFrom k ph r o
  | k + 1, .codes lit dist last, bs, out =>
    match readSymbol lit 15 0 0 bs with
    | .more => ⟨out, .more⟩
    | .bad => ⟨out, .bad 1⟩
    | .ok s r =>
      if s < 256 then inflateFrom k (.codes lit dist last) r (BitVec.ofNat 8 s :: out)
      else if s == 256 then inflateFrom k (if last then .ended else .header) r out
      else match readMatch dist s r out with
        | .more => ⟨out, .more⟩
        | .bad => ⟨out, .bad 1⟩
        | .ok o r1 => inflateFrom k (.codes lit dist last) r1 o

/-- INFLATE after some of its input: every step takes a bit or more. -/
def inflate (input : List Byte) : Decoded := inflateFrom (8 * input.length + 1) .header (bitStream input) []

/-! ### LZ4D -/

/-- A length whose four bits are 15 goes on in bytes, up to the first below 255. -/
def lz4More : List Byte → Nat → Taken Nat (List Byte)
  | [], _ => .more
  | b :: bs, n => if b == 255#8 then lz4More bs (n + 255) else .ok (n + b.toNat) bs

/-- A length from four bits of a token. -/
def lz4Length (n : Nat) (bs : List Byte) : Taken Nat (List Byte) := if n == 15 then lz4More bs 15 else .ok n bs

/-- The sequences of a block: literals, and unless the block ends behind them, a match. -/
def lz4From (complete : Bool) : Nat → List Byte → List Byte → Decoded
  | 0, _, out => ⟨out, .more⟩
  | _, [], out => ⟨out, .more⟩
  | k + 1, t :: bs, out =>
    match lz4Length (t.toNat / 16) bs with
    | .more => ⟨out, .more⟩
    | .bad => ⟨out, .bad 1⟩
    | .ok n r =>
      let o := (r.take n).reverse ++ out
      match r.drop n with
      | [] => ⟨o, if complete && decide (n ≤ r.length) then .done else .more⟩
      | [_] => ⟨o, .more⟩
      | a :: b :: r1 =>
        let off := a.toNat + 256 * b.toNat
        if off == 0 || decide (o.length < off) then ⟨o, .bad 1⟩
        else match lz4Length (t.toNat % 16) r1 with
          | .more => ⟨o, .more⟩
          | .bad => ⟨o, .bad 1⟩
          | .ok m r2 => lz4From complete k r2 (copyBack (m + 4) off o)

/-- LZ4D after some of its input, all of it where `complete` says so. -/
def lz4Block (complete : Bool) (input : List Byte) : Decoded := lz4From complete (input.length + 1) input []

end Sys2Proof.Machine
end

