-- ==== Sys2Proof/Machine/RvFloat.lean ====
section
/-! DEFINITION. The floating-point arithmetic of the transform core, RV64GC with V (R290): binary32 and binary64 after the
RISC-V manual, which the spec names and does not give (PRESUMED; assumption 41). -/

namespace Sys2Proof.Machine

/-! ### Formats: `M` is 23 for binary32 and 52 for binary64 -/

/-- The width of the format. -/
def rvWidth (M : Nat) : Nat := if M == 23 then 32 else 64
/-- The exponent bias. -/
def rvBias (M : Nat) : Nat := if M == 23 then 127 else 1023
/-- The pattern of +∞. -/
def rvInf (M : Nat) : Nat := (2 * rvBias M + 1) * 2 ^ M
/-- The canonical NaN. -/
def rvNaN (M : Nat) : Nat := rvInf M + 2 ^ (M - 1)
/-- The sign bit of a pattern. -/
def rvNeg (M x : Nat) : Bool := (x >>> (rvWidth M - 1)) % 2 == 1
/-- The pattern without its sign. -/
def rvMag (M x : Nat) : Nat := x % 2 ^ (rvWidth M - 1)
/-- A pattern of a sign and a magnitude. -/
def rvSigned (M : Nat) (neg : Bool) (mag : Nat) : Nat := mag + if neg then 2 ^ (rvWidth M - 1) else 0
/-- The pattern with its sign reversed. -/
def rvFlip (M x : Nat) : Nat := rvSigned M (!rvNeg M x) (rvMag M x)

/-- The pattern is a NaN. -/
def rvIsNaN (M x : Nat) : Bool := decide (rvInf M < rvMag M x)
/-- The pattern is a signalling NaN. -/
def rvIsSig (M x : Nat) : Bool := rvIsNaN M x && (x >>> (M - 1)) % 2 == 0

/-- The exact value of a pattern. -/
def rvVal (M x : Nat) : Ext :=
  let mag := rvMag M x
  let e := mag / 2 ^ M
  let f := mag % 2 ^ M
  if rvIsNaN M x then .nan
  else if mag == rvInf M then .inf (rvNeg M x)
  else if e == 0 then .fin (rvNeg M x) f ((1 : Int) - rvBias M - M)
  else .fin (rvNeg M x) (2 ^ M + f) ((e : Int) - rvBias M - M)

/-! ### Flags: NX 1, UF 2, OF 4, DZ 8, NV 16 -/

/-- The invalid flag of an operation on exact values. -/
def rvInvalid (f : Flags) : Nat := if f &&& flagINV != 0 then 16 else 0
/-- The invalid flag of a signalling operand. -/
def rvSig (M : Nat) (l : List Nat) : Nat := if l.any (rvIsSig M) then 16 else 0

/-! ### Rounding: RNE 0, RTZ 1, RDN 2, RUP 3, RMM 4, and 6 to odd -/

/-- The magnitude rounds up. -/
def rvUp (rm : Nat) (neg : Bool) (k rem sh : Nat) : Bool :=
  if rm == 6 then rem != 0 && k % 2 == 0 else roundUp rm 0 neg k rem sh

/-- What an overflow gives: ∞, or the largest finite number where the mode points away from ∞. -/
def rvOver (M rm : Nat) (neg : Bool) : Nat :=
  let most := rvSigned M neg (rvInf M - 1)
  let inf := rvSigned M neg (rvInf M)
  match rm with
  | 1 | 6 => most
  | 2 => if neg then inf else most
  | 3 => if neg then most else inf
  | _ => inf

/-- An exact value rounded, with its flags; tininess is detected after rounding. -/
def rvRound (M rm : Nat) (v : Ext) : Nat × Nat :=
  match v with
  | .nan => (rvNaN M, 0)
  | .inf s => (rvSigned M s (rvInf M), 0)
  | .fin s m e =>
    if m == 0 then (rvSigned M s 0, 0)
    else
      let emin : Int := 1 - (rvBias M : Int)
      let E : Int := (Nat.log2 m : Int) + e
      let at_ := fun q : Int =>
        let sh := (q - e).toNat
        let k0 := if e < q then m / 2 ^ sh else m * 2 ^ (e - q).toNat
        let rem := if e < q then m % 2 ^ sh else 0
        (if rvUp rm s k0 rem sh then k0 + 1 else k0, rem != 0)
      let q := max E emin - M
      let (k, inx) := at_ q
      let mag := (q - (emin - M)).toNat * 2 ^ M + k
      if rvInf M ≤ mag then (rvOver M rm s, 5)
      else
        let tiny := decide (E < emin) && !(E + 1 == emin && (at_ (E - M)).1 == 2 ^ (M + 1))
        (rvSigned M s mag, (if inx then 1 else 0) ||| (if tiny && inx then 2 else 0))

/-! ### Arithmetic -/

/-- Sum. -/
def rvAdd (M rm a b : Nat) : Nat × Nat :=
  let s := extSum (rm == 2) [rvVal M a, rvVal M b]
  let r := rvRound M rm s.1
  (r.1, r.2 ||| rvInvalid s.2 ||| rvSig M [a, b])

/-- Difference. -/
def rvSub (M rm a b : Nat) : Nat × Nat :=
  let s := extSum (rm == 2) [rvVal M a, extFlip (rvVal M b)]
  let r := rvRound M rm s.1
  (r.1, r.2 ||| rvInvalid s.2 ||| rvSig M [a, b])

/-- Product. -/
def rvMul (M rm a b : Nat) : Nat × Nat :=
  let s := extMul (rvVal M a) (rvVal M b)
  let r := rvRound M rm s.1
  (r.1, r.2 ||| rvInvalid s.2 ||| rvSig M [a, b])

/-- a · b + c, rounded once. -/
def rvFma (M rm a b c : Nat) : Nat × Nat :=
  let p := extMul (rvVal M a) (rvVal M b)
  let s := extSum (rm == 2) [p.1, rvVal M c]
  let r := rvRound M rm s.1
  (r.1, r.2 ||| rvInvalid p.2 ||| rvInvalid s.2 ||| rvSig M [a, b, c])

/-- Quotient. -/
def rvDiv (M rm a b : Nat) : Nat × Nat :=
  let sg := rvSig M [a, b]
  match rvVal M a, rvVal M b with
  | .nan, _ => (rvNaN M, sg)
  | .inf _, .nan => (rvNaN M, sg)
  | .fin _ _ _, .nan => (rvNaN M, sg)
  | .inf _, .inf _ => (rvNaN M, 16)
  | .inf s, .fin t _ _ => (rvSigned M (s != t) (rvInf M), 0)
  | .fin s _ _, .inf t => (rvSigned M (s != t) 0, 0)
  | .fin s m e, .fin t n f =>
    if n == 0 then (if m == 0 then (rvNaN M, 16) else (rvSigned M (s != t) (rvInf M), 8))
    else if m == 0 then (rvSigned M (s != t) 0, 0)
    else
      let q := quotSticky (M + 4) m e n f
      rvRound M rm (.fin (s != t) q.1 q.2)

/-- Square root. -/
def rvSqrt (M rm a : Nat) : Nat × Nat :=
  match rvVal M a with
  | .nan => (rvNaN M, rvSig M [a])
  | .inf s => if s then (rvNaN M, 16) else (a, 0)
  | .fin s m e =>
    if m == 0 then (a, 0)
    else if s then (rvNaN M, 16)
    else
      let q := sqrtSticky (M + 4) m e
      rvRound M rm (.fin false q.1 q.2)

/-- The lesser, or the greater, number; one NaN gives way to the other operand. -/
def rvMinMax (M : Nat) (greater : Bool) (a b : Nat) : Nat × Nat :=
  let r :=
    if rvIsNaN M a && rvIsNaN M b then rvNaN M
    else if rvIsNaN M a then b
    else if rvIsNaN M b then a
    else if extLess (rvVal M a) (rvVal M b) != greater then a else b
  (r, rvSig M [a, b])

/-- Comparison: 0 is ≤, 1 is <, 2 is =. -/
def rvCmp (M op a b : Nat) : Bool × Nat :=
  let nan := rvIsNaN M a || rvIsNaN M b
  let eq := extEq (rvVal M a) (rvVal M b)
  let lt := extLess (rvVal M a) (rvVal M b) && !eq
  (!nan && (match op with
    | 0 => lt || eq
    | 1 => lt
    | _ => eq),
   if op == 2 then rvSig M [a, b] else if nan then 16 else 0)

/-- Sign injection: 0 the sign of b, 1 its reverse, 2 the signs' exclusive or. -/
def rvSgnj (M op a b : Nat) : Nat :=
  rvSigned M (match op with
    | 0 => rvNeg M b
    | 1 => !rvNeg M b
    | _ => rvNeg M a != rvNeg M b) (rvMag M a)

/-- The class of a pattern, one bit of ten. -/
def rvClass (M a : Nat) : Nat :=
  let neg := rvNeg M a
  let mag := rvMag M a
  if rvIsNaN M a then (if rvIsSig M a then 256 else 512)
  else if mag == rvInf M then (if neg then 1 else 128)
  else if mag == 0 then (if neg then 8 else 16)
  else if mag < 2 ^ M then (if neg then 4 else 32)
  else if neg then 2 else 64

/-- Conversion between the formats. -/
def rvConv (M N rm a : Nat) : Nat × Nat :=
  let r := rvRound N rm (rvVal M a)
  (r.1, r.2 ||| rvSig M [a])

/-- The integer of `w` bits, signed or not, nearest by the mode, and clamped; NaN counts as +∞. -/
def rvToInt (M rm w : Nat) (sgnd : Bool) (a : Nat) : Nat × Nat :=
  let lo : Int := if sgnd then -(2 ^ (w - 1) : Nat) else 0
  let hi : Int := if sgnd then (2 ^ (w - 1) : Nat) - 1 else (2 ^ w : Nat) - 1
  let pat := fun z : Int => (z % (2 ^ w : Nat)).toNat
  match rvVal M a with
  | .nan => (pat hi, 16)
  | .inf s => (pat (if s then lo else hi), 16)
  | .fin s m e =>
    let sh := (-e).toNat
    let k0 := if e < 0 then m / 2 ^ sh else m * 2 ^ e.toNat
    let rem := if e < 0 then m % 2 ^ sh else 0
    let k := if rvUp rm s k0 rem sh then k0 + 1 else k0
    let z : Int := if s then -(k : Int) else k
    if z < lo then (pat lo, 16) else if hi < z then (pat hi, 16) else (pat z, if rem != 0 then 1 else 0)

/-- A number from an integer. -/
def rvOfInt (M rm : Nat) (z : Int) : Nat × Nat := rvRound M rm (extOfInt z)

/-! ### The seven-bit estimates of V -/

/-- Nearest seven-bit fraction of the reciprocal of 1 + (2i + 1)/256. -/
def rvRecTab (i : Nat) : Nat := (2 * 65536 / (257 + 2 * i) + 1) / 2 - 128

/-- Nearest seven-bit fraction of the reciprocal root, by the low exponent bit and six fraction bits. -/
def rvRsqrtTab (odd j : Nat) : Nat := (isqrt (4 * 8388608 / ((129 + 2 * j) * (2 - odd))) + 1) / 2 - 128

/-- A finite pattern's exponent and fraction, a subnormal one normalised. -/
def rvNorm (M mag : Nat) : Int × Nat :=
  let e := mag / 2 ^ M
  let f := mag % 2 ^ M
  if e != 0 then (e, f)
  else
    let lz := M - 1 - Nat.log2 f
    (-(lz : Int), f * 2 ^ (lz + 1) % 2 ^ M)

/-- The estimate of 1/x. -/
def rvRec7 (M rm a : Nat) : Nat × Nat :=
  let neg := rvNeg M a
  let mag := rvMag M a
  if rvIsNaN M a then (rvNaN M, rvSig M [a])
  else if mag == rvInf M then (rvSigned M neg 0, 0)
  else if mag == 0 then (rvSigned M neg (rvInf M), 8)
  else
    let (e, f) := rvNorm M mag
    let o : Int := 2 * (rvBias M : Int) - 1 - e
    let t := rvRecTab (f / 2 ^ (M - 7))
    if 2 * (rvBias M : Int) < o then (rvOver M rm neg, 5)
    else if o ≤ 0 then (rvSigned M neg ((128 + t) * 2 ^ (M - 7) / 2 ^ (1 - o).toNat), 0)
    else (rvSigned M neg (o.toNat * 2 ^ M + t * 2 ^ (M - 7)), 0)

/-- The estimate of 1/√x. -/
def rvRsqrt7 (M a : Nat) : Nat × Nat :=
  let neg := rvNeg M a
  let mag := rvMag M a
  if rvIsNaN M a then (rvNaN M, rvSig M [a])
  else if mag == 0 then (rvSigned M neg (rvInf M), 8)
  else if neg then (rvNaN M, 16)
  else if mag == rvInf M then (0, 0)
  else
    let (e, f) := rvNorm M mag
    let o : Int := (3 * (rvBias M : Int) - 1 - e) / 2
    (o.toNat * 2 ^ M + rvRsqrtTab (e % 2).toNat (f / 2 ^ (M - 6)) * 2 ^ (M - 7), 0)

end Sys2Proof.Machine
end

