-- ==== Sys2Proof/Machine/RvScalar.lean ====
section
/-! DEFINITION. The transform core's RV64IMAFDC: its registers, its local memory with the access rights of R290, the
compressed forms, and the scalar instructions in user mode after the RISC-V manual, which the spec names and does not give
(R290, R291; PRESUMED; assumption 41).  An exception is `none`. -/

namespace Sys2Proof.Machine

/-- The transform core: what R300 saves, and the reservation of LR. -/
structure Rv where
  st   : Config.RoutineState
  resv : Option (Nat × Nat)     -- address and bytes
  deriving DecidableEq, Repr

/-! ### Registers, in the order of Config.RoutineState -/

/-- A word of the saved registers. -/
def Rv.get (h : Rv) (i : Nat) : DWord := h.st.regs.getD i 0#64
/-- A word of the saved registers written. -/
def Rv.put (h : Rv) (i : Nat) (x : DWord) : Rv := { h with st := { h.st with regs := h.st.regs.set i x } }
/-- Register xk; x0 is 0. -/
def Rv.x (h : Rv) (k : Nat) : DWord := if k == 0 then 0#64 else h.get (1 + k)
/-- Register xk written; x0 stays 0. -/
def Rv.setX (h : Rv) (k : Nat) (v : DWord) : Rv := if k == 0 then h else h.put (1 + k) v
/-- The pc. -/
def Rv.pc (h : Rv) : DWord := h.get 0
/-- The pc written. -/
def Rv.goto (h : Rv) (a : DWord) : Rv := h.put 0 a
/-- Register fk as a format reads it: a binary32 that is not boxed is the canonical NaN. -/
def Rv.f (h : Rv) (M k : Nat) : Nat :=
  let x := (h.get (33 + k)).toNat
  if M == 52 then x else if x / 2 ^ 32 == 2 ^ 32 - 1 then x % 2 ^ 32 else rvNaN 23
/-- Register fk written, a binary32 boxed. -/
def Rv.setF (h : Rv) (M k x : Nat) : Rv :=
  h.put (33 + k) (BitVec.ofNat 64 (if M == 52 then x else x % 2 ^ 32 + (2 ^ 32 - 1) * 2 ^ 32))
/-- A word of the CSR group: fcsr, vstart, vl, vtype, vxsat, vxrm, vcsr. -/
def Rv.csr (h : Rv) (k : Nat) : Nat := (h.get (65 + k)).toNat
/-- A word of the CSR group written. -/
def Rv.setCsr (h : Rv) (k x : Nat) : Rv := h.put (65 + k) (BitVec.ofNat 64 x)
/-- Floating flags raised. -/
def Rv.raise (h : Rv) (fl : Nat) : Rv := if fl == 0 then h else h.setCsr 0 (h.csr 0 ||| fl)
/-- vxsat and vxrm, and vcsr, which holds both. -/
def Rv.setFixed (h : Rv) (sat rm : Nat) : Rv := ((h.setCsr 4 sat).setCsr 5 rm).setCsr 6 (2 * rm + sat)

/-! ### Local memory (R290) -/

/-- A byte loaded: working memory, the input and the output buffer, and the routine's image; a byte of a buffer or of the image
range beyond what it holds is one the manual does not give. -/
def Rv.byte (im : List Byte) (h : Rv) (a : Nat) : Option Byte :=
  let other := Config.routineByte im h.st a
  if a < 0x10000 then some (tabGet 0#8 h.st.work a)
  else if a < 0x12000 then some (h.st.inbuf.getD (a - 0x10000) other)
  else if a < 0x14000 then some (h.st.outbuf.getD (a - 0x12000) other)
  else if 0x80000000 ≤ a && a < 0x80040000 then some (im.getD (a - 0x80000000) other)
  else none

/-- A byte stored: working memory and the output buffer alone may be written. -/
def Rv.putByte (im : List Byte) (h : Rv) (a : Nat) (b : Byte) : Option Rv :=
  if a < 0x10000 then some { h with st := { h.st with work := tabSet 0#8 h.st.work a b } }
  else if 0x12000 ≤ a && a < 0x14000 then
    let i := a - 0x12000
    let gap := (List.range (i - h.st.outbuf.length)).map (fun k =>
      Config.routineByte im h.st (0x12000 + h.st.outbuf.length + k))
    some { h with st := { h.st with outbuf := (h.st.outbuf ++ gap).take i ++ b :: h.st.outbuf.drop (i + 1) } }
  else none

/-- An access of n bytes may be made at the address: at its alignment, or anywhere where the core takes misaligned ones. -/
def rvAligned (a n : Nat) : Bool := a % n == 0 || Config.routineMisaligned

/-- A value of n bytes loaded. -/
def Rv.load (im : List Byte) (h : Rv) (a n : Nat) : Option Nat :=
  if rvAligned a n then ((List.range n).mapM (fun i => h.byte im (a + i))).map natLE else none

/-- A value of n bytes stored. -/
def Rv.store (im : List Byte) (h : Rv) (a n x : Nat) : Option Rv :=
  if rvAligned a n then (bytesLE n x).zipIdx.foldlM (fun h p => h.putByte im (a + p.2) p.1) h else none

/-! ### Fields -/

/-- n bits as a signed number of 64. -/
def rvSx (n x : Nat) : DWord := (BitVec.ofNat n x).signExtend 64
/-- The immediates of the I, S, B, U and J forms. -/
def rvImmI (w : Nat) : DWord := rvSx 12 (bitsOf w 31 20)
def rvImmS (w : Nat) : DWord := rvSx 12 (bitsOf w 31 25 * 32 + bitsOf w 11 7)
def rvImmB (w : Nat) : DWord :=
  rvSx 13 (bitsOf w 31 31 * 4096 + bitsOf w 7 7 * 2048 + bitsOf w 30 25 * 32 + bitsOf w 11 8 * 2)
def rvImmU (w : Nat) : DWord := rvSx 32 (bitsOf w 31 12 * 4096)
def rvImmJ (w : Nat) : DWord :=
  rvSx 21 (bitsOf w 31 31 * 1048576 + bitsOf w 19 12 * 4096 + bitsOf w 20 20 * 2048 + bitsOf w 30 21 * 2)

/-! ### Integer arithmetic -/

/-- OP and its immediate forms at a width, `sh` the shift amount; funct7 0, 0x20 and 1 (M). -/
def rvIntOp {n : Nat} (f7 f3 : Nat) (x y : BitVec n) (sh : Nat) : Option (BitVec n) :=
  let high := fun (a b : Int) => BitVec.ofInt n (a * b / 2 ^ n)
  match f7, f3 with
  | 0x00, 0 => some (x + y)
  | 0x20, 0 => some (x - y)
  | 0x00, 1 => some (x <<< sh)
  | 0x00, 2 => some (if x.slt y then 1 else 0)
  | 0x00, 3 => some (if x.ult y then 1 else 0)
  | 0x00, 4 => some (x ^^^ y)
  | 0x00, 5 => some (x >>> sh)
  | 0x20, 5 => some (x.sshiftRight sh)
  | 0x00, 6 => some (x ||| y)
  | 0x00, 7 => some (x &&& y)
  | 0x01, 0 => some (x * y)
  | 0x01, 1 => some (high x.toInt y.toInt)
  | 0x01, 2 => some (high x.toInt y.toNat)
  | 0x01, 3 => some (high x.toNat y.toNat)
  | 0x01, 4 => some (if y == 0 then -1 else BitVec.ofInt n (x.toInt.tdiv y.toInt))
  | 0x01, 5 => some (if y == 0 then -1 else x / y)
  | 0x01, 6 => some (if y == 0 then x else BitVec.ofInt n (x.toInt.tmod y.toInt))
  | 0x01, 7 => some (if y == 0 then x else x % y)
  | _, _ => none

/-- The forms of 32 bits that OP-32 has. -/
def rvHasWord (f7 f3 : Nat) : Bool :=
  (f7 == 0 && (f3 == 0 || f3 == 1 || f3 == 5)) || (f7 == 0x20 && (f3 == 0 || f3 == 5)) || (f7 == 1 && (f3 == 0 || 4 ≤ f3))

/-- The condition of a branch. -/
def rvTaken (f3 : Nat) (x y : DWord) : Option Bool :=
  match f3 with
  | 0 => some (x == y)
  | 1 => some (x != y)
  | 4 => some (x.slt y)
  | 5 => some (!x.slt y)
  | 6 => some (x.ult y)
  | 7 => some (!x.ult y)
  | _ => none

/-- What an atomic operation of n bits stores. -/
def rvAmo {n : Nat} (f5 : Nat) (old x : BitVec n) : Option (BitVec n) :=
  match f5 with
  | 0x00 => some (old + x)
  | 0x01 => some x
  | 0x04 => some (old ^^^ x)
  | 0x08 => some (old ||| x)
  | 0x0C => some (old &&& x)
  | 0x10 => some (if x.slt old then x else old)
  | 0x14 => some (if old.slt x then x else old)
  | 0x18 => some (if x.ult old then x else old)
  | 0x1C => some (if old.ult x then x else old)
  | _ => none

/-- An atomic instruction: LR reserves its bytes, SC stores where they are reserved and ends the reservation. -/
def rvAtomic (im : List Byte) (h : Rv) (w : Nat) : Option Rv := do
  let f3 := bitsOf w 14 12
  if f3 != 2 && f3 != 3 then none
  let n := if f3 == 2 then 4 else 8
  let a := (h.x (bitsOf w 19 15)).toNat
  let y := (h.x (bitsOf w 24 20)).toNat
  let rd := bitsOf w 11 7
  let f5 := bitsOf w 31 27
  if a % n != 0 then none
  if f5 == 2 then
    if bitsOf w 24 20 != 0 then none
    let v ← h.load im a n
    some ({ h with resv := some (a, n) }.setX rd (rvSx (8 * n) v))
  else if f5 == 3 then
    if h.resv == some (a, n) then
      let h1 ← h.store im a n y
      some ({ h1 with resv := none }.setX rd 0#64)
    else some ({ h with resv := none }.setX rd 1#64)
  else
    let v ← h.load im a n
    let z ← rvAmo f5 (BitVec.ofNat (8 * n) v) (BitVec.ofNat (8 * n) y)
    let h1 ← h.store im a n z.toNat
    some (h1.setX rd (rvSx (8 * n) v))

/-! ### Control and status registers open to user mode -/

/-- A CSR as it reads. -/
def rvCsrRead (h : Rv) (n : Nat) : Option Nat :=
  match n with
  | 0x001 => some (h.csr 0 % 32)
  | 0x002 => some (h.csr 0 / 32 % 8)
  | 0x003 => some (h.csr 0 % 256)
  | 0x008 => some (h.csr 1)
  | 0x009 => some (h.csr 4)
  | 0x00A => some (h.csr 5)
  | 0x00F => some (2 * h.csr 5 + h.csr 4)
  | 0xC20 => some (h.csr 2)
  | 0xC21 => some (h.csr 3)
  | 0xC22 => some 64
  | _ => none

/-- A CSR written; vl, vtype and vlenb are only read. -/
def rvCsrWrite (h : Rv) (n x : Nat) : Option Rv :=
  match n with
  | 0x001 => some (h.setCsr 0 (h.csr 0 / 32 % 8 * 32 + x % 32))
  | 0x002 => some (h.setCsr 0 (x % 8 * 32 + h.csr 0 % 32))
  | 0x003 => some (h.setCsr 0 (x % 256))
  | 0x008 => some (h.setCsr 1 (x % 512))
  | 0x009 => some (h.setFixed (x % 2) (h.csr 5))
  | 0x00A => some (h.setFixed (h.csr 4) (x % 4))
  | 0x00F => some (h.setFixed (x % 2) (x / 2 % 4))
  | _ => none

/-- CSRRW, CSRRS, CSRRC and their immediate forms. -/
def rvCsrOp (h : Rv) (w : Nat) : Option Rv := do
  let f3 := bitsOf w 14 12
  let n := bitsOf w 31 20
  let rs := bitsOf w 19 15
  let y := if 4 ≤ f3 then rs else (h.x rs).toNat
  let old ← rvCsrRead h n
  let h1 ← match f3 % 4 with
    | 1 => rvCsrWrite h n y
    | 2 => if rs == 0 then some h else rvCsrWrite h n (old ||| y)
    | 3 => if rs == 0 then some h else rvCsrWrite h n (old &&& (2 ^ 64 - 1 - y))
    | _ => none
  some (h1.setX (bitsOf w 11 7) (BitVec.ofNat 64 old))

/-! ### Floating point -/

/-- The fraction bits of an instruction's format. -/
def rvFmt (w : Nat) : Option Nat :=
  match bitsOf w 26 25 with
  | 0 => some 23
  | 1 => some 52
  | _ => none

/-- The rounding mode of an instruction. -/
def rvMode (h : Rv) (w : Nat) : Option Nat :=
  let rm := bitsOf w 14 12
  let r := if rm == 7 then h.csr 0 / 32 % 8 else rm
  if r ≤ 4 then some r else none

/-- A result in an f register, with its flags. -/
def rvFloatTo (h : Rv) (M rd : Nat) (r : Nat × Nat) : Rv := (h.setF M rd r.1).raise r.2

/-- FMADD, FMSUB, FNMSUB and FNMADD. -/
def rvFused (h : Rv) (w : Nat) : Option Rv := do
  let M ← rvFmt w
  let rm ← rvMode h w
  let a := h.f M (bitsOf w 19 15)
  let b := h.f M (bitsOf w 24 20)
  let c := h.f M (bitsOf w 31 27)
  let op := bitsOf w 3 2
  let r := rvFma M rm (if 2 ≤ op then rvFlip M a else a) b (if op == 1 || op == 3 then rvFlip M c else c)
  some (rvFloatTo h M (bitsOf w 11 7) r)

/-- OP-FP. -/
def rvFloatOp (h : Rv) (w : Nat) : Option Rv := do
  let M ← rvFmt w
  let f3 := bitsOf w 14 12
  let rs2 := bitsOf w 24 20
  let rd := bitsOf w 11 7
  let a := h.f M (bitsOf w 19 15)
  let b := h.f M rs2
  let x := h.x (bitsOf w 19 15)
  let iw := if rs2 < 2 then 32 else 64
  match bitsOf w 31 27 with
  | 0x00 => do
    let rm ← rvMode h w
    some (rvFloatTo h M rd (rvAdd M rm a b))
  | 0x01 => do
    let rm ← rvMode h w
    some (rvFloatTo h M rd (rvSub M rm a b))
  | 0x02 => do
    let rm ← rvMode h w
    some (rvFloatTo h M rd (rvMul M rm a b))
  | 0x03 => do
    let rm ← rvMode h w
    some (rvFloatTo h M rd (rvDiv M rm a b))
  | 0x0B => do
    let rm ← rvMode h w
    if rs2 != 0 then none
    some (rvFloatTo h M rd (rvSqrt M rm a))
  | 0x04 => if 2 < f3 then none else some (h.setF M rd (rvSgnj M f3 a b))
  | 0x05 => if 1 < f3 then none else some (rvFloatTo h M rd (rvMinMax M (f3 == 1) a b))
  | 0x08 => do
    let rm ← rvMode h w
    let N := if M == 23 then 52 else 23
    if rs2 != (if N == 23 then 0 else 1) then none
    some (rvFloatTo h M rd (rvConv N M rm (h.f N (bitsOf w 19 15))))
  | 0x14 =>
    if 2 < f3 then none
    else
      let r := rvCmp M f3 a b
      some ((h.setX rd (if r.1 then 1#64 else 0#64)).raise r.2)
  | 0x18 => do
    let rm ← rvMode h w
    if 3 < rs2 then none
    let r := rvToInt M rm iw (rs2 % 2 == 0) a
    some ((h.setX rd (rvSx iw r.1)).raise r.2)
  | 0x1A => do
    let rm ← rvMode h w
    if 3 < rs2 then none
    let y := x.toNat % 2 ^ iw
    some (rvFloatTo h M rd (rvOfInt M rm (if rs2 % 2 == 0 then (BitVec.ofNat iw y).toInt else (y : Int))))
  | 0x1C =>
    if rs2 != 0 then none
    else if f3 == 0 then
      some (h.setX rd (rvSx (rvWidth M) ((h.get (33 + bitsOf w 19 15)).toNat % 2 ^ rvWidth M)))
    else if f3 == 1 then some (h.setX rd (BitVec.ofNat 64 (rvClass M a)))
    else none
  | 0x1E => if rs2 != 0 || f3 != 0 then none else some (h.setF M rd (x.toNat % 2 ^ rvWidth M))
  | _ => none

/-! ### Compressed forms -/

/-- The 32-bit forms that the compressed ones stand for. -/
def rvEncI (imm rs1 f3 rd op : Nat) : Nat := imm % 4096 * 1048576 + rs1 * 32768 + f3 * 4096 + rd * 128 + op
def rvEncS (imm rs2 rs1 f3 op : Nat) : Nat :=
  imm / 32 % 128 * 33554432 + rs2 * 1048576 + rs1 * 32768 + f3 * 4096 + imm % 32 * 128 + op
def rvEncR (f7 rs2 rs1 f3 rd op : Nat) : Nat := f7 * 33554432 + rs2 * 1048576 + rs1 * 32768 + f3 * 4096 + rd * 128 + op
def rvEncB (imm rs2 rs1 f3 : Nat) : Nat :=
  bitsOf imm 12 12 * 2 ^ 31 + bitsOf imm 10 5 * 2 ^ 25 + rs2 * 2 ^ 20 + rs1 * 2 ^ 15 + f3 * 2 ^ 12 + bitsOf imm 4 1 * 256 +
    bitsOf imm 11 11 * 128 + 0x63
def rvEncJ (imm rd : Nat) : Nat :=
  bitsOf imm 20 20 * 2 ^ 31 + bitsOf imm 10 1 * 2 ^ 21 + bitsOf imm 11 11 * 2 ^ 20 + bitsOf imm 19 12 * 4096 + rd * 128 + 0x6F

/-- A signed field of n bits as a field of 21. -/
def rvWiden (n x : Nat) : Nat := ((BitVec.ofNat n x).signExtend 21).toNat

/-- The instruction of 32 bits that a compressed one stands for; reserved ones stand for none. -/
def rvExpand (c : Nat) : Option Nat :=
  let r1 := bitsOf c 11 7
  let r2 := bitsOf c 6 2
  let p1 := 8 + bitsOf c 9 7
  let p2 := 8 + bitsOf c 4 2
  let imm6 := rvWiden 6 (bitsOf c 12 12 * 32 + bitsOf c 6 2)
  let sh := bitsOf c 12 12 * 32 + bitsOf c 6 2
  let offD := bitsOf c 12 10 * 8 + bitsOf c 6 5 * 64
  let offW := bitsOf c 12 10 * 8 + bitsOf c 6 6 * 4 + bitsOf c 5 5 * 64
  let jump := rvWiden 12 (bitsOf c 12 12 * 2048 + bitsOf c 11 11 * 16 + bitsOf c 10 9 * 256 + bitsOf c 8 8 * 1024 +
    bitsOf c 7 7 * 64 + bitsOf c 6 6 * 128 + bitsOf c 5 3 * 2 + bitsOf c 2 2 * 32)
  let branch := rvWiden 9 (bitsOf c 12 12 * 256 + bitsOf c 11 10 * 8 + bitsOf c 6 5 * 64 + bitsOf c 4 3 * 2 + bitsOf c 2 2 * 32)
  match bitsOf c 1 0, bitsOf c 15 13 with
  | 0, 0 =>
    let u := bitsOf c 12 11 * 16 + bitsOf c 10 7 * 64 + bitsOf c 6 6 * 4 + bitsOf c 5 5 * 8
    if u == 0 then none else some (rvEncI u 2 0 p2 0x13)
  | 0, 1 => some (rvEncI offD p1 3 p2 0x07)
  | 0, 2 => some (rvEncI offW p1 2 p2 0x03)
  | 0, 3 => some (rvEncI offD p1 3 p2 0x03)
  | 0, 5 => some (rvEncS offD p2 p1 3 0x27)
  | 0, 6 => some (rvEncS offW p2 p1 2 0x23)
  | 0, 7 => some (rvEncS offD p2 p1 3 0x23)
  | 1, 0 => some (rvEncI imm6 r1 0 r1 0x13)
  | 1, 1 => if r1 == 0 then none else some (rvEncI imm6 r1 0 r1 0x1B)
  | 1, 2 => some (rvEncI imm6 0 0 r1 0x13)
  | 1, 3 =>
    if r1 == 2 then
      let u := rvWiden 10 (bitsOf c 12 12 * 512 + bitsOf c 6 6 * 16 + bitsOf c 5 5 * 64 + bitsOf c 4 3 * 128 + bitsOf c 2 2 * 32)
      if u == 0 then none else some (rvEncI u 2 0 2 0x13)
    else if imm6 == 0 then none
    else some (imm6 % 2 ^ 20 * 4096 + r1 * 128 + 0x37)
  | 1, 4 =>
    match bitsOf c 11 10 with
    | 0 => some (rvEncI sh p1 5 p1 0x13)
    | 1 => some (rvEncI (1024 + sh) p1 5 p1 0x13)
    | 2 => some (rvEncI imm6 p1 7 p1 0x13)
    | _ => match bitsOf c 12 12, bitsOf c 6 5 with
      | 0, 0 => some (rvEncR 0x20 p2 p1 0 p1 0x33)
      | 0, 1 => some (rvEncR 0 p2 p1 4 p1 0x33)
      | 0, 2 => some (rvEncR 0 p2 p1 6 p1 0x33)
      | 0, 3 => some (rvEncR 0 p2 p1 7 p1 0x33)
      | 1, 0 => some (rvEncR 0x20 p2 p1 0 p1 0x3B)
      | 1, 1 => some (rvEncR 0 p2 p1 0 p1 0x3B)
      | _, _ => none
  | 1, 5 => some (rvEncJ jump 0)
  | 1, 6 => some (rvEncB branch 0 p1 0)
  | 1, 7 => some (rvEncB branch 0 p1 1)
  | 2, 0 => some (rvEncI sh r1 1 r1 0x13)
  | 2, 1 => some (rvEncI (bitsOf c 12 12 * 32 + bitsOf c 6 5 * 8 + bitsOf c 4 2 * 64) 2 3 r1 0x07)
  | 2, 2 =>
    if r1 == 0 then none else some (rvEncI (bitsOf c 12 12 * 32 + bitsOf c 6 4 * 4 + bitsOf c 3 2 * 64) 2 2 r1 0x03)
  | 2, 3 =>
    if r1 == 0 then none else some (rvEncI (bitsOf c 12 12 * 32 + bitsOf c 6 5 * 8 + bitsOf c 4 2 * 64) 2 3 r1 0x03)
  | 2, 4 =>
    if bitsOf c 12 12 == 0 then
      if r2 == 0 then (if r1 == 0 then none else some (rvEncI 0 r1 0 0 0x67)) else some (rvEncR 0 r2 0 0 r1 0x33)
    else if r2 == 0 then (if r1 == 0 then some 0x00100073 else some (rvEncI 0 r1 0 1 0x67))
    else some (rvEncR 0 r2 r1 0 r1 0x33)
  | 2, 5 => some (rvEncS (bitsOf c 12 10 * 8 + bitsOf c 9 7 * 64) r2 2 3 0x27)
  | 2, 6 => some (rvEncS (bitsOf c 12 9 * 4 + bitsOf c 8 7 * 64) r2 2 2 0x23)
  | 2, 7 => some (rvEncS (bitsOf c 12 10 * 8 + bitsOf c 9 7 * 64) r2 2 3 0x23)
  | _, _ => none

/-! ### The scalar instructions -/

/-- The bytes and the sign of a load. -/
def rvLoadForm (f3 : Nat) : Option (Nat × Bool) :=
  if f3 < 4 then some (2 ^ f3, true) else if f3 < 7 then some (2 ^ (f3 - 4), false) else none

/-- A scalar instruction of 32 bits, `len` bytes long as it was fetched. -/
def rvScalar (im : List Byte) (h : Rv) (w len : Nat) : Option Rv := do
  let rd := bitsOf w 11 7
  let f3 := bitsOf w 14 12
  let f7 := bitsOf w 31 25
  let x := h.x (bitsOf w 19 15)
  let y := h.x (bitsOf w 24 20)
  let next := h.pc + BitVec.ofNat 64 len
  let on := fun h : Rv => h.goto next
  match bitsOf w 6 0 with
  | 0x37 => some (on (h.setX rd (rvImmU w)))
  | 0x17 => some (on (h.setX rd (h.pc + rvImmU w)))
  | 0x6F => some ((h.setX rd next).goto (h.pc + rvImmJ w))
  | 0x67 => if f3 != 0 then none else some ((h.setX rd next).goto ((x + rvImmI w) &&& ~~~1#64))
  | 0x63 => do
    let t ← rvTaken f3 x y
    some (h.goto (if t then h.pc + rvImmB w else next))
  | 0x03 => do
    let (n, sgnd) ← rvLoadForm f3
    let v ← h.load im (x + rvImmI w).toNat n
    some (on (h.setX rd (if sgnd then rvSx (8 * n) v else BitVec.ofNat 64 v)))
  | 0x23 => if 3 < f3 then none else (h.store im (x + rvImmS w).toNat (2 ^ f3) y.toNat).map on
  | 0x13 =>
    let i := rvImmI w
    let sh := bitsOf w 25 20
    (if f3 == 1 || f3 == 5 then rvIntOp (bitsOf w 31 26 * 2) f3 x i sh else rvIntOp 0 f3 x i 0).map (fun z => on (h.setX rd z))
  | 0x1B =>
    let a : BitVec 32 := x.setWidth 32
    let z := match f3 with
      | 0 => rvIntOp 0 0 a ((rvImmI w).setWidth 32) 0
      | 1 => if f7 == 0 then rvIntOp 0 1 a 0 (bitsOf w 24 20) else none
      | 5 => if f7 == 0 || f7 == 0x20 then rvIntOp f7 5 a 0 (bitsOf w 24 20) else none
      | _ => none
    z.map (fun z => on (h.setX rd (z.signExtend 64)))
  | 0x33 => (rvIntOp f7 f3 x y (y.toNat % 64)).map (fun z => on (h.setX rd z))
  | 0x3B =>
    if rvHasWord f7 f3 then
      (rvIntOp f7 f3 (x.setWidth 32) (y.setWidth 32) (y.toNat % 32)).map (fun z => on (h.setX rd (z.signExtend 64)))
    else none
  | 0x2F => (rvAtomic im h w).map on
  | 0x0F => if f3 < 2 then some (on h) else none
  | 0x73 => if f3 == 0 || f3 == 4 then none else (rvCsrOp h w).map on
  | 0x07 => do
    if f3 != 2 && f3 != 3 then none
    let v ← h.load im (x + rvImmI w).toNat (2 ^ f3)
    some (on (h.setF (if f3 == 2 then 23 else 52) rd v))
  | 0x27 => if f3 != 2 && f3 != 3 then none else (h.store im (x + rvImmS w).toNat (2 ^ f3) ((h.get (33 + bitsOf w 24 20)).toNat)).map on
  | 0x43 | 0x47 | 0x4B | 0x4F => (rvFused h w).map on
  | 0x53 => (rvFloatOp h w).map on
  | _ => none

end Sys2Proof.Machine
end

