-- ==== Sys2Proof/Machine/RvVector.lean ====
section
/-! DEFINITION. The transform core's V extension, VLEN 512 and ELEN 64 (R290), after the RISC-V manual, which the spec names
and does not give (PRESUMED; assumption 41).  A reserved form is an illegal instruction, which is an exception, `none`. -/

namespace Sys2Proof.Machine

/-! ### The vector configuration -/

/-- The element width in bits, and LMUL as eighths. -/
def rvSew (vtype : Nat) : Nat := 8 * 2 ^ bitsOf vtype 5 3
def rvLmul8 (vtype : Nat) : Nat :=
  let k := bitsOf vtype 2 0
  if k < 4 then 8 * 2 ^ k else 2 ^ (k - 5)
/-- The elements of a register group of `l8` eighths at a width. -/
def rvGroup (l8 sew : Nat) : Nat := 64 * l8 / sew
/-- The greatest vector length of a vtype. -/
def rvVlmax (vtype : Nat) : Nat := rvGroup (rvLmul8 vtype) (rvSew vtype)
/-- A vtype the core has: no reserved bit, LMUL not reserved, SEW at most 64 and at most LMUL times ELEN. -/
def rvTypeOk (vtype : Nat) : Bool :=
  vtype < 256 && bitsOf vtype 2 0 != 4 && rvSew vtype ≤ 64 && decide (8 * rvSew vtype ≤ 64 * rvLmul8 vtype)
/-- The vtype of an illegal configuration. -/
def rvVill : Nat := 2 ^ 63

/-- vl of an application vector length: within VLMAX all of it, from twice VLMAX on VLMAX, between them what the core
chooses. -/
def rvChooseVl (avl vlmax : Nat) : Nat :=
  if avl ≤ vlmax then avl
  else if 2 * vlmax ≤ avl then vlmax
  else
    let c := (avl + 1) / 2
    c + Config.routineVl avl vlmax % (vlmax - c + 1)

/-- VSETVLI, VSETIVLI and VSETVL. -/
def rvSetVl (h : Rv) (w : Nat) : Option Rv := do
  let rd := bitsOf w 11 7
  let rs := bitsOf w 19 15
  let immediate := bitsOf w 31 30 == 3
  let vtype ← if immediate then some (bitsOf w 29 20)
    else if bitsOf w 31 31 == 0 then some (bitsOf w 30 20)
    else if bitsOf w 30 25 == 0 then some (h.x (bitsOf w 24 20)).toNat
    else none
  let max := rvVlmax vtype
  let kept := !immediate && rs == 0 && rd == 0
  let ok := rvTypeOk vtype && (!kept || (h.csr 3 < 256 && rvVlmax (h.csr 3) == max))
  let avl := if immediate then rs else if rs != 0 then (h.x rs).toNat else if rd != 0 then max else h.csr 2
  let vl := if ok then rvChooseVl avl max else 0
  some ((((h.setCsr 3 (if ok then vtype else rvVill)).setCsr 2 vl).setCsr 1 0).setX rd (BitVec.ofNat 64 vl))

/-! ### Elements and masks -/

/-- Element i of the group at register r, at a width. -/
def Rv.el (h : Rv) (r sew i : Nat) : Nat :=
  (h.get (73 + 8 * r + i * sew / 64)).toNat / 2 ^ (i * sew % 64) % 2 ^ sew
/-- The same element written. -/
def Rv.setEl (h : Rv) (r sew i x : Nat) : Rv :=
  let k := 73 + 8 * r + i * sew / 64
  let sh := i * sew % 64
  let hole : DWord := ~~~(BitVec.ofNat 64 ((2 ^ sew - 1) * 2 ^ sh))
  h.put k ((h.get k &&& hole) ||| BitVec.ofNat 64 (x % 2 ^ sew * 2 ^ sh))
/-- Bit i of the mask in register r. -/
def Rv.bit (h : Rv) (r i : Nat) : Bool := h.el r 1 i == 1
/-- A signed element. -/
def rvInt (sew x : Nat) : Int := (BitVec.ofNat sew x).toInt
/-- An integer as an element. -/
def rvPat (sew : Nat) (z : Int) : Nat := (z % (2 ^ sew : Nat)).toNat

/-- What a vector instruction works under: vl, vstart, SEW, LMUL in eighths, the policies, and whether it is masked. -/
structure RvV where
  vl     : Nat
  start  : Nat
  sew    : Nat
  l8     : Nat
  tailA  : Bool
  maskA  : Bool
  masked : Bool
  deriving DecidableEq, Repr

/-- The configuration of a vector instruction; none where vtype is illegal. -/
def rvConfig (h : Rv) (w : Nat) : Option RvV :=
  let t := h.csr 3
  if t < 256 && rvTypeOk t then
    some ⟨h.csr 2, h.csr 1, rvSew t, rvLmul8 t, bitsOf t 6 6 == 1, bitsOf t 7 7 == 1, bitsOf w 25 25 == 0⟩
  else none

/-- Element i is active. -/
def RvV.active (v : RvV) (h : Rv) (i : Nat) : Bool := !v.masked || h.bit 0 i

/-- The registers of a group of `l8` eighths. -/
def rvRegs (l8 : Nat) : Nat := max 1 (l8 / 8)
/-- A group at register r is aligned and inside the register file. -/
def rvGroupOk (l8 r : Nat) : Bool := l8 ≤ 64 && 0 < l8 && r % rvRegs l8 == 0 && r + rvRegs l8 ≤ 32
/-- Two groups share a register. -/
def rvMeet (a la b lb : Nat) : Bool := decide (a < b + rvRegs lb) && decide (b < a + rvRegs la)
/-- A source group of another width may overlap the destination: not where the destination is wider, but in its last part from a
source of at least one register; not where it is narrower, but in the lowest part. -/
def rvOverlapOk (d ld ed s ls es : Nat) : Bool :=
  !rvMeet d ld s ls || ed == es || (if es < ed then 8 ≤ ls && s + rvRegs ls == d + rvRegs ld else s == d)

/-- What becomes of a destination element that no active element gives: undisturbed, or ones where the policy allows. -/
def rvRest (h : Rv) (agnostic : Bool) (old sew i : Nat) : Nat :=
  if agnostic && Config.routineOnes h.st i then 2 ^ sew - 1 else old

/-- A destination group written element by element from the state before: `f` gives the new value of an active element
with its flags and saturation. -/
def rvMap (h : Rv) (v : RvV) (d ed ld : Nat) (f : Nat → Nat × Nat × Bool) : Rv :=
  let n := rvGroup (max ld 8) ed
  let r := (List.range n).foldl (fun (r : Rv × Nat × Bool) i =>
    let old := h.el d ed i
    if i < v.start then r
    else if i < v.vl then
      if v.active h i then
        let x := f i
        (r.1.setEl d ed i x.1, r.2.1 ||| x.2.1, r.2.2 || x.2.2)
      else (r.1.setEl d ed i (rvRest h v.maskA old ed i), r.2)
    else (if v.vl == 0 || v.vl ≤ v.start then r.1 else r.1.setEl d ed i (rvRest h v.tailA old ed i), r.2)) (h, 0, false)
  let h1 := r.1.raise r.2.1
  (if r.2.2 then h1.setFixed 1 (h1.csr 5) else h1).setCsr 1 0

/-- A mask written bit by bit; its tail is always agnostic. -/
def rvMapMask (h : Rv) (v : RvV) (d : Nat) (f : Nat → Bool × Nat) : Rv :=
  let r := (List.range 512).foldl (fun (r : Rv × Nat) i =>
    let old := h.el d 1 i
    if i < v.start then r
    else if i < v.vl then
      if v.active h i then
        let x := f i
        (r.1.setEl d 1 i (if x.1 then 1 else 0), r.2 ||| x.2)
      else (r.1.setEl d 1 i (rvRest h v.maskA old 1 i), r.2)
    else (if v.vl == 0 || v.vl ≤ v.start then r.1 else r.1.setEl d 1 i (rvRest h true old 1 i), r.2)) (h, 0)
  (r.1.raise r.2).setCsr 1 0

/-- Element 0 of a register written, the rest of it tail; nothing where vl is 0 or vstart has passed it. -/
def rvPutFirst (h : Rv) (v : RvV) (d x fl : Nat) (sew : Nat) : Rv :=
  if v.vl == 0 || v.vl ≤ v.start then h.setCsr 1 0
  else ((rvMap h { v with vl := 1, masked := false } d sew 8 (fun _ => (x, 0, false))).raise fl).setCsr 1 0

/-! ### Fixed point -/

/-- What rounding adds to x shifted right by d. -/
def rvRoundBit (rm : Nat) (x : Int) (d : Nat) : Int :=
  if d == 0 then 0
  else
    let rem := x % (2 ^ d : Nat)
    let half : Int := (2 ^ (d - 1) : Nat)
    match rm with
    | 0 => if half ≤ rem then 1 else 0
    | 1 => if half < rem || (rem == half && x / (2 ^ d : Nat) % 2 == 1) then 1 else 0
    | 2 => 0
    | _ => if rem != 0 && x / (2 ^ d : Nat) % 2 == 0 then 1 else 0
/-- x shifted right by d and rounded by vxrm. -/
def rvScale (rm : Nat) (x : Int) (d : Nat) : Int := x / (2 ^ d : Nat) + rvRoundBit rm x d
/-- A number clamped to a width, and whether it was. -/
def rvClamp (sgnd : Bool) (sew : Nat) (z : Int) : Nat × Bool :=
  let lo : Int := if sgnd then -(2 ^ (sew - 1) : Nat) else 0
  let hi : Int := if sgnd then (2 ^ (sew - 1) : Nat) - 1 else (2 ^ sew : Nat) - 1
  (rvPat sew (max lo (min hi z)), z < lo || hi < z)

/-! ### Integer arithmetic: OPI -/

/-- Single-width operations of OPIVV, OPIVX and OPIVI on vs2's element x and the other operand y, with the shift amount's bits
taken from y; their form may exclude V, X or I, by the bits 1, 2 and 4. -/
def rvOpi (f6 sew rm x y : Nat) : Option ((Nat × Bool) × Nat) :=
  let s := rvInt sew
  let p := rvPat sew
  let sh := y % sew
  let plain := fun (z : Int) (forms : Nat) => some ((p z, false), forms)
  match f6 with
  | 0x00 => plain (x + y) 7
  | 0x02 => plain ((x : Int) - y) 3
  | 0x03 => plain ((y : Int) - x) 6
  | 0x04 => plain (min x y) 3
  | 0x05 => plain (min (s x) (s y)) 3
  | 0x06 => plain (max x y) 3
  | 0x07 => plain (max (s x) (s y)) 3
  | 0x09 => plain (x &&& y) 7
  | 0x0A => plain (x ||| y) 7
  | 0x0B => plain (x ^^^ y) 7
  | 0x20 => some (rvClamp false sew (x + y), 7)
  | 0x21 => some (rvClamp true sew (s x + s y), 7)
  | 0x22 => some (rvClamp false sew ((x : Int) - y), 3)
  | 0x23 => some (rvClamp true sew (s x - s y), 3)
  | 0x25 => plain (x * 2 ^ sh) 7
  | 0x27 => some (rvClamp true sew (rvScale rm (s x * s y) (sew - 1)), 3)
  | 0x28 => plain (x / 2 ^ sh) 7
  | 0x29 => plain (s x / (2 ^ sh : Nat)) 7
  | 0x2A => plain (rvScale rm x sh) 7
  | 0x2B => plain (rvScale rm (s x) sh) 7
  | _ => none

/-- Narrowing shifts and clips of OPI: vs2's element x has twice the width. -/
def rvOpiNarrow (f6 sew rm x y : Nat) : Option (Nat × Bool) :=
  let sh := y % (2 * sew)
  let s := rvInt (2 * sew) x
  match f6 with
  | 0x2C => some (x / 2 ^ sh % 2 ^ sew, false)
  | 0x2D => some (rvPat sew (s / (2 ^ sh : Nat)), false)
  | 0x2E => some (rvClamp false sew (rvScale rm x sh))
  | 0x2F => some (rvClamp true sew (rvScale rm s sh))
  | _ => none

/-- Integer comparisons of OPI, with the forms they have. -/
def rvOpiCmp (f6 sew x y : Nat) : Option (Bool × Nat) :=
  let s := rvInt sew
  match f6 with
  | 0x18 => some (x == y, 7)
  | 0x19 => some (x != y, 7)
  | 0x1A => some (decide (x < y), 3)
  | 0x1B => some (decide (s x < s y), 3)
  | 0x1C => some (decide (x ≤ y), 7)
  | 0x1D => some (decide (s x ≤ s y), 7)
  | 0x1E => some (decide (y < x), 6)
  | 0x1F => some (decide (s y < s x), 6)
  | _ => none

/-- The other operand of an instruction: vs1's element, the x register, or the immediate, by funct3. -/
def rvOther (h : Rv) (w sew i : Nat) : Nat :=
  let k := bitsOf w 19 15
  match bitsOf w 14 12 with
  | 4 | 6 => (h.x k).toNat % 2 ^ sew
  | 3 => rvPat sew (BitVec.ofNat 5 k).toInt
  | _ => h.el k sew i

/-- The form of an OPI instruction, as a bit of three. -/
def rvForm (w : Nat) : Nat := if bitsOf w 14 12 == 0 then 1 else if bitsOf w 14 12 == 4 then 2 else 4

/-- The source groups of a single-width instruction are good, vs1 where it is a vector. -/
def rvSrcOk (w l8 : Nat) : Bool :=
  rvGroupOk l8 (bitsOf w 24 20) && (bitsOf w 14 12 ≥ 3 || rvGroupOk l8 (bitsOf w 19 15))
/-- A masked destination does not overlap the mask. -/
def rvDstOk (v : RvV) (l8 d : Nat) : Bool := rvGroupOk l8 d && !(v.masked && d == 0)

/-- A slide upwards by k: element i comes from element i - k, those below k stay. -/
def rvSlideUp (h : Rv) (v : RvV) (d s k : Nat) : Rv :=
  rvMap h { v with start := max v.start (min k v.vl) } d v.sew v.l8 (fun i => (h.el s v.sew (i - k), 0, false))
/-- A slide downwards by k: element i comes from element i + k, or is 0 beyond VLMAX. -/
def rvSlideDown (h : Rv) (v : RvV) (d s k : Nat) : Rv :=
  rvMap h v d v.sew v.l8 (fun i => (if i + k < rvGroup v.l8 v.sew then h.el s v.sew (i + k) else 0, 0, false))

/-- Gathers: the element of vs2 an index names, or 0. -/
def rvGather (h : Rv) (v : RvV) (d s : Nat) (idx : Nat → Nat) : Rv :=
  rvMap h v d v.sew v.l8 (fun i => (if idx i < rvGroup v.l8 v.sew then h.el s v.sew (idx i) else 0, 0, false))

/-- OPIVV, OPIVX, OPIVI. -/
def rvOpiExec (h : Rv) (w : Nat) : Option Rv := do
  let v ← rvConfig h w
  let f6 := bitsOf w 31 26
  let f3 := bitsOf w 14 12
  let d := bitsOf w 11 7
  let s2 := bitsOf w 24 20
  let s1 := bitsOf w 19 15
  let rm := h.csr 5 % 4
  let sew := v.sew
  let form := rvForm w
  let y := rvOther h w sew
  -- the index or shift of a scalar or immediate form, not cut to SEW
  let k := if f3 == 4 then (h.x s1).toNat else s1
  let same := rvDstOk v v.l8 d && rvSrcOk w v.l8
  let apart := !rvMeet d v.l8 s2 v.l8
  match f6 with
  | 0x0C =>
    if f3 == 0 then
      if same && apart && !rvMeet d v.l8 s1 v.l8 then some (rvGather h v d s2 y) else none
    else if same && apart then some (rvGather h v d s2 (fun _ => k)) else none
  | 0x0E =>
    if f3 == 0 then
      let li := 16 * v.l8 / sew
      if rvDstOk v v.l8 d && rvGroupOk v.l8 s2 && rvGroupOk li s1 && apart && !rvMeet d v.l8 s1 li then
        some (rvGather h v d s2 (fun i => h.el s1 16 i))
      else none
    else if same && apart then some (rvSlideUp h v d s2 k) else none
  | 0x0F => if f3 != 0 && same then some (rvSlideDown h v d s2 k) else none
  | 0x10 =>
    if v.masked && d != 0 && rvGroupOk v.l8 d && rvSrcOk w v.l8 then
      some (rvMap h { v with masked := false } d sew v.l8 (fun i =>
        ((h.el s2 sew i + y i + (if h.bit 0 i then 1 else 0)) % 2 ^ sew, 0, false)))
    else none
  | 0x12 =>
    if f3 != 3 && v.masked && d != 0 && rvGroupOk v.l8 d && rvSrcOk w v.l8 then
      some (rvMap h { v with masked := false } d sew v.l8 (fun i =>
        (rvPat sew ((h.el s2 sew i : Int) - y i - (if h.bit 0 i then 1 else 0)), 0, false)))
    else none
  | 0x11 =>
    if rvSrcOk w v.l8 && (rvOverlapOk d 8 1 s2 v.l8 sew && (f3 != 0 || rvOverlapOk d 8 1 s1 v.l8 sew)) then
      some (rvMapMask h { v with masked := false } d (fun i =>
        (decide (2 ^ sew ≤ h.el s2 sew i + y i + (if v.masked && h.bit 0 i then 1 else 0)), 0)))
    else none
  | 0x13 =>
    if f3 != 3 && rvSrcOk w v.l8 && (rvOverlapOk d 8 1 s2 v.l8 sew && (f3 != 0 || rvOverlapOk d 8 1 s1 v.l8 sew)) then
      some (rvMapMask h { v with masked := false } d (fun i =>
        (decide (h.el s2 sew i < y i + (if v.masked && h.bit 0 i then 1 else 0)), 0)))
    else none
  | 0x17 =>
    if v.masked then
      if d != 0 && rvGroupOk v.l8 d && rvSrcOk w v.l8 then
        some (rvMap h { v with masked := false } d sew v.l8 (fun i =>
          (if h.bit 0 i then y i else h.el s2 sew i, 0, false)))
      else none
    else if s2 == 0 && rvGroupOk v.l8 d && (f3 != 0 || rvGroupOk v.l8 s1) then
      some (rvMap h v d sew v.l8 (fun i => (y i, 0, false)))
    else none
  | 0x30 | 0x31 =>
    -- VWREDSUMU, VWREDSUM: the sum has twice the width
    if f3 == 0 && v.start == 0 && sew ≤ 32 && rvGroupOk v.l8 s2 then
      let of := fun n x => if f6 == 0x31 then rvInt n x else (x : Int)
      let z := (List.range v.vl).foldl (fun z i => if v.active h i then z + of sew (h.el s2 sew i) else z)
        (of (2 * sew) (h.el s1 (2 * sew) 0))
      some (rvPutFirst h v d (rvPat (2 * sew) z) 0 (2 * sew))
    else none
  | _ =>
    if f6 == 0x27 && f3 == 3 then none
    else if (rvOpiCmp f6 sew 0 0).any (fun c => c.2 / form % 2 == 1) then
      if rvSrcOk w v.l8 && rvOverlapOk d 8 1 s2 v.l8 sew && (f3 != 0 || rvOverlapOk d 8 1 s1 v.l8 sew) then
        some (rvMapMask h v d (fun i => (((rvOpiCmp f6 sew (h.el s2 sew i) (y i)).map Prod.fst).getD false, 0)))
      else none
    else if (rvOpiNarrow f6 sew rm 0 0).isSome then
      -- a shift amount is an unsigned immediate, of the double width
      let a := fun i => if f3 == 3 then s1 else if f3 == 4 then k else h.el s1 sew i
      if sew ≤ 32 && rvDstOk v v.l8 d && rvGroupOk (2 * v.l8) s2 && (f3 != 0 || rvGroupOk v.l8 s1) &&
          rvOverlapOk d v.l8 sew s2 (2 * v.l8) (2 * sew) then
        some (rvMap h v d sew v.l8 (fun i =>
          let r := (rvOpiNarrow f6 sew rm (h.el s2 (2 * sew) i) (a i)).getD (0, false)
          (r.1, 0, r.2)))
      else none
    else if (rvOpi f6 sew rm 0 0).any (fun c => c.2 / form % 2 == 1) then
      -- a shift amount is an unsigned immediate
      let a := fun i => if f3 == 3 && (f6 == 0x25 || (0x28 ≤ f6 && f6 ≤ 0x2B)) then s1 else y i
      if same then
        some (rvMap h v d sew v.l8 (fun i =>
          let r := ((rvOpi f6 sew rm (h.el s2 sew i) (a i)).map Prod.fst).getD (0, false)
          (r.1, 0, r.2)))
      else none
    else none

/-- VMV<n>R: whole registers moved, from element vstart on. -/
def rvMoveRegs (h : Rv) (w : Nat) : Option Rv := do
  let d := bitsOf w 11 7
  let s := bitsOf w 24 20
  let n := bitsOf w 19 15 + 1
  let v ← rvConfig h w
  let sew := v.sew
  if !(n == 1 || n == 2 || n == 4 || n == 8) || d % n != 0 || s % n != 0 || v.masked then none
  some (((List.range (n * 512 / sew)).foldl (fun r i =>
    if i < h.csr 1 then r else r.setEl d sew i (h.el s sew i)) h).setCsr 1 0)

/-! ### Integer arithmetic: OPM -/

/-- Single-width operations of OPM on vs2's x, the other operand y and the destination's old value. -/
def rvOpm (f6 sew rm x y old : Nat) : Option Nat :=
  let s := rvInt sew
  let p := rvPat sew
  match f6 with
  | 0x08 => some (p (rvScale rm (x + y) 1))
  | 0x09 => some (p (rvScale rm (s x + s y) 1))
  | 0x0A => some (p (rvScale rm ((x : Int) - y) 1))
  | 0x0B => some (p (rvScale rm (s x - s y) 1))
  | 0x20 => some (if y == 0 then 2 ^ sew - 1 else x / y)
  | 0x21 => some (if y == 0 then 2 ^ sew - 1 else p ((s x).tdiv (s y)))
  | 0x22 => some (if y == 0 then x else x % y)
  | 0x23 => some (if y == 0 then x else p ((s x).tmod (s y)))
  | 0x24 => some (x * y / 2 ^ sew)
  | 0x25 => some (p (s x * s y))
  | 0x26 => some (p (s x * y / (2 ^ sew : Nat)))
  | 0x27 => some (p (s x * s y / (2 ^ sew : Nat)))
  | 0x29 => some (p (s y * s old + s x))
  | 0x2B => some (p (s x - s y * s old))
  | 0x2D => some (p (s y * s x + s old))
  | 0x2F => some (p (s old - s y * s x))
  | _ => none

/-- Widening operations of OPM: x of one width (or two, for the .w forms), y of one, the result of two. -/
def rvOpmWide (f6 sew x y old : Nat) : Option Nat :=
  let s := rvInt sew
  let p := rvPat (2 * sew)
  let sw := rvInt (2 * sew)
  match f6 with
  | 0x30 => some (p (x + y))
  | 0x31 => some (p (s x + s y))
  | 0x32 => some (p ((x : Int) - y))
  | 0x33 => some (p (s x - s y))
  | 0x34 => some (p (x + y))
  | 0x35 => some (p (sw x + s y))
  | 0x36 => some (p ((x : Int) - y))
  | 0x37 => some (p (sw x - s y))
  | 0x38 => some (p (x * y))
  | 0x3A => some (p (s x * y))
  | 0x3B => some (p (s x * s y))
  | 0x3C => some (p (x * y + old))
  | 0x3D => some (p (s x * s y + old))
  | 0x3E => some (p (y * s x + old))
  | 0x3F => some (p (s y * x + old))
  | _ => none

/-- The reductions of OPM. -/
def rvReduce (f6 sew a x : Nat) : Option Nat :=
  let s := rvInt sew
  match f6 with
  | 0 => some ((a + x) % 2 ^ sew)
  | 1 => some (a &&& x)
  | 2 => some (a ||| x)
  | 3 => some (a ^^^ x)
  | 4 => some (min a x)
  | 5 => some (rvPat sew (min (s a) (s x)))
  | 6 => some (max a x)
  | 7 => some (rvPat sew (max (s a) (s x)))
  | _ => none

/-- The logical operations on masks. -/
def rvMaskOp (f6 : Nat) (a b : Bool) : Option Bool :=
  match f6 with
  | 0x18 => some (a && !b)
  | 0x19 => some (a && b)
  | 0x1A => some (a || b)
  | 0x1B => some (a != b)
  | 0x1C => some (a || !b)
  | 0x1D => some !(a && b)
  | 0x1E => some !(a || b)
  | 0x1F => some (a == b)
  | _ => none

/-- The active elements whose bit of a mask is set, lowest first. -/
def rvSetBits (h : Rv) (v : RvV) (s : Nat) : List Nat :=
  (List.range v.vl).filter (fun i => v.active h i && h.bit s i)

/-- VMSBF, VMSIF, VMSOF, VIOTA and VID, by vs1. -/
def rvMaskUnary (h : Rv) (v : RvV) (w : Nat) : Option Rv :=
  let d := bitsOf w 11 7
  let s := bitsOf w 24 20
  let first := (rvSetBits h v s).head?
  let apart := d != s && !(v.masked && d == 0)
  let below := fun i => match first with
    | some k => decide (i < k)
    | none => true
  match bitsOf w 19 15 with
  | 0x01 => if v.start == 0 && apart then some (rvMapMask h v d (fun i => (below i, 0))) else none
  | 0x02 => if v.start == 0 && apart then some (rvMapMask h v d (fun i => (first == some i, 0))) else none
  | 0x03 => if v.start == 0 && apart then some (rvMapMask h v d (fun i => (below i || first == some i, 0))) else none
  | 0x10 =>
    if v.start == 0 && rvDstOk v v.l8 d && !rvMeet d v.l8 s 8 then
      some (rvMap h v d v.sew v.l8 (fun i => (((rvSetBits h v s).filter (fun k => decide (k < i))).length % 2 ^ v.sew, 0, false)))
    else none
  | 0x11 => if s == 0 && rvDstOk v v.l8 d then some (rvMap h v d v.sew v.l8 (fun i => (i % 2 ^ v.sew, 0, false))) else none
  | _ => none

/-- VZEXT and VSEXT: an element of an eighth, a quarter or half the width. -/
def rvExtend (h : Rv) (v : RvV) (w : Nat) : Option Rv :=
  let d := bitsOf w 11 7
  let s := bitsOf w 24 20
  let k := bitsOf w 19 15
  if k < 2 || 7 < k then none
  else
    let part := 2 ^ (4 - k / 2)
    let n := v.sew / part
    let l := v.l8 / part
    if n < 8 || v.l8 % part != 0 || !rvDstOk v v.l8 d || !rvGroupOk l s || !rvOverlapOk d v.l8 v.sew s l n then none
    else some (rvMap h v d v.sew v.l8 (fun i =>
      let x := h.el s n i
      (if k % 2 == 1 then rvPat v.sew (rvInt n x) else x, 0, false)))

/-- A widening instruction: a source group of the double width, or of the single one, vs1 of the single one. -/
def rvWidenOk (v : RvV) (w : Nat) (wide vec : Bool) : Bool :=
  let d := bitsOf w 11 7
  let s2 := bitsOf w 24 20
  let s1 := bitsOf w 19 15
  v.sew ≤ 32 && rvDstOk v (2 * v.l8) d &&
  (if wide then rvGroupOk (2 * v.l8) s2 else rvGroupOk v.l8 s2 && rvOverlapOk d (2 * v.l8) (2 * v.sew) s2 v.l8 v.sew) &&
  (!vec || (rvGroupOk v.l8 s1 && rvOverlapOk d (2 * v.l8) (2 * v.sew) s1 v.l8 v.sew))

/-- OPMVV, OPMVX. -/
def rvOpmExec (h : Rv) (w : Nat) : Option Rv := do
  let v ← rvConfig h w
  let f6 := bitsOf w 31 26
  let vec := bitsOf w 14 12 == 2
  let d := bitsOf w 11 7
  let s2 := bitsOf w 24 20
  let s1 := bitsOf w 19 15
  let rm := h.csr 5 % 4
  let sew := v.sew
  let y := rvOther h w sew
  let same := rvDstOk v v.l8 d && rvGroupOk v.l8 s2 && (!vec || rvGroupOk v.l8 s1)
  match f6 with
  | 0x00 | 0x01 | 0x02 | 0x03 | 0x04 | 0x05 | 0x06 | 0x07 =>
    if vec && v.start == 0 && rvGroupOk v.l8 s2 then
      let z := (List.range v.vl).foldl (fun a i => if v.active h i then (rvReduce f6 sew a (h.el s2 sew i)).getD 0 else a)
        (h.el s1 sew 0)
      some (rvPutFirst h v d z 0 sew)
    else none
  | 0x0E =>
    if !vec && same && !rvMeet d v.l8 s2 v.l8 then
      some (rvMap h v d sew v.l8 (fun i => (if i == 0 then y 0 else h.el s2 sew (i - 1), 0, false)))
    else none
  | 0x0F =>
    if !vec && same then
      some (rvMap h v d sew v.l8 (fun i => (if i + 1 == v.vl then y 0 else h.el s2 sew (i + 1), 0, false)))
    else none
  | 0x10 =>
    if vec then
      match s1 with
      | 0x00 => if v.masked then none else some ((h.setX d (rvSx sew (h.el s2 sew 0))).setCsr 1 0)
      | 0x10 => if v.start != 0 then none else some (h.setX d (BitVec.ofNat 64 (rvSetBits h v s2).length))
      | 0x11 =>
        if v.start != 0 then none
        else some (h.setX d (match (rvSetBits h v s2).head? with
          | some i => BitVec.ofNat 64 i
          | none => BitVec.ofInt 64 (-1)))
      | _ => none
    else if s2 == 0 && !v.masked then some (rvPutFirst h v d (y 0) 0 sew)
    else none
  | 0x12 => if vec then rvExtend h v w else none
  | 0x14 => if vec then rvMaskUnary h v w else none
  | 0x17 =>
    if vec && !v.masked && v.start == 0 && rvGroupOk v.l8 d && rvGroupOk v.l8 s2 && !rvMeet d v.l8 s2 v.l8 && !rvMeet d v.l8 s1 8 then
      let from_ := (List.range v.vl).filter (h.bit s1)
      some (rvMap h { v with vl := if v.vl == 0 then 0 else rvGroup (max v.l8 8) sew } d sew v.l8 (fun i =>
        (match from_[i]? with
          | some k => h.el s2 sew k
          | none => rvRest h v.tailA (h.el d sew i) sew i, 0, false)))
    else none
  | _ =>
    if (rvMaskOp f6 false false).isSome then
      if vec && !v.masked then
        some (rvMapMask h v d (fun i => ((rvMaskOp f6 (h.bit s2 i) (h.bit s1 i)).getD false, 0)))
      else none
    else if (rvOpmWide f6 sew 0 0 0).isSome then
      let wide := 0x34 ≤ f6 && f6 ≤ 0x37
      if (f6 == 0x3E && vec) || !rvWidenOk v w wide vec then none
      else some (rvMap h v d (2 * sew) (2 * v.l8) (fun i =>
        ((rvOpmWide f6 sew (h.el s2 (if wide then 2 * sew else sew) i) (y i) (h.el d (2 * sew) i)).getD 0, 0, false)))
    else if (rvOpm f6 sew rm 0 0 0).isSome then
      if same then
        some (rvMap h v d sew v.l8 (fun i => ((rvOpm f6 sew rm (h.el s2 sew i) (y i) (h.el d sew i)).getD 0, 0, false)))
      else none
    else none

/-! ### Floating point: OPF -/

/-- Single-width operations of OPF on vs2's x, the other operand y, and the old value. -/
def rvOpf (f6 M rm x y old : Nat) : Option (Nat × Nat) :=
  match f6 with
  | 0x00 => some (rvAdd M rm x y)
  | 0x02 => some (rvSub M rm x y)
  | 0x04 => some (rvMinMax M false x y)
  | 0x06 => some (rvMinMax M true x y)
  | 0x08 => some (rvSgnj M 0 x y, 0)
  | 0x09 => some (rvSgnj M 1 x y, 0)
  | 0x0A => some (rvSgnj M 2 x y, 0)
  | 0x20 => some (rvDiv M rm x y)
  | 0x24 => some (rvMul M rm x y)
  | 0x28 => some (rvFma M rm y old x)
  | 0x29 => some (rvFma M rm (rvFlip M y) old (rvFlip M x))
  | 0x2A => some (rvFma M rm y old (rvFlip M x))
  | 0x2B => some (rvFma M rm (rvFlip M y) old x)
  | 0x2C => some (rvFma M rm y x old)
  | 0x2D => some (rvFma M rm (rvFlip M y) x (rvFlip M old))
  | 0x2E => some (rvFma M rm y x (rvFlip M old))
  | 0x2F => some (rvFma M rm (rvFlip M y) x old)
  | _ => none

/-- Widening operations of OPF, from binary32 to binary64; x is already wide in the .w forms. -/
def rvOpfWide (f6 rm x y old : Nat) : Option (Nat × Nat) :=
  let wide := fun a => (rvConv 23 52 0 a).1
  let sg := rvSig 23 [x, y]
  let both := fun (r : Nat × Nat) => (r.1, r.2 ||| sg)
  let one := fun (r : Nat × Nat) => (r.1, r.2 ||| rvSig 23 [y])
  match f6 with
  | 0x30 => some (both (rvAdd 52 rm (wide x) (wide y)))
  | 0x32 => some (both (rvSub 52 rm (wide x) (wide y)))
  | 0x34 => some (one (rvAdd 52 rm x (wide y)))
  | 0x36 => some (one (rvSub 52 rm x (wide y)))
  | 0x38 => some (both (rvMul 52 rm (wide x) (wide y)))
  | 0x3C => some (both (rvFma 52 rm (wide y) (wide x) old))
  | 0x3D => some (both (rvFma 52 rm (rvFlip 52 (wide y)) (wide x) (rvFlip 52 old)))
  | 0x3E => some (both (rvFma 52 rm (wide y) (wide x) (rvFlip 52 old)))
  | 0x3F => some (both (rvFma 52 rm (rvFlip 52 (wide y)) (wide x) old))
  | _ => none

/-- Comparisons of OPF. -/
def rvOpfCmp (f6 M x y : Nat) : Option (Bool × Nat) :=
  match f6 with
  | 0x18 => some (rvCmp M 2 x y)
  | 0x19 => some (rvCmp M 0 x y)
  | 0x1B => some (rvCmp M 1 x y)
  | 0x1C =>
    let r := rvCmp M 2 x y
    some (!r.1, r.2)
  | 0x1D => some (rvCmp M 1 y x)
  | 0x1F => some (rvCmp M 0 y x)
  | _ => none

/-- A conversion of VFUNARY0 at one width: the code of vs1 below 8. -/
def rvCvt (k M rm x : Nat) : Option (Nat × Nat) :=
  let w := rvWidth M
  match k with
  | 0 => some (rvToInt M rm w false x)
  | 1 => some (rvToInt M rm w true x)
  | 2 => some (rvOfInt M rm x)
  | 3 => some (rvOfInt M rm (rvInt w x))
  | 6 => some (rvToInt M 1 w false x)
  | 7 => some (rvToInt M 1 w true x)
  | _ => none

/-- A widening conversion from elements of `sew` bits. -/
def rvCvtWide (k sew x : Nat) : Option (Nat × Nat) :=
  let toInt := fun rm sgnd => if sew == 32 then some (rvToInt 23 rm 64 sgnd x) else none
  let of := fun z : Int => if sew == 32 then some (rvOfInt 52 0 z) else if sew == 16 then some (rvOfInt 23 0 z) else none
  match k with
  | 2 => of x
  | 3 => of (rvInt sew x)
  | 4 => if sew == 32 then some (rvConv 23 52 0 x) else none
  | 6 => toInt 1 false
  | 7 => toInt 1 true
  | _ => none

/-- A widening conversion to an integer by the mode. -/
def rvCvtWideInt (k rm sew x : Nat) : Option (Nat × Nat) :=
  if sew != 32 then none
  else match k with
    | 0 => some (rvToInt 23 rm 64 false x)
    | 1 => some (rvToInt 23 rm 64 true x)
    | _ => none

/-- A narrowing conversion to elements of `sew` bits. -/
def rvCvtNarrow (k rm sew x : Nat) : Option (Nat × Nat) :=
  let toInt := fun rm sgnd =>
    if sew == 32 then some (rvToInt 52 rm 32 sgnd x) else if sew == 16 then some (rvToInt 23 rm 16 sgnd x) else none
  let of := fun z : Int => if sew == 32 then some (rvOfInt 23 rm z) else none
  match k with
  | 0 => toInt rm false
  | 1 => toInt rm true
  | 2 => of x
  | 3 => of (rvInt (2 * sew) x)
  | 4 => if sew == 32 then some (rvConv 52 23 rm x) else none
  | 5 => if sew == 32 then some (rvConv 52 23 6 x) else none
  | 6 => toInt 1 false
  | 7 => toInt 1 true
  | _ => none

/-- The fraction bits of SEW, where it is a floating width. -/
def rvSewFmt (sew : Nat) : Option Nat := if sew == 32 then some 23 else if sew == 64 then some 52 else none

/-- VFUNARY0: conversions at one width, to twice it and from twice it. -/
def rvFUnary0 (h : Rv) (v : RvV) (w rm : Nat) : Option Rv := do
  let d := bitsOf w 11 7
  let s := bitsOf w 24 20
  let k := bitsOf w 19 15 % 8
  let sew := v.sew
  match bitsOf w 19 15 / 8 with
  | 0 => do
    let M ← rvSewFmt sew
    let _ ← rvCvt k M rm 0
    if !rvDstOk v v.l8 d || !rvGroupOk v.l8 s then none
    some (rvMap h v d sew v.l8 (fun i =>
      let r := (rvCvt k M rm (h.el s sew i)).getD (0, 0)
      (r.1, r.2, false)))
  | 1 => do
    let f := fun x => (rvCvtWideInt k rm sew x).orElse (fun _ => rvCvtWide k sew x)
    let _ ← f 0
    if !rvWidenOk v w false false then none
    some (rvMap h v d (2 * sew) (2 * v.l8) (fun i =>
      let r := (f (h.el s sew i)).getD (0, 0)
      (r.1, r.2, false)))
  | 2 => do
    let _ ← rvCvtNarrow k rm sew 0
    if !rvDstOk v v.l8 d || !rvGroupOk (2 * v.l8) s || !rvOverlapOk d v.l8 sew s (2 * v.l8) (2 * sew) then none
    some (rvMap h v d sew v.l8 (fun i =>
      let r := (rvCvtNarrow k rm sew (h.el s (2 * sew) i)).getD (0, 0)
      (r.1, r.2, false)))
  | _ => none

/-- VFUNARY1: the root, the two estimates and the class. -/
def rvFUnary1 (M rm k x : Nat) : Option (Nat × Nat) :=
  match k with
  | 0x00 => some (rvSqrt M rm x)
  | 0x04 => some (rvRsqrt7 M x)
  | 0x05 => some (rvRec7 M rm x)
  | 0x10 => some (rvClass M x, 0)
  | _ => none

/-- The reductions of OPF; the unordered sum is taken in order too. -/
def rvFReduce (f6 M rm a x : Nat) : Option (Nat × Nat) :=
  match f6 with
  | 0x01 | 0x03 => some (rvAdd M rm a x)
  | 0x05 => some (rvMinMax M false a x)
  | 0x07 => some (rvMinMax M true a x)
  | _ => none

/-- OPFVV, OPFVF. -/
def rvOpfExec (h : Rv) (w : Nat) : Option Rv := do
  let v ← rvConfig h w
  let rm := h.csr 0 / 32 % 8
  if 4 < rm then none
  let f6 := bitsOf w 31 26
  let vec := bitsOf w 14 12 == 1
  let d := bitsOf w 11 7
  let s2 := bitsOf w 24 20
  let s1 := bitsOf w 19 15
  let sew := v.sew
  if f6 == 0x12 then
    if vec then rvFUnary0 h v w rm else none
  else
    let M ← rvSewFmt sew
    let y := fun i => if vec then h.el s1 sew i else h.f M s1
    let same := rvDstOk v v.l8 d && rvGroupOk v.l8 s2 && (!vec || rvGroupOk v.l8 s1)
    match f6 with
    | 0x01 | 0x03 | 0x05 | 0x07 =>
      if vec && v.start == 0 && rvGroupOk v.l8 s2 then
        let z := (List.range v.vl).foldl (fun (a : Nat × Nat) i =>
          if v.active h i then
            let r := (rvFReduce f6 M rm a.1 (h.el s2 sew i)).getD (0, 0)
            (r.1, a.2 ||| r.2)
          else a) (h.el s1 sew 0, 0)
        some (rvPutFirst h v d z.1 z.2 sew)
      else none
    | 0x31 | 0x33 =>
      if vec && v.start == 0 && sew == 32 && rvGroupOk v.l8 s2 then
        let z := (List.range v.vl).foldl (fun (a : Nat × Nat) i =>
          if v.active h i then
            let x := h.el s2 sew i
            let r := rvAdd 52 rm a.1 (rvConv 23 52 0 x).1
            (r.1, a.2 ||| r.2 ||| rvSig 23 [x])
          else a) (h.el s1 64 0, 0)
        some (rvPutFirst h v d z.1 z.2 64)
      else none
    | 0x0E =>
      if !vec && same && !rvMeet d v.l8 s2 v.l8 then
        some (rvMap h v d sew v.l8 (fun i => (if i == 0 then y 0 else h.el s2 sew (i - 1), 0, false)))
      else none
    | 0x0F =>
      if !vec && same then
        some (rvMap h v d sew v.l8 (fun i => (if i + 1 == v.vl then y 0 else h.el s2 sew (i + 1), 0, false)))
      else none
    | 0x10 =>
      if vec then
        if s1 == 0 && !v.masked then some ((h.setF M d (h.el s2 sew 0)).setCsr 1 0) else none
      else if s2 == 0 && !v.masked then some (rvPutFirst h v d (y 0) 0 sew)
      else none
    | 0x13 => do
      let k := s1
      let _ ← rvFUnary1 M rm k 0
      if !vec || !rvDstOk v v.l8 d || !rvGroupOk v.l8 s2 then none
      some (rvMap h v d sew v.l8 (fun i =>
        let r := (rvFUnary1 M rm k (h.el s2 sew i)).getD (0, 0)
        (r.1, r.2, false)))
    | 0x17 =>
      if vec then none
      else if v.masked then
        if d != 0 && rvGroupOk v.l8 d && rvGroupOk v.l8 s2 then
          some (rvMap h { v with masked := false } d sew v.l8 (fun i =>
            (if h.bit 0 i then y 0 else h.el s2 sew i, 0, false)))
        else none
      else if s2 == 0 && rvGroupOk v.l8 d then some (rvMap h v d sew v.l8 (fun _ => (y 0, 0, false)))
      else none
    | 0x21 => -- VFRDIV
      if !vec && same then
        some (rvMap h v d sew v.l8 (fun i =>
          let r := rvDiv M rm (y 0) (h.el s2 sew i)
          (r.1, r.2, false)))
      else none
    | 0x27 => -- VFRSUB
      if !vec && same then
        some (rvMap h v d sew v.l8 (fun i =>
          let r := rvSub M rm (y 0) (h.el s2 sew i)
          (r.1, r.2, false)))
      else none
    | _ =>
      if (rvOpfCmp f6 M 0 0).isSome then
        if (vec && (f6 == 0x1D || f6 == 0x1F)) || !rvGroupOk v.l8 s2 || !rvOverlapOk d 8 1 s2 v.l8 sew ||
            (vec && !(rvGroupOk v.l8 s1 && rvOverlapOk d 8 1 s1 v.l8 sew)) then none
        else some (rvMapMask h v d (fun i => (rvOpfCmp f6 M (h.el s2 sew i) (y i)).getD (false, 0)))
      else if (rvOpfWide f6 rm 0 0 0).isSome then
        let wide := f6 == 0x34 || f6 == 0x36
        if sew != 32 || !rvWidenOk v w wide vec then none
        else some (rvMap h v d 64 (2 * v.l8) (fun i =>
          let r := (rvOpfWide f6 rm (h.el s2 (if wide then 64 else 32) i) (y i) (h.el d 64 i)).getD (0, 0)
          (r.1, r.2, false)))
      else if (rvOpf f6 M rm 0 0 0).isSome then
        if same then
          some (rvMap h v d sew v.l8 (fun i =>
            let r := (rvOpf f6 M rm (h.el s2 sew i) (y i) (h.el d sew i)).getD (0, 0)
            (r.1, r.2, false)))
        else none
      else none

/-! ### Loads and stores -/

/-- The width of an element from a load's or store's funct3. -/
def rvEew (f3 : Nat) : Option Nat :=
  match f3 with
  | 0 => some 8
  | 5 => some 16
  | 6 => some 32
  | 7 => some 64
  | _ => none

/-- A vector access as its encoding says: the elements, their width, the fields of a segment, the registers between fields, and
where element i of field f lies. -/
structure RvAccess where
  n     : Nat
  eew   : Nat
  nf    : Nat
  step  : Nat                 -- registers from a field to the next
  l8    : Nat                 -- the group of a field
  first : Bool                -- fault-only-first
  v     : RvV

/-- Elements loaded from vstart on; an exception at an element behind the first of a fault-only-first load cuts vl there. -/
def rvLoadEls (im : List Byte) (h0 : Rv) (q : RvAccess) (d : Nat) (at_ : Nat → Nat → Nat) : Nat → Nat → Rv → Option Rv
  | 0, _, h => some h
  | k + 1, i, h =>
    if q.n ≤ i then some h
    else if i < q.v.start || !q.v.active h0 i then rvLoadEls im h0 q d at_ k (i + 1) h
    else
      let r := (List.range q.nf).foldlM (fun (h : Rv) f =>
        (h0.load im (at_ i f) (q.eew / 8)).map (fun x => h.setEl (d + f * q.step) q.eew i x)) h
      match r with
      | some h1 => rvLoadEls im h0 q d at_ k (i + 1) h1
      | none => if q.first && 0 < i then some (h.setCsr 2 i) else none

/-- The elements of a field's group that a load leaves: those the mask bars and the tail. -/
def rvLoadRest (h0 h : Rv) (q : RvAccess) (d : Nat) : Rv :=
  (List.range q.nf).foldl (fun h f =>
    (List.range (rvGroup (max q.l8 8) q.eew)).foldl (fun (h : Rv) i =>
      let r := d + f * q.step
      let old := h0.el r q.eew i
      if i < q.v.start || q.v.vl ≤ q.v.start then h
      else if i < q.n then (if q.v.active h0 i then h else h.setEl r q.eew i (rvRest h0 q.v.maskA old q.eew i))
      else h.setEl r q.eew i (rvRest h0 q.v.tailA old q.eew i)) h) h

/-- Elements stored from vstart on. -/
def rvStoreEls (im : List Byte) (h0 : Rv) (q : RvAccess) (d : Nat) (at_ : Nat → Nat → Nat) : Option Rv :=
  ((List.range q.n).filter (fun i => decide (q.v.start ≤ i) && q.v.active h0 i)).foldlM (fun h i =>
    (List.range q.nf).foldlM (fun (h : Rv) f => h.store im (at_ i f) (q.eew / 8) (h0.el (d + f * q.step) q.eew i)) h) h0

/-- A vector load (`st` false) or store. -/
def rvVMem (im : List Byte) (h : Rv) (w : Nat) (st : Bool) : Option Rv := do
  let eew ← rvEew (bitsOf w 14 12)
  let nf := bitsOf w 31 29 + 1
  let d := bitsOf w 11 7
  let s2 := bitsOf w 24 20
  let base := (h.x (bitsOf w 19 15)).toNat
  let unmasked := bitsOf w 25 25 == 1
  let wrap := fun a => a % 2 ^ 64
  if bitsOf w 28 28 != 0 then none
  let finish := fun h : Rv => h.setCsr 1 0
  if bitsOf w 27 26 == 0 && s2 == 8 then
    -- whole registers, whatever vtype holds
    if !(nf == 1 || nf == 2 || nf == 4 || nf == 8) || !unmasked || d % nf != 0 || (st && eew != 8) then none
    let n := nf * 512 / eew
    let q : RvAccess := ⟨n, eew, 1, 0, 8 * nf, false, ⟨n, h.csr 1, eew, 8, false, false, false⟩⟩
    let at_ := fun i _ => wrap (base + i * (eew / 8))
    (if st then rvStoreEls im h q d at_ else rvLoadEls im h q d at_ (n + 1) 0 h).map finish
  else
    let v ← rvConfig h w
    if bitsOf w 27 26 == 0 && s2 == 11 then
      -- a mask
      if eew != 8 || nf != 1 || !unmasked then none
      let n := (v.vl + 7) / 8
      let q : RvAccess := ⟨n, 8, 1, 0, 8, false, { v with vl := n, tailA := true }⟩
      let at_ := fun i _ => wrap (base + i)
      if st then (rvStoreEls im h q d at_).map finish
      else do
        let h1 ← rvLoadEls im h q d at_ (n + 1) 0 h
        some (finish (rvLoadRest h h1 q d))
    else
      let indexed := bitsOf w 26 26 == 1
      let first := bitsOf w 27 26 == 0 && s2 == 0x10
      if bitsOf w 27 26 == 0 && s2 != 0 && (s2 != 0x10 || st) then none
      let data := if indexed then v.sew else eew
      if !indexed && v.l8 * eew % v.sew != 0 then none
      let l8 := if indexed then v.l8 else v.l8 * eew / v.sew
      let li := v.l8 * eew / v.sew
      let step := rvRegs l8
      if !rvGroupOk l8 d || 64 < l8 * nf || 32 < d + nf * step then none
      if !st && v.masked && d == 0 then none
      if indexed && (v.l8 * eew % v.sew != 0 || !rvGroupOk li s2) then none
      if indexed && !st && (if nf == 1 then !rvOverlapOk d l8 data s2 li eew else rvMeet d (8 * nf * step) s2 li) then none
      let n := data / 8
      let at_ := fun i f => wrap (match bitsOf w 27 26 with
        | 0 => base + (i * nf + f) * n
        | 2 => base + i * (h.x s2).toNat + f * n
        | _ => base + h.el s2 eew i + f * n)
      let q : RvAccess := ⟨v.vl, data, nf, step, l8, first, v⟩
      if st then (rvStoreEls im h q d at_).map finish
      else do
        let h1 ← rvLoadEls im h q d at_ (v.vl + 1) 0 h
        some (finish (rvLoadRest h h1 { q with n := if first then h1.csr 2 else q.n } d))

/-- A vector instruction. -/
def rvVector (im : List Byte) (h : Rv) (w : Nat) : Option Rv :=
  match bitsOf w 6 0, bitsOf w 14 12 with
  | 0x07, _ => rvVMem im h w false
  | 0x27, _ => rvVMem im h w true
  | _, 7 => rvSetVl h w
  | _, 3 => if bitsOf w 31 26 == 0x27 then rvMoveRegs h w else rvOpiExec h w
  | _, 0 | _, 4 => rvOpiExec h w
  | _, 2 | _, 6 => rvOpmExec h w
  | _, _ => rvOpfExec h w

end Sys2Proof.Machine
end

