-- ==== Sys2Proof/Machine/Rv.lean ====
section
/-! DEFINITION. The transform core's run: fetch from the routine's image, one instruction, and the run to the next call or
exception (R290, R291; assumption 41). -/

namespace Sys2Proof.Machine

/-- How an instruction of a routine ends: it goes on, calls the engine, or takes an exception. -/
inductive RvEnd where
  | goes (h : Rv)
  | calls (h : Rv)
  | fails (h : Rv)
  deriving DecidableEq, Repr

/-- A parcel fetched: the image's range alone may be executed (R290). -/
def rvParcel (im : List Byte) (h : Rv) (a : Nat) : Option Nat :=
  if 0x80000000 ≤ a && a + 2 ≤ 0x80040000 && a % 2 == 0 then ((List.range 2).mapM (fun i => h.byte im (a + i))).map natLE
  else none

/-- The instruction at the pc, as one of 32 bits, and the bytes it takes. -/
def rvFetch (im : List Byte) (h : Rv) : Option (Nat × Nat) := do
  let a := h.pc.toNat
  let lo ← rvParcel im h a
  if lo % 4 != 3 then
    let w ← rvExpand lo
    some (w, 2)
  else if lo % 32 == 31 then none
  else
    let hi ← rvParcel im h (a + 2)
    some (lo + 65536 * hi, 4)

/-- The word is an instruction of V. -/
def rvIsVector (w : Nat) : Bool :=
  bitsOf w 6 0 == 0x57 || ((bitsOf w 6 0 == 0x07 || bitsOf w 6 0 == 0x27) && (rvEew (bitsOf w 14 12)).isSome)

/-- One instruction in user mode; an illegal one, and an access or fetch outside the ranges, is an exception (R291). -/
def rvStep (im : List Byte) (h : Rv) : RvEnd :=
  match rvFetch im h with
  | none => .fails h
  | some (w, len) =>
    if w == 0x73 then .calls h
    else
      match if rvIsVector w then (rvVector im h w).map (fun r => r.goto (h.pc + BitVec.ofNat 64 len)) else rvScalar im h w len with
      | some r => .goes r
      | none => .fails h

/-- A run of at most so many instructions to its stop: 0 a call, 1 an exception, 2 none. -/
def rvRun (im : List Byte) : Nat → Rv → Config.RoutineState × Nat
  | 0, h => (h.st, 2)
  | n + 1, h =>
    match rvStep im h with
    | .goes r => rvRun im n r
    | .calls r => (r.st, 0)
    | .fails r => (r.st, 1)

end Sys2Proof.Machine
end

