-- ==== Sys2Proof/Machine/Zstd.lean ====
section
/-! DEFINITION. The standard decoder ZSTDD of the transform core (R292), as what it has put out after some of its input.
The manual names the format, RFC 8878, and does not give it: its rules are taken from there (PRESUMED; assumption 77). -/

namespace Sys2Proof.Machine

/-! ### The content checksum: XXH64 with seed 0 -/

/-- The five primes of XXH64. -/
def xxPrime (k : Nat) : DWord :=
  [0x9E3779B185EBCA87#64, 0xC2B2AE3D27D4EB4F#64, 0x165667B19E3779F9#64, 0x85EBCA77C2B2AE63#64,
   0x27D4EB2F165667C5#64].getD (k - 1) 0#64

/-- One lane taken into an accumulator. -/
def xxRound (acc lane : DWord) : DWord := (acc + lane * xxPrime 2).rotateLeft 31 * xxPrime 1

/-- n bytes as a number. -/
def xxNat (n : Nat) (bs : List Byte) : DWord := BitVec.ofNat 64 (natLE (bs.take n))

/-- The stripes of 32 bytes, at most `fuel`. -/
def xxStripes : Nat → List DWord → List Byte → List DWord
  | 0, v, _ => v
  | k + 1, v, bs =>
    if bs.length < 32 then v
    else xxStripes k (v.mapIdx (fun i a => xxRound a (xxNat 8 (bs.drop (8 * i))))) (bs.drop 32)

/-- What is left behind the stripes: words of eight bytes, then of four, then bytes. -/
def xxTail : Nat → DWord → List Byte → DWord
  | 0, h, _ => h
  | _, h, [] => h
  | k + 1, h, b :: bs =>
    let l := b :: bs
    if 8 ≤ l.length then
      xxTail k ((h ^^^ xxRound 0#64 (xxNat 8 l)).rotateLeft 27 * xxPrime 1 + xxPrime 4) (l.drop 8)
    else if 4 ≤ l.length then
      xxTail k ((h ^^^ xxNat 4 l * xxPrime 1).rotateLeft 23 * xxPrime 2 + xxPrime 3) (l.drop 4)
    else xxTail k ((h ^^^ b.setWidth 64 * xxPrime 5).rotateLeft 11 * xxPrime 1) bs

/-- XXH64 of bytes. -/
def xxh64 (bs : List Byte) : DWord :=
  let n := bs.length
  let start :=
    if n < 32 then xxPrime 5
    else
      let v := xxStripes n [xxPrime 1 + xxPrime 2, xxPrime 2, 0#64, 0#64 - xxPrime 1] bs
      let sum := (v.zip [1, 7, 12, 18]).foldl (fun h p => h + p.1.rotateLeft p.2) 0#64
      v.foldl (fun h a => (h ^^^ xxRound 0#64 a) * xxPrime 1 + xxPrime 4) sum
  let h := xxTail n (start + BitVec.ofNat 64 n) (bs.drop (n / 32 * 32))
  let h1 := (h ^^^ h >>> 33) * xxPrime 2
  let h2 := (h1 ^^^ h1 >>> 29) * xxPrime 3
  h2 ^^^ h2 >>> 32

/-! ### Bit streams read backwards -/

/-- The bits of a stream in the order in which they are read: from its end, behind the highest set bit of its last byte. -/
def backBits (bs : List Byte) : Option (List Bool) :=
  match bs.getLast? with
  | none => none
  | some b => if b == 0#8 then none else some (((bitStream bs).reverse.dropWhile (fun x => !x)).drop 1)

/-- The number bits give, the first the highest. -/
def highFirst (bs : List Bool) : Nat := bs.foldl (fun a b => 2 * a + if b then 1 else 0) 0

/-- n bits taken as a number, the first the highest. -/
def takeHigh (n : Nat) (bs : List Bool) : Option (Nat × List Bool) :=
  if (bs.take n).length < n then none else some (highFirst (bs.take n), bs.drop n)

/-! ### FSE tables (RFC 8878, 4.1) -/

/-- A decoding table: its accuracy and its cells of symbol, bits to read and base. -/
structure FseTable where
  log   : Nat
  cells : List (Nat × Nat × Nat)
  deriving DecidableEq, Repr, Inhabited

/-- The cell of a state. -/
def FseTable.cell (t : FseTable) (s : Nat) : Nat × Nat × Nat := t.cells.getD s (0, 0, 0)

/-- The next place of the spread, below the cells kept for the rarest symbols. -/
def spreadNext (size high : Nat) : Nat → Nat → Nat
  | 0, pos => pos
  | k + 1, pos =>
    let p := (pos + size / 2 + size / 8 + 3) % size
    if high ≤ p then spreadNext size high k p else p

/-- The symbols of the cells. -/
def spreadSymbols (size : Nat) (freqs : List Int) : List Nat :=
  let rare := (freqs.zipIdx.filter (fun p => p.1 == -1)).map Prod.snd
  let high := size - rare.length
  let start := rare.zipIdx.foldl (fun l p => l.set (size - 1 - p.2) p.1) (List.replicate size 0)
  let many := freqs.zipIdx.flatMap (fun p => List.replicate p.1.toNat p.2)
  (many.foldl (fun x s => (x.1.set x.2 s, spreadNext size high size x.2)) (start, 0)).1

/-- The cells, each symbol's states numbered in the order of its cells. -/
def fseCells (log : Nat) (freqs : List Int) : List Nat → List Nat → List (Nat × Nat × Nat)
  | _, [] => []
  | seen, s :: rest =>
    let f := freqs.getD s 0
    let next := (if f == -1 then 1 else f.toNat) + seen.getD s 0
    let nb := log - next.log2
    (s, nb, next * 2 ^ nb - 2 ^ log) :: fseCells log freqs (seen.set s (seen.getD s 0 + 1)) rest

/-- The table of a distribution. -/
def fseTable (log : Nat) (freqs : List Int) : FseTable :=
  ⟨log, fseCells log freqs (List.replicate freqs.length 0) (spreadSymbols (2 ^ log) freqs)⟩

/-- Repeat flags behind a probability of zero: how many more zeros. -/
def zeroRun : Nat → List Bool → Nat → Option (Nat × List Bool)
  | 0, _, _ => none
  | k + 1, bs, n => match takeLow 2 bs with
    | .ok 3 r => zeroRun k r (n + 3)
    | .ok x r => some (n + x, r)
    | .more => none
    | .bad => none

/-- The probabilities of a distribution, `left` of them still to be given, for at most `most` symbols. -/
def readFreqs (most : Nat) : Nat → Nat → List Bool → List Int → Option (List Int × List Bool)
  | 0, _, _, _ => none
  | k + 1, left, bs, acc =>
    if left == 0 then some (acc, bs)
    else if most ≤ acc.length then none
    else
      let n := (left + 1).log2 + 1
      let low := highFirst ((bs.take (n - 1)).reverse)
      if bs.length < n - 1 then none
      else
        let short := decide (low < 2 ^ n - 1 - (left + 1))
        let v := low + if !short && bs.getD (n - 1) false then 2 ^ (n - 1) else 0
        let x := if 2 ^ (n - 1) ≤ v then v - (2 ^ n - 1 - (left + 1)) else v
        let r := bs.drop (if short then n - 1 else n)
        let p := (x : Int) - 1
        if left < p.natAbs then none
        else if x == 1 then
          match zeroRun most r 0 with
          | none => none
          | some (z, r1) => readFreqs most k left r1 (acc ++ List.replicate (z + 1) 0)
        else readFreqs most k (left - p.natAbs) r (acc ++ [p])

/-- A table's description, and the bytes behind it. -/
def readFse (maxLog most : Nat) (bs : List Byte) : Option (FseTable × List Byte) :=
  match takeLow 4 (bitStream bs) with
  | .more => none
  | .bad => none
  | .ok l r =>
    let log := l + 5
    if maxLog < log then none
    else match readFreqs most (most + 2) (2 ^ log) r [] with
      | none => none
      | some (fs, r1) =>
        if most < fs.length then none else some (fseTable log fs, bs.drop (bs.length - r1.length / 8))

/-! ### Huffman tables (RFC 8878, 4.2) -/

/-- Weights from two states in turn, until the stream has too few bits for the next. -/
def fseWeights (t : FseTable) : Nat → Nat → Nat → List Bool → List Nat → Option (List Nat)
  | 0, _, _, _, _ => none
  | k + 1, a, b, bs, acc =>
    let (s, nb, base) := t.cell a
    match takeHigh nb bs with
    | none => some (acc ++ [s, (t.cell b).1])
    | some (x, r) => fseWeights t k b (base + x) r (acc ++ [s])

/-- The weights given, and the bytes behind them. -/
def readWeights (bs : List Byte) : Option (List Nat × List Byte) :=
  match bs with
  | [] => none
  | h :: r =>
    let n := h.toNat
    if 128 ≤ n then
      let m := n - 127
      if r.length < (m + 1) / 2 then none
      else some ((r.flatMap (fun b => [b.toNat / 16, b.toNat % 16])).take m, r.drop ((m + 1) / 2))
    else if r.length < n then none
    else match readFse 6 256 (r.take n) with
      | none => none
      | some (t, body) => match (backBits body).bind (takeHigh t.log) with
        | none => none
        | some (a, r1) => match takeHigh t.log r1 with
          | none => none
          | some (b, r2) => (fseWeights t 256 a b r2 []).map (fun ws => (ws, r.drop n))

/-- A weight's share. -/
def weightShare (w : Nat) : Nat := if w == 0 then 0 else 2 ^ (w - 1)

/-- The codes of weights, the last of which is what the others leave. -/
def huffmanTable (ws : List Nat) : Option CodeTable :=
  let sum := (ws.map weightShare).sum
  let mx := sum.log2 + 1
  let left := 2 ^ mx - sum
  if sum == 0 || 11 < mx || 255 < ws.length || 2 ^ left.log2 != left then none
  else
    let all := ws ++ [left.log2 + 1]
    let sorted := (List.range (mx + 1)).tail.flatMap (fun w => all.zipIdx.filter (fun p => p.1 == w))
    some (sorted.foldl (fun (x : Nat × CodeTable) p =>
      (x.1 + weightShare p.1, x.2 ++ [(mx + 1 - p.1, x.1 / weightShare p.1, p.2)])) (0, [])).2

/-- n literals of a stream, which they use up. -/
def readLiterals (t : CodeTable) : Nat → List Bool → List Byte → Option (List Byte)
  | 0, bs, acc => if bs.isEmpty then some acc.reverse else none
  | n + 1, bs, acc => match readSymbol t 11 0 0 bs with
    | .ok s r => readLiterals t n r (BitVec.ofNat 8 s :: acc)
    | .more => none
    | .bad => none

/-- n literals of the bytes of one stream. -/
def oneStream (t : CodeTable) (n : Nat) (bs : List Byte) : Option (List Byte) :=
  (backBits bs).bind (fun r => readLiterals t n r [])

/-- n literals of four streams behind their jump table. -/
def fourStreams (t : CodeTable) (n : Nat) (bs : List Byte) : Option (List Byte) :=
  let at_ := fun k => natLE ((bs.drop (2 * k)).take 2)
  let body := bs.drop 6
  let q := (n + 3) / 4
  if bs.length < 6 || body.length < at_ 0 + at_ 1 + at_ 2 || n < 3 * q then none
  else do
    let a ← oneStream t q (body.take (at_ 0))
    let b ← oneStream t q ((body.drop (at_ 0)).take (at_ 1))
    let c ← oneStream t q ((body.drop (at_ 0 + at_ 1)).take (at_ 2))
    let d ← oneStream t (n - 3 * q) (body.drop (at_ 0 + at_ 1 + at_ 2))
    some (a ++ b ++ c ++ d)

/-! ### Blocks (RFC 8878, 3.1.1.2 and 3.1.1.3) -/

/-- What blocks of a frame hand on: its tables and the three recent offsets. -/
structure ZTables where
  huf  : Option CodeTable
  ll   : Option FseTable
  off  : Option FseTable
  ml   : Option FseTable
  reps : Nat × Nat × Nat
  deriving DecidableEq, Repr, Inhabited

/-- A frame's tables before its first block. -/
def ZTables.start : ZTables := ⟨none, none, none, none, (1, 4, 8)⟩

/-- The literals section: its literals, the Huffman table, and the bytes behind it. -/
def readLiteralSection (huf : Option CodeTable) (bs : List Byte) : Option (List Byte × Option CodeTable × List Byte) :=
  let h := natLE (bs.take 5)
  let kind := h % 4
  let sf := h / 4 % 4
  if bs.isEmpty then none
  else if kind < 2 then
    let head := [1, 2, 1, 3].getD sf 0
    let n := if sf % 2 == 0 then h / 8 % 32 else if sf == 1 then h / 16 % 2 ^ 12 else h / 16 % 2 ^ 20
    let r := bs.drop head
    if bs.length < head then none
    else if kind == 0 then (if r.length < n then none else some (r.take n, huf, r.drop n))
    else match r with
      | [] => none
      | b :: r1 => some (List.replicate n b, huf, r1)
  else
    let head := [3, 3, 4, 5].getD sf 0
    let w := [10, 10, 14, 18].getD sf 0
    let n := h / 16 % 2 ^ w
    let size := h / 16 / 2 ^ w % 2 ^ w
    let r := bs.drop head
    if bs.length < head || r.length < size then none
    else do
      let (t, body) ← if kind == 2 then
          (readWeights (r.take size)).bind (fun p => (huffmanTable p.1).map (fun t => (t, p.2)))
        else huf.map (fun t => (t, r.take size))
      let lits ← if sf == 0 then oneStream t n body else fourStreams t n body
      some (lits, some t, r.drop size)

/-- The predefined distributions. -/
def defaultLl : FseTable :=
  fseTable 6 [4, 3, 2, 2, 2, 2, 2, 2, 2, 2, 2, 2, 2, 1, 1, 1, 2, 2, 2, 2, 2, 2, 2, 2, 2, 3, 2, 1, 1, 1, 1, 1, -1, -1, -1, -1]
/-- Of offset codes. -/
def defaultOff : FseTable :=
  fseTable 5 [1, 1, 1, 1, 1, 1, 2, 2, 2, 1, 1, 1, 1, 1, 1, 1, 1, 1, 1, 1, 1, 1, 1, 1, -1, -1, -1, -1, -1]
/-- Of match length codes. -/
def defaultMl : FseTable :=
  fseTable 6 ([1, 4, 3, 2, 2, 2, 2, 2, 2] ++ List.replicate 37 1 ++ List.replicate 7 (-1))

/-- The bases of the literal length codes and their extra bits. -/
def llBase : List (Nat × Nat) :=
  (List.range 16).map (fun k => (k, 0)) ++
  [(16, 1), (18, 1), (20, 1), (22, 1), (24, 2), (28, 2), (32, 3), (40, 3), (48, 4), (64, 6), (128, 7), (256, 8), (512, 9),
   (1024, 10), (2048, 11), (4096, 12), (8192, 13), (16384, 14), (32768, 15), (65536, 16)]

/-- Of the match length codes. -/
def mlBase : List (Nat × Nat) :=
  (List.range 32).map (fun k => (k + 3, 0)) ++
  [(35, 1), (37, 1), (39, 1), (41, 1), (43, 2), (47, 2), (51, 3), (59, 3), (67, 4), (83, 4), (99, 5), (131, 7), (259, 8),
   (515, 9), (1027, 10), (2051, 11), (4099, 12), (8195, 13), (16387, 14), (32771, 15), (65539, 16)]

/-- A table by its mode: predefined, one symbol, described, or the last one again. -/
def modeTable (mode maxLog most : Nat) (def_ : FseTable) (prev : Option FseTable) (bs : List Byte) :
    Option (FseTable × List Byte) :=
  match mode with
  | 0 => some (def_, bs)
  | 1 => match bs with
    | [] => none
    | b :: r => if most ≤ b.toNat then none else some (⟨0, [(b.toNat, 0, 0)]⟩, r)
  | 2 => readFse maxLog most bs
  | _ => prev.map (fun t => (t, bs))

/-- A base with its extra bits read backwards. -/
def highExtra (bases : List (Nat × Nat)) (k : Nat) (bs : List Bool) : Option (Nat × List Bool) :=
  (bases[k]?).bind (fun e => (takeHigh e.2 bs).map (fun p => (e.1 + p.1, p.2)))

/-- The offset an offset value names, and the recent offsets behind it. -/
def offsetOf (v ll : Nat) (r : Nat × Nat × Nat) : Nat × (Nat × Nat × Nat) :=
  if 3 < v then (v - 3, (v - 3, r.1, r.2.1))
  else match (if ll == 0 then v + 1 else v) with
    | 1 => (r.1, r)
    | 2 => (r.2.1, (r.2.1, r.1, r.2.2))
    | 3 => (r.2.2, (r.2.2, r.1, r.2.1))
    | _ => (r.1 - 1, (r.1 - 1, r.1, r.2.1))

/-- Sequences carried out: the three states, the bits, the literals and the output. -/
def runSequences (tl tf tm : FseTable) (window : Nat) :
    Nat → Nat × Nat × Nat → List Bool → List Byte → List Byte → Nat × Nat × Nat → Option (List Byte × (Nat × Nat × Nat))
  | 0, _, bs, lits, out, reps => if bs.isEmpty then some (lits.reverse ++ out, reps) else none
  | n + 1, (sl, so, sm), bs, lits, out, reps => do
    let cl := tl.cell sl
    let co := tf.cell so
    let cm := tm.cell sm
    let (ox, b1) ← takeHigh co.1 bs
    let (ml, b2) ← highExtra mlBase cm.1 b1
    let (ll, b3) ← highExtra llBase cl.1 b2
    let (off, reps1) := offsetOf (2 ^ co.1 + ox) ll reps
    let o := (lits.take ll).reverse ++ out
    if lits.length < ll || off == 0 || o.length < off || window < off then none
    else
      let o1 := copyBack ml off o
      if n == 0 then runSequences tl tf tm window n (0, 0, 0) b3 (lits.drop ll) o1 reps1
      else do
        let (xl, b4) ← takeHigh cl.2.1 b3
        let (xm, b5) ← takeHigh cm.2.1 b4
        let (xo, b6) ← takeHigh co.2.1 b5
        runSequences tl tf tm window n (cl.2.2 + xl, co.2.2 + xo, cm.2.2 + xm) b6 (lits.drop ll) o1 reps1

/-- The number of sequences, and the bytes behind it. -/
def sequenceCount (bs : List Byte) : Option (Nat × List Byte) :=
  match bs with
  | [] => none
  | a :: r =>
    if a.toNat < 128 then some (a.toNat, r)
    else if a.toNat < 255 then (match r with
      | b :: r1 => some ((a.toNat - 128) * 256 + b.toNat, r1)
      | [] => none)
    else (match r with
      | b :: c :: r1 => some (b.toNat + 256 * c.toNat + 0x7F00, r1)
      | [_] => none
      | [] => none)

/-- A compressed block: the output behind it and the tables it hands on. -/
def compressedBlock (window : Nat) (z : ZTables) (bs : List Byte) (out : List Byte) : Option (List Byte × ZTables) := do
  let (lits, huf, r) ← readLiteralSection z.huf bs
  let (n, r1) ← sequenceCount r
  if n == 0 then
    if r1.isEmpty then some (lits.reverse ++ out, { z with huf := huf }) else none
  else match r1 with
    | [] => none
    | m :: r2 =>
      if m.toNat % 4 != 0 then none
      else do
        let (tl, r3) ← modeTable (m.toNat / 64) 9 36 defaultLl z.ll r2
        let (tf, r4) ← modeTable (m.toNat / 16 % 4) 8 32 defaultOff z.off r3
        let (tm, r5) ← modeTable (m.toNat / 4 % 4) 9 53 defaultMl z.ml r4
        let b ← backBits r5
        let (sl, b1) ← takeHigh tl.log b
        let (so, b2) ← takeHigh tf.log b1
        let (sm, b3) ← takeHigh tm.log b2
        let (o, reps) ← runSequences tl tf tm window n (sl, so, sm) b3 lits out z.reps
        some (o, ⟨huf, some tl, some tf, some tm, reps⟩)

/-! ### Frames (RFC 8878, 3.1.1.1 and 3.1.2) -/

/-- A frame's header: the window, the size of its content if given, and whether a checksum ends it. -/
structure ZHeader where
  window  : Nat
  content : Option Nat
  check   : Bool
  deriving DecidableEq, Repr, Inhabited

/-- A frame's header behind its magic number, and the bytes behind it; none where more bytes are wanted, and the status of
one that is refused (R292). -/
def readFrameHeader (bs : List Byte) : Option (Except Nat (ZHeader × List Byte)) :=
  match bs with
  | [] => none
  | d :: r =>
    let x := d.toNat
    let single := x / 32 % 2 == 1
    let wn := if single then 0 else 1
    let dn := [0, 1, 2, 4].getD (x % 4) 0
    let fn := [if single then 1 else 0, 2, 4, 8].getD (x / 64) 0
    if r.length < wn + dn + fn then none
    else
      let w := natLE (r.take 1)
      let dict := natLE ((r.drop wn).take dn)
      let f := natLE ((r.drop (wn + dn)).take fn) + if fn == 2 then 256 else 0
      let window := if single then f else 2 ^ (10 + w / 8) + 2 ^ (10 + w / 8) / 8 * (w % 8)
      if x / 8 % 2 == 1 then some (.error 1)
      else if 65536 < window || dict != 0 then some (.error 3)
      else some (.ok (⟨window, if fn == 0 then none else some f, x / 4 % 2 == 1⟩, r.drop (wn + dn + fn)))

/-- What comes next in the input. -/
inductive ZPhase where
  | frame (seen : Bool)                              -- a frame; whether one has come already
  | block (h : ZHeader) (z : ZTables)
  | closing (h : ZHeader)                            -- the checksum of a frame

/-- One piece of the input: a frame header, a block, or the end of a frame.  `out` is the frame's output, `prev` that of the
frames before it. -/
def zstdFrom (complete : Bool) : Nat → ZPhase → List Byte → List Byte → List Byte → Decoded
  | 0, _, _, out, prev => ⟨out ++ prev, .more⟩
  | k + 1, .frame seen, bs, out, prev =>
    let want : Decoded := ⟨out ++ prev, .more⟩
    let magic := natLE (bs.take 4)
    if bs.isEmpty then (if complete && seen then ⟨out ++ prev, .done⟩ else want)
    else if bs.length < 4 then want
    else if magic / 16 == 0x184D2A5 then
      let n := natLE ((bs.drop 4).take 4)
      if bs.length < 8 + n then want else zstdFrom complete k (.frame true) (bs.drop (8 + n)) out prev
    else if magic != 0xFD2FB528 then ⟨out ++ prev, .bad 1⟩
    else match readFrameHeader (bs.drop 4) with
      | none => want
      | some (.error c) => ⟨out ++ prev, .bad c⟩
      | some (.ok (h, r)) => zstdFrom complete k (.block h ZTables.start) r [] (out ++ prev)
  | k + 1, .block h z, bs, out, prev =>
    let want : Decoded := ⟨out ++ prev, .more⟩
    let no : Decoded := ⟨out ++ prev, .bad 1⟩
    let x := natLE (bs.take 3)
    let size := x / 8
    let most := min h.window 131072
    let r := bs.drop 3
    let next : ZTables → ZPhase := fun z => if x % 2 == 1 then .closing h else .block h z
    if bs.length < 3 then want
    else if most < size || x / 2 % 4 == 3 then no
    else match x / 2 % 4 with
      | 0 => if r.length < size then want else zstdFrom complete k (next z) (r.drop size) ((r.take size).reverse ++ out) prev
      | 1 => match r with
        | [] => want
        | b :: r1 => zstdFrom complete k (next z) r1 (List.replicate size b ++ out) prev
      | _ =>
        if r.length < size then want
        else match compressedBlock h.window z (r.take size) out with
          | none => no
          | some (o, z1) =>
            if most < o.length - out.length then no else zstdFrom complete k (next z1) (r.drop size) o prev
  | k + 1, .closing h, bs, out, prev =>
    if h.content.any (fun n => n != out.length) then ⟨out ++ prev, .bad 1⟩
    else if !h.check then zstdFrom complete k (.frame true) bs out prev
    else if bs.length < 4 then ⟨out ++ prev, .more⟩
    else if natLE (bs.take 4) != (xxh64 out.reverse).toNat % 2 ^ 32 then ⟨out ++ prev, .bad 4⟩
    else zstdFrom complete k (.frame true) (bs.drop 4) out prev

/-- ZSTDD after some of its input, all of it where `complete` says so: every frame and block takes three bytes or more. -/
def zstdFrames (complete : Bool) (input : List Byte) : Decoded :=
  zstdFrom complete (2 * input.length + 2) (.frame false) input [] []

end Sys2Proof.Machine
end

