-- ==== Sys2Proof/Machine/Xform.lean ====
section
/-! DEFINITION. The transform core: the steps of a routine, and the five standard routines (R281, R290 to R294). -/

namespace Sys2Proof.Machine

/-! ### QUANT and TRANSPOSE (R292, R293) -/

/-- The element format of FMT.QF. -/
def quantFormat (fmt : Word) : Format := (formatOfCode (fmtQF fmt)).getD .f16

/-- The block size of a QUANT of n elements. -/
def quantBlock (fmt : Word) (n : Nat) : Nat := scaleBlock (fmtSBLK fmt) n

/-- The bytes of a QUANT's output. -/
def quantSize (fmt : Word) (n : Nat) : Nat :=
  ceilDiv (n * fmtWidth (quantFormat fmt)) 8 + if 2 ≤ fmtQF fmt then ceilDiv n (quantBlock fmt n) else 0

/-- Patterns of a width packed as in memory, padded with zero bits to a whole byte (R84). -/
def packBits (w : Nat) (qs : List Nat) : List Byte :=
  bytesLE (ceilDiv (qs.length * w) 8) (qs.foldr (fun q acc => q % 2 ^ w + 2 ^ w * acc) 0)

/-- One block: its elements' patterns, and its scale. -/
def quantOne (fmt : Word) (xs : List Ext) : List Nat × Nat :=
  let f := quantFormat fmt
  let env := engineEnv (fmtRM fmt) (fmtSAT fmt) (fmtFTZ fmt)
  if fmtQF fmt ≤ 1 then (xs.map (fun x => (roundTo f env 0 x).1), 0)
  else
    let e := blockScale f xs
    (xs.map (fun x =>
      (roundTo f { env with sat := true } 0 (if e == 0xFF then .nan else extScale (127 - (e : Int)) x)).1), e)

/-- A list cut into blocks of b, at most `fuel`. -/
def cutBlocks {α : Type} (b : Nat) : Nat → List α → List (List α)
  | 0, _ => []
  | k + 1, l => if l.isEmpty then [] else l.take b :: cutBlocks b k (l.drop b)

/-- The elements the input read so far settles: those of whole blocks, and all of them once the input is complete. -/
def quantReady (fmt : Word) (input : List Byte) (total : Nat) : Nat :=
  let b := quantBlock fmt (total / 4)
  if input.length == total then total / 4 else input.length / 4 / b * b

/-- QUANT's state after more input: the elements of the blocks it completes are quantised, each companded by one table,
`cmp i` for element i (R102, R293). -/
def quantMore (cmp : Nat → Ext → Ext) (fmt : Word) (total : Nat) (x : Xform) : Xform :=
  let first := x.codes.length
  let m := quantReady fmt x.input total - first
  let xs := (List.range m).map (fun i =>
    cmp (first + i) (readFloat .f32 (fmtDAZ fmt) (natLE ((x.input.drop (4 * (first + i))).take 4))).1)
  let blocks := (cutBlocks (quantBlock fmt (total / 4)) m xs).map (quantOne fmt)
  { x with codes := x.codes ++ blocks.flatMap Prod.fst, scales := x.scales ++ blocks.map Prod.snd }

/-- QUANT's output so far: the elements packed, as far as whole bytes go, and behind the last of them the scales. -/
def quantOutput (fmt : Word) (total : Nat) (x : Xform) : List Byte :=
  let w := fmtWidth (quantFormat fmt)
  let packed := packBits w x.codes
  if x.input.length == total then packed ++ (if 2 ≤ fmtQF fmt then x.scales.map (fun q => BitVec.ofNat 8 q) else [])
  else packed.take (x.codes.length * w / 8)

/-- TRANSPOSE of rows of c elements of z bytes. -/
def transposed (z c : Nat) (input : List Byte) : List Byte :=
  let rows := input.length / (z * c)
  (List.range (rows * c)).flatMap (fun k => (input.drop (z * (k % rows * c + k / rows))).take z)

/-! ### The standard routines (R292) -/

/-- The routine is a standard one. -/
def plainRoutine (x : Xform) : Bool := 1 ≤ x.routine && x.routine ≤ 5

/-- What a decoder makes of the input read so far. -/
def decoded (b : List Word) (x : Xform) : Option Decoded :=
  let complete := x.input.length == blkWord b 4
  match x.routine with
  | 1 => some ((inflate x.input).final complete)
  | 2 => some ((lz4Block complete x.input).final complete)
  | 3 => some ((zstdFrames complete x.input).final complete)
  | _ => none

/-- The status with which QUANT or TRANSPOSE ends before it reads anything.  Where two of the conditions meet the spec
gives no order; here status 1 goes before 3, and 3 before 2 (DESIGN CHOICE; assumption 86). -/
def earlyEnd (fmt : Word) (b : List Word) (r : Nat) : Option Nat :=
  let len := blkWord b 4
  if r == 4 then
    if len % 4 != 0 then some 1
    else if fmtQF fmt == 9 then some 3
    else if blkWord b 7 < quantSize fmt (len / 4) then some 2
    else none
  else if r != 5 then none
  else
    let z := 2 ^ bitsOf (blkWord b 6) 11 8
    let c := blkWord b 7
    if 8 < z || c == 0 || len % (z * c) != 0 then some 1
    else if 65536 < len then some 3
    else none

/-- What a standard routine can put out so far. -/
def plainOutput (fmt : Word) (b : List Word) (x : Xform) : List Byte :=
  match decoded b x with
  | some r => r.out.reverse
  | none =>
    if x.routine == 4 then quantOutput fmt (blkWord b 4) x
    else if x.input.length == blkWord b 4 then transposed (2 ^ bitsOf (blkWord b 6) 11 8) (blkWord b 7) x.input
    else []

/-- A standard routine reads on: a decoder while its stream goes on and its output has not been cut. -/
def readsOn (b : List Word) (x : Xform) : Bool :=
  decide (x.inpos < blkWord b 4) && (match decoded b x with
    | some r => r.stop == .more && !x.full
    | none => true)

/-- A standard routine has output to put out; a decoder whose output has been cut has no more. -/
def putsOn (fmt : Word) (b : List Word) (x : Xform) : Bool :=
  decide (x.sent < (plainOutput fmt b x).length) && !((decoded b x).isSome && x.full)

/-- A standard routine may end: its output is out, or cut, or its stream is refused, however much of the output before that
is out. -/
def mayEnd (fmt : Word) (b : List Word) (x : Xform) : Bool :=
  let out := decide ((plainOutput fmt b x).length ≤ x.sent)
  match decoded b x with
  | some r => x.full || (match r.stop with
    | .more => false
    | .done => out
    | .bad _ => true)
  | none => x.inpos == blkWord b 4 && out

/-- The status with which a standard routine ends; a decoder whose output was cut ends with 2 all the same. -/
def plainStatus (fmt : Word) (b : List Word) (x : Xform) : Nat :=
  match decoded b x with
  | some r => (match r.stop with
    | .bad c => c
    | .more | .done => 0)
  | none => (earlyEnd fmt b x.routine).getD 0

/-! ### The routine's calls (R291) -/

/-- An x register of a routine. -/
def xReg (v : Config.RoutineState) (k : Nat) : DWord := v.regs.getD (k + 1) 0#64

/-- The routine where it stops next, and its stop: 1 to 4 a call, 6 a fault, 0 none. -/
def routineStop (x : Xform) : Config.RoutineState × Nat :=
  match x.call with
  | some k => (x.rv, k)
  | none =>
    if plainRoutine x then (Config.routineRun x.routine x.image x.rv, 0)
    else
      let r := rvRun x.image (Config.routineSpan x.image x.rv) ⟨x.rv, none⟩
      let call := (xReg r.1 17).toNat
      (r.1,
        if r.2 == 0 then
          if call == 2 && 8192 < (xReg r.1 10).toNat then 6
          else if 1 ≤ call && call ≤ 4 then call
          else 6
        else if r.2 == 1 then 6
        else 0)

/-- The routine goes on behind its ecall with a0. -/
def routineServe (v : Config.RoutineState) (a0 : Nat) : Config.RoutineState :=
  { v with regs := (v.regs.set 11 (BitVec.ofNat 64 a0)).set 0 (v.regs.getD 0 0#64 + 4#64) }

/-- The running routine of an XFORM that makes call k now: it stands still while a whole unit of its output is not yet
written (R295). -/
def calling (s : State) (c : Crew) (o : Op) (k : Nat) (f : CopyOp → Xform → State) : State :=
  match copyOf o with
  | none => s
  | some p => match p.xf with
    | none => s
    | some x =>
      if x.code.isSome || (unitPlan c p p.prog).isSome then s
      else
        let may :=
          if plainRoutine x then
            let early := (earlyEnd o.fmt p.block x.routine).isSome
            match k with
            | 1 => !early && readsOn p.block x
            | 2 => !early && putsOn o.fmt p.block x
            | 3 => early || mayEnd o.fmt p.block x
            | _ => false
          else (routineStop x).2 == k
        if may then f p x else s

/-- The command with its transform state changed: its routine has left the call it stood at. -/
def setXform (c : Crew) (o : Op) (p : CopyOp) (x : Xform) : Crew :=
  setOp c { o with body := .copy { p with xf := some { x with call := none }, miss := [] } }

/-- The routine as it stands at its call. -/
def atCall (x : Xform) : Config.RoutineState := (routineStop x).1

/-- GETIN: the next input bytes are read into the input buffer (R291, R295). -/
def execGetin (c o : Nat) (s : State) : Out :=
  event s (fun s => stepping s c o (fun y q => calling s y q 1 (fun p x =>
    let n := min 8192 (blkWord p.block 4 - x.inpos)
    let f := match p.kind with
      | .cpy _ f => f
      | .wbuf _ _ => 0
      | .tsmov _ _ => 0
    let a := cpySrc f p.block + x.inpos
    let ts : List Touch := if optSS f then [] else [⟨a, n, false⟩]
    let io := ioOpen s.dev (opAsker y q) y.ctx s.nfree q.memMark (unitSkips q ts) ts
    if !io.good then copyStop s y q { p with xf := some { x with rv := atCall x, call := some 1 } } io
    else
      let bs := if optSS f then scratchRead y q s.nfree a n else io.read a n
      let v := routineServe (atCall x) n
      let x1 := { x with
        inpos := x.inpos + n, input := if plainRoutine x then x.input ++ bs else [], rv := { v with inbuf := bs } }
      let cmp := fun i => compandFlight s.dev y.ctx q s.nfree (700000 + i) 0x100
      putCrew s io.dev (setXform y (passUnit q ts) p
        (if x.routine == 4 then quantMore cmp q.fmt (blkWord p.block 4) x1 else x1)))))

/-- PUTOUT: bytes of the output buffer join the output, as far as the capacity goes (R291). -/
def execPutout (c o : Nat) (s : State) : Out :=
  event s (fun s => stepping s c o (fun y q => calling s y q 2 (fun p x =>
    let v := atCall x
    let bs :=
      if plainRoutine x then
        let rest := (plainOutput q.fmt p.block x).drop x.sent
        rest.take (1 + Config.freeNat s.nfree 1 % min 8192 rest.length)
      else (List.range (xReg v 10).toNat).map (fun i => v.outbuf.getD i (Config.routineByte x.image v (0x12000 + i)))
    let cap := xformBound p.block
    let kept := bs.take (cap - x.sent)
    putCrew s s.dev (setXform y q p { x with
      sent := x.sent + kept.length, pend := x.pend ++ kept, full := x.full || decide (cap < x.sent + bs.length)
      rv := routineServe v (if cap ≤ x.sent + bs.length then 1 else 0) }))))

/-- END: the routine ends with its status; a reserved one is 6, and a decoder whose output was cut ends with 2
(R291, R292, R294). -/
def execEndRoutine (c o : Nat) (s : State) : Out :=
  event s (fun s => stepping s c o (fun y q => calling s y q 3 (fun p x =>
    let said := if plainRoutine x then plainStatus q.fmt p.block x else (xReg (atCall x) 10).toNat
    let code := if 1 ≤ x.routine && x.routine ≤ 3 && x.full then 2 else if 6 < said then 6 else said
    putCrew s s.dev (setXform y q p { x with code := some code, rv := atCall x }))))

/-- ARGS (R291). -/
def execArgs (c o : Nat) (s : State) : Out :=
  event s (fun s => stepping s c o (fun y q => calling s y q 4 (fun p x =>
    let v := routineServe (atCall x) (blkWord p.block 6)
    let regs := ((v.regs.set 12 (BitVec.ofNat 64 (blkWord p.block 7))).set 13 (q.fmt.setWidth 64)).set 14
      (BitVec.ofNat 64 (blkWord p.block 4))
    putCrew s s.dev (setXform y q p { x with rv := { v with regs := regs } }))))

/-- ROUTINE_FAULT: any other call, or an exception of the routine, ends it with status 6 (R291). -/
def execRoutineFault (c o : Nat) (s : State) : Out :=
  event s (fun s => stepping s c o (fun y q => calling s y q 6 (fun p x =>
    putCrew s s.dev (setXform y q p { x with code := some 6, rv := atCall x }))))

end Sys2Proof.Machine
end

