-- ==== Sys2Proof/Machine/Dispatch.lean ====
section
/-! DEFINITION. One arm per row of the opcode table: the meaning of each instruction and of each step of the device. -/

namespace Sys2Proof.Machine

def exec (i : Instr) (s : State) : Host.Outcome State Fault Refusal :=
  match i with
  | .movCompact d p => Sys2Proof.Machine.execMovCompact d p s
  | .addI32Compact d p => Sys2Proof.Machine.execAddI32Compact d p s
  | .subI32Compact d p => Sys2Proof.Machine.execSubI32Compact d p s
  | .andCompact d p => Sys2Proof.Machine.execAndCompact d p s
  | .orCompact d p => Sys2Proof.Machine.execOrCompact d p s
  | .xorCompact d p => Sys2Proof.Machine.execXorCompact d p s
  | .shlCompact d p => Sys2Proof.Machine.execShlCompact d p s
  | .shrN32Compact d p => Sys2Proof.Machine.execShrN32Compact d p s
  | .addF32Compact d p => Sys2Proof.Machine.execAddF32Compact d p s
  | .subF32Compact d p => Sys2Proof.Machine.execSubF32Compact d p s
  | .mulF32Compact d p => Sys2Proof.Machine.execMulF32Compact d p s
  | .maxF32Compact d p => Sys2Proof.Machine.execMaxF32Compact d p s
  | .minF32Compact d p => Sys2Proof.Machine.execMinF32Compact d p s
  | .addF16x2Compact d p => Sys2Proof.Machine.execAddF16x2Compact d p s
  | .mulF16x2Compact d p => Sys2Proof.Machine.execMulF16x2Compact d p s
  | .shrI32Compact d p => Sys2Proof.Machine.execShrI32Compact d p s
  | .addI32 d a b => Sys2Proof.Machine.execAddI32 d a b s
  | .subI32 d a b => Sys2Proof.Machine.execSubI32 d a b s
  | .mulI32 d a b => Sys2Proof.Machine.execMulI32 d a b s
  | .mulhiI32 d a b => Sys2Proof.Machine.execMulhiI32 d a b s
  | .mulhiN32 d a b => Sys2Proof.Machine.execMulhiN32 d a b s
  | .madI32 d a b => Sys2Proof.Machine.execMadI32 d a b s
  | .minI32 d a b => Sys2Proof.Machine.execMinI32 d a b s
  | .maxI32 d a b => Sys2Proof.Machine.execMaxI32 d a b s
  | .minN32 d a b => Sys2Proof.Machine.execMinN32 d a b s
  | .maxN32 d a b => Sys2Proof.Machine.execMaxN32 d a b s
  | .and d a b => Sys2Proof.Machine.execAnd d a b s
  | .or d a b => Sys2Proof.Machine.execOr d a b s
  | .xor d a b => Sys2Proof.Machine.execXor d a b s
  | .andn d a b => Sys2Proof.Machine.execAndn d a b s
  | .shl d a b => Sys2Proof.Machine.execShl d a b s
  | .shrN32 d a b => Sys2Proof.Machine.execShrN32 d a b s
  | .shrI32 d a b => Sys2Proof.Machine.execShrI32 d a b s
  | .rot d a b => Sys2Proof.Machine.execRot d a b s
  | .bfx d a b => Sys2Proof.Machine.execBfx d a b s
  | .bfi d a b => Sys2Proof.Machine.execBfi d a b s
  | .bitu d a f => Sys2Proof.Machine.execBitu d a f s
  | .addI64 d a b => Sys2Proof.Machine.execAddI64 d a b s
  | .subI64 d a b => Sys2Proof.Machine.execSubI64 d a b s
  | .madN64N32 d a b => Sys2Proof.Machine.execMadN64N32 d a b s
  | .addF32 d a b => Sys2Proof.Machine.execAddF32 d a b s
  | .subF32 d a b => Sys2Proof.Machine.execSubF32 d a b s
  | .mulF32 d a b => Sys2Proof.Machine.execMulF32 d a b s
  | .fmaF32 d a b => Sys2Proof.Machine.execFmaF32 d a b s
  | .minF32 d a b => Sys2Proof.Machine.execMinF32 d a b s
  | .maxF32 d a b => Sys2Proof.Machine.execMaxF32 d a b s
  | .addF16x2 d a b => Sys2Proof.Machine.execAddF16x2 d a b s
  | .mulF16x2 d a b => Sys2Proof.Machine.execMulF16x2 d a b s
  | .fmaF16x2 d a b => Sys2Proof.Machine.execFmaF16x2 d a b s
  | .addBf16x2 d a b => Sys2Proof.Machine.execAddBf16x2 d a b s
  | .fmaBf16x2 d a b => Sys2Proof.Machine.execFmaBf16x2 d a b s
  | .maxF16x2 d a b => Sys2Proof.Machine.execMaxF16x2 d a b s
  | .funF32 d a f => Sys2Proof.Machine.execFunF32 d a f s
  | .mov64 d a => Sys2Proof.Machine.execMov64 d a s
  | .cvt d a c => Sys2Proof.Machine.execCvt d a c s
  | .cvtp d a b => Sys2Proof.Machine.execCvtp d a b s
  | .qnt d a b => Sys2Proof.Machine.execQnt d a b s
  | .dqn d a b => Sys2Proof.Machine.execDqn d a b s
  | .sel d a b => Sys2Proof.Machine.execSel d a b s
  | .shfl d a b => Sys2Proof.Machine.execShfl d a b s
  | .rdlane d a b => Sys2Proof.Machine.execRdlane d a b s
  | .wrlane d a b => Sys2Proof.Machine.execWrlane d a b s
  | .wred d a f => Sys2Proof.Machine.execWred d a f s
  | .wscan d a f => Sys2Proof.Machine.execWscan d a f s
  | .cmpI32 m c a b => Sys2Proof.Machine.execCmpI32 m c a b s
  | .cmpN32 m c a b => Sys2Proof.Machine.execCmpN32 m c a b s
  | .cmpF32 m c a b => Sys2Proof.Machine.execCmpF32 m c a b s
  | .test m c a b => Sys2Proof.Machine.execTest m c a b s
  | .mop m c a b => Sys2Proof.Machine.execMop m c a b s
  | .mmov m c a b => Sys2Proof.Machine.execMmov m c a b s
  | .movi d imm => Sys2Proof.Machine.execMovi d imm s
  | .movhi d imm => Sys2Proof.Machine.execMovhi d imm s
  | .addi d imm => Sys2Proof.Machine.execAddi d imm s
  | .andi d imm => Sys2Proof.Machine.execAndi d imm s
  | .ori d imm => Sys2Proof.Machine.execOri d imm s
  | .bra o => Sys2Proof.Machine.execBra o s
  | .brany m o => Sys2Proof.Machine.execBrany m o s
  | .brall m o => Sys2Proof.Machine.execBrall m o s
  | .brs m o => Sys2Proof.Machine.execBrs m o s
  | .joinat m o => Sys2Proof.Machine.execJoinat m o s
  | .call o => Sys2Proof.Machine.execCall o s
  | .ctlJmpr a => Sys2Proof.Machine.execCtlJmpr a s
  | .ctlReord n a b => Sys2Proof.Machine.execCtlReord n a b s
  | .ctlSleep a => Sys2Proof.Machine.execCtlSleep a s
  | .dot4I8 d a b => Sys2Proof.Machine.execDot4I8 d a b s
  | .dot4N8 d a b => Sys2Proof.Machine.execDot4N8 d a b s
  | .dot8I4 d a b => Sys2Proof.Machine.execDot8I4 d a b s
  | .dot4F8 d a b => Sys2Proof.Machine.execDot4F8 d a b s
  | .dot8F4 d a b => Sys2Proof.Machine.execDot8F4 d a b s
  | .dot2F16 d a b => Sys2Proof.Machine.execDot2F16 d a b s
  | .dot2Bf16 d a b => Sys2Proof.Machine.execDot2Bf16 d a b s
  | .sclx d a => Sys2Proof.Machine.execSclx d a s
  | .ld d a z o => Sys2Proof.Machine.execLd d a z o s
  | .st d a z o => Sys2Proof.Machine.execSt d a z o s
  | .lds d a z o => Sys2Proof.Machine.execLds d a z o s
  | .sts d a z o => Sys2Proof.Machine.execSts d a z o s
  | .ldc d a z o => Sys2Proof.Machine.execLdc d a z o s
  | .stp d a z o => Sys2Proof.Machine.execStp d a z o s
  | .atom d a p w => Sys2Proof.Machine.execAtom d a p w s
  | .red d a p w => Sys2Proof.Machine.execRed d a p w s
  | .atoms d a p w => Sys2Proof.Machine.execAtoms d a p w s
  | .ldu d a z o => Sys2Proof.Machine.execLdu d a z o s
  | .stu d a z o => Sys2Proof.Machine.execStu d a z o s
  | .ldrec d a w n => Sys2Proof.Machine.execLdrec d a w n s
  | .barInit a b => Sys2Proof.Machine.execBarInit a b s
  | .barArrive a b => Sys2Proof.Machine.execBarArrive a b s
  | .barExpect a b => Sys2Proof.Machine.execBarExpect a b s
  | .barArrivex a b => Sys2Proof.Machine.execBarArrivex a b s
  | .barWait a b => Sys2Proof.Machine.execBarWait a b s
  | .barWaitt m a b => Sys2Proof.Machine.execBarWaitt m a b s
  | .barTest m a b => Sys2Proof.Machine.execBarTest m a b s
  | .barEnroll a => Sys2Proof.Machine.execBarEnroll a s
  | .barDrop a => Sys2Proof.Machine.execBarDrop a s
  | .barInval a => Sys2Proof.Machine.execBarInval a s
  | .pbarArrive a b => Sys2Proof.Machine.execPbarArrive a b s
  | .pbarWait a b => Sys2Proof.Machine.execPbarWait a b s
  | .pbarTest m a b => Sys2Proof.Machine.execPbarTest m a b s
  | .fenceOpc => Sys2Proof.Machine.execFenceOpc s
  | .fenceIfetch => Sys2Proof.Machine.execFenceIfetch s
  | .fenceAsync => Sys2Proof.Machine.execFenceAsync s
  | .cpyLin f a => Sys2Proof.Machine.execCpyLin f a s
  | .cpyTile f a => Sys2Proof.Machine.execCpyTile f a s
  | .cpyGather f a => Sys2Proof.Machine.execCpyGather f a s
  | .cpyScatter f a => Sys2Proof.Machine.execCpyScatter f a s
  | .cpyXform f a => Sys2Proof.Machine.execCpyXform f a s
  | .cpyFill f a => Sys2Proof.Machine.execCpyFill f a s
  | .cbatchSeal a => Sys2Proof.Machine.execCbatchSeal a s
  | .cbatchWait a => Sys2Proof.Machine.execCbatchWait a s
  | .cbatchTest m a => Sys2Proof.Machine.execCbatchTest m a s
  | .mmao t w a b => Sys2Proof.Machine.execMmao t w a b s
  | .mmat t w a => Sys2Proof.Machine.execMmat t w a s
  | .wbufLoad w a => Sys2Proof.Machine.execWbufLoad w a s
  | .wbufMcast w a => Sys2Proof.Machine.execWbufMcast w a s
  | .wbufInval w => Sys2Proof.Machine.execWbufInval w s
  | .wbufQuery w a => Sys2Proof.Machine.execWbufQuery w a s
  | .tsmovToreg n a b => Sys2Proof.Machine.execTsmovToreg n a b s
  | .tsmovFromreg n a b => Sys2Proof.Machine.execTsmovFromreg n a b s
  | .tsmovTomem a b => Sys2Proof.Machine.execTsmovTomem a b s
  | .tsmovFrommem a b => Sys2Proof.Machine.execTsmovFrommem a b s
  | .tdefView f a b => Sys2Proof.Machine.execTdefView f a b s
  | .tdefConst a b => Sys2Proof.Machine.execTdefConst a b s
  | .top d a b p => Sys2Proof.Machine.execTop d a b p s
  | .tmap d a b p => Sys2Proof.Machine.execTmap d a b p s
  | .tdemStore f a b => Sys2Proof.Machine.execTdemStore f a b s
  | .tdemForce a b => Sys2Proof.Machine.execTdemForce a b s
  | .tdemDrop a => Sys2Proof.Machine.execTdemDrop a s
  | .tdemQuery a b => Sys2Proof.Machine.execTdemQuery a b s
  | .tdemDiscard b => Sys2Proof.Machine.execTdemDiscard b s
  | .chBind a b => Sys2Proof.Machine.execChBind a b s
  | .chBond a b => Sys2Proof.Machine.execChBond a b s
  | .chMode a b => Sys2Proof.Machine.execChMode a b s
  | .chStep a => Sys2Proof.Machine.execChStep a s
  | .chRun a b => Sys2Proof.Machine.execChRun a b s
  | .chEnv a => Sys2Proof.Machine.execChEnv a s
  | .chQuery a => Sys2Proof.Machine.execChQuery a s
  | .chReset => Sys2Proof.Machine.execChReset s
  | .traceClosest c a b => Sys2Proof.Machine.execTraceClosest c a b s
  | .traceAny c a b => Sys2Proof.Machine.execTraceAny c a b s
  | .traceQuery a => Sys2Proof.Machine.execTraceQuery a s
  | .smpBil a b => Sys2Proof.Machine.execSmpBil a b s
  | .smpPt a b => Sys2Proof.Machine.execSmpPt a b s
  | .smpGather4 c a b => Sys2Proof.Machine.execSmpGather4 c a b s
  | .jobLaunch a b => Sys2Proof.Machine.execJobLaunch a b s
  | .jobNext a => Sys2Proof.Machine.execJobNext a s
  | .jobTrig => Sys2Proof.Machine.execJobTrig s
  | .jobDepwait a => Sys2Proof.Machine.execJobDepwait a s
  | .jobExit => Sys2Proof.Machine.execJobExit s
  | .jobExits a => Sys2Proof.Machine.execJobExits a s
  | .jobYield => Sys2Proof.Machine.execJobYield s
  | .jobYieldonBar a b => Sys2Proof.Machine.execJobYieldonBar a b s
  | .jobYieldonFlg a b => Sys2Proof.Machine.execJobYieldonFlg a b s
  | .sysTrap a => Sys2Proof.Machine.execSysTrap a s
  | .sysEret => Sys2Proof.Machine.execSysEret s
  | .sysCtlrd a b => Sys2Proof.Machine.execSysCtlrd a b s
  | .sysCtlwr a b => Sys2Proof.Machine.execSysCtlwr a b s
  | .sysParkrd a b => Sys2Proof.Machine.execSysParkrd a b s
  | .sysParkwr a b => Sys2Proof.Machine.execSysParkwr a b s
  | .sysWatch imm a => Sys2Proof.Machine.execSysWatch imm a s
  | .sysTlbinv a => Sys2Proof.Machine.execSysTlbinv a s
  | .sysHalt => Sys2Proof.Machine.execSysHalt s
  | .lit l => Sys2Proof.Machine.execLit l s
  | .clauseBegin => Sys2Proof.Machine.execClauseBegin s
  | .fragmentAged f => Sys2Proof.Machine.execFragmentAged f s
  | .sleepExpire f => Sys2Proof.Machine.execSleepExpire f s
  | .waittTimeout f => Sys2Proof.Machine.execWaittTimeout f s
  | .loadComplete c o => Sys2Proof.Machine.execLoadComplete c o s
  | .storeComplete c o => Sys2Proof.Machine.execStoreComplete c o s
  | .fullEmptyRetest c o => Sys2Proof.Machine.execFullEmptyRetest c o s
  | .hubFlush imm => Sys2Proof.Machine.execHubFlush imm s
  | .qlaunch q v => Sys2Proof.Machine.execQlaunch q v s
  | .cardRead die imm => Sys2Proof.Machine.execCardRead die imm s
  | .crewPlace c => Sys2Proof.Machine.execCrewPlace c s
  | .placementHold c => Sys2Proof.Machine.execPlacementHold c s
  | .preqExpire c => Sys2Proof.Machine.execPreqExpire c s
  | .crewSave c => Sys2Proof.Machine.execCrewSave c s
  | .crewResume c cx cy => Sys2Proof.Machine.execCrewResume c cx cy s
  | .waveRetire c w => Sys2Proof.Machine.execWaveRetire c w s
  | .doneWrite j => Sys2Proof.Machine.execDoneWrite j s
  | .copyUnit c o u => Sys2Proof.Machine.execCopyUnit c o u s
  | .copyComplete c o => Sys2Proof.Machine.execCopyComplete c o s
  | .getin c o => Sys2Proof.Machine.execGetin c o s
  | .putout c o => Sys2Proof.Machine.execPutout c o s
  | .endRoutine c o => Sys2Proof.Machine.execEndRoutine c o s
  | .args c o => Sys2Proof.Machine.execArgs c o s
  | .routineFault c o => Sys2Proof.Machine.execRoutineFault c o s
  | .wbufComplete c o => Sys2Proof.Machine.execWbufComplete c o s
  | .mmaoComplete c o => Sys2Proof.Machine.execMmaoComplete c o s
  | .mmatComplete c o => Sys2Proof.Machine.execMmatComplete c o s
  | .tsmovComplete c o => Sys2Proof.Machine.execTsmovComplete c o s
  | .materialise c n => Sys2Proof.Machine.execMaterialise c n s
  | .demandBlock c o b => Sys2Proof.Machine.execDemandBlock c o b s
  | .tdemComplete c o => Sys2Proof.Machine.execTdemComplete c o s
  | .chainStep c => Sys2Proof.Machine.execChainStep c s
  | .chainComplete c o => Sys2Proof.Machine.execChainComplete c o s
  | .traceComplete c o => Sys2Proof.Machine.execTraceComplete c o s
  | .smpComplete c o => Sys2Proof.Machine.execSmpComplete c o s
  | .salamanderBatch die => Sys2Proof.Machine.execSalamanderBatch die s
  | .pageArrive die slot page => Sys2Proof.Machine.execPageArrive die slot page s
  | .atsCompletion imm v => Sys2Proof.Machine.execAtsCompletion imm v s
  | .atsInvalidation pasid addr size tag => Sys2Proof.Machine.execAtsInvalidation pasid addr size tag s
  | .invalidationComplete imm => Sys2Proof.Machine.execInvalidationComplete imm s
  | .prgResponse group code => Sys2Proof.Machine.execPrgResponse group code s
  | .wrapClear tag => Sys2Proof.Machine.execWrapClear tag s
  | .cxctl slot v => Sys2Proof.Machine.execCxctl slot v s
  | .cxfresp slot v => Sys2Proof.Machine.execCxfresp slot v s
  | .cxinvc slot v => Sys2Proof.Machine.execCxinvc slot v s
  | .cxpre slot v => Sys2Proof.Machine.execCxpre slot v s
  | .cxfq slot v => Sys2Proof.Machine.execCxfq slot v s
  | .cxcwn slot v => Sys2Proof.Machine.execCxcwn slot v s
  | .cxcwdRead slot => Sys2Proof.Machine.execCxcwdRead slot s
  | .cxcwdWrite slot v => Sys2Proof.Machine.execCxcwdWrite slot v s
  | .hostWrite pa bytes => Sys2Proof.Machine.execHostWrite pa bytes s
  | .snoop line kind => Sys2Proof.Machine.execSnoop line kind s
  | .backInvalidation line kind => Sys2Proof.Machine.execBackInvalidation line kind s
  | .counterDecay => Sys2Proof.Machine.execCounterDecay s
  | .frameFill frame => Sys2Proof.Machine.execFrameFill frame s
  | .frameDrain die frame => Sys2Proof.Machine.execFrameDrain die frame s
  | .l2Evict line => Sys2Proof.Machine.execL2Evict line s
  | .hbmUncorrectable line => Sys2Proof.Machine.execHbmUncorrectable line s
  | .poolFail port base size => Sys2Proof.Machine.execPoolFail port base size s
  | .hostLinkDown => Sys2Proof.Machine.execHostLinkDown s
  | .hostLinkUp => Sys2Proof.Machine.execHostLinkUp s
  | .pcclr v => Sys2Proof.Machine.execPcclr v s
  | .pcclrDone => Sys2Proof.Machine.execPcclrDone s
  | .pcmark die v => Sys2Proof.Machine.execPcmark die v s
  | .keyctl v => Sys2Proof.Machine.execKeyctl v s
  | .keyInstall => Sys2Proof.Machine.execKeyInstall s
  | .pooldec imm v => Sys2Proof.Machine.execPooldec imm v s
  | .rtload v => Sys2Proof.Machine.execRtload v s
  | .fwload v => Sys2Proof.Machine.execFwload v s
  | .imageLoadDone => Sys2Proof.Machine.execImageLoadDone s
  | .attest v => Sys2Proof.Machine.execAttest v s
  | .fsclr v => Sys2Proof.Machine.execFsclr v s
  | .reset => Sys2Proof.Machine.execReset s
  | .startupStep die ok => Sys2Proof.Machine.execStartupStep die ok s
  | .startupTimeout die => Sys2Proof.Machine.execStartupTimeout die s
  | .portFail port => Sys2Proof.Machine.execPortFail port s
  | .pwrlim v => Sys2Proof.Machine.execPwrlim v s
  | .powerCheck draw => Sys2Proof.Machine.execPowerCheck draw s
  | .registerWrite addr v => Sys2Proof.Machine.execRegisterWrite addr v s
  | .cxfqhead slot v => Sys2Proof.Machine.execCxfqhead slot v s
  | .tracePark c o => Sys2Proof.Machine.execTracePark c o s
  | .smpPark c o => Sys2Proof.Machine.execSmpPark c o s

end Sys2Proof.Machine
end

