-- ==== Sys2Proof/Machine/Schedule.lean ====
section
/-! DEFINITION. What a step does around an instruction: the fragment that issues (R191, R196), the steps the device may
take, the conditions that wake what waits (R192), the carrying out of containments (R42), and the clock (R6). -/

namespace Sys2Proof.Machine

/-! ### Waking what waits (R191, R192) -/

/-- The fragment is Ready again. -/
def wakeAs (clk : Nat) (r : Resume) (f : Frag) : Frag := { f with status := .ready, resume := r, age := clk }

/-- A wait on a barrier object: its phase complete, or the object invalid (R267, R270).  R270 names INVAL alone; an object
that a store has made invalid ends the wait in the same way (DESIGN CHOICE; assumption 83). -/
def wakeBar (clk : Nat) (c : Crew) (o p : Nat) (f : Frag) : Frag :=
  let b := barAt c o
  if !b.valid then wakeAs clk .broken f else if b.done p then wakeAs clk .released f else f

/-- R176: the phase a patch barrier's waiter names is done. -/
def patchDone (d : Dev) (job : DWord) (px py a b index p : Nat) : Bool :=
  d.pbars.any (fun e =>
    let q := Patch.ofWord e.patch
    e.job == job && q.px == px && q.py == py && q.a == a && q.b == b && e.index == index && phaseDone e.phase p)

/-- A late trap waits for delivery to a fragment that waits on these operations (R296, R321). -/
def lateFor (c : Crew) (f : Frag) (p : Op → Bool) : Bool := !f.trapMode && (lateWhere c.ops p).isSome

/-- The fragment, Ready where what it waits for has come about. -/
def wakeFrag (d : Dev) (clk : Nat) (c : Crew) (w : Wave) (f : Frag) : Frag :=
  match f.status with
  | .waiting =>
    if f.parcel == 63 && waitClear w f.hdr then wakeAs clk .released f
    -- what it waits for has its record now (R36, R37)
    else if f.parcel == 63 && f.hdr.yld && !waitsUnrecorded c w.idx f.hdr then { f with status := .yielded }
    else f
  | .yielded => if f.parcel == 63 && waitClear w f.hdr then wakeAs clk .released f else f
  | .blocked (.barrier o p) => wakeBar clk c o p f
  | .blocked (.barrierT o p _) => wakeBar clk c o p f
  | .blocked (.yieldonBar o p) => wakeBar clk c o p f
  | .blocked (.patch px py a b i p) => if patchDone d c.job px py a b i p then wakeAs clk .released f else f
  | .blocked (.batch x) =>
    if (batchOpen c.ops w (BitVec.ofNat 32 x)).isEmpty then wakeAs clk .released f else f
  | .blocked .earlier => if pendingFor c.ops w.idx f.lanes then f else wakeAs clk .fresh f
  | .blocked .seal => if (openBatches c.ops w.batches).length < 64 then wakeAs clk .fresh f else f
  | .blocked .depwait => if depsDone d c.job then wakeAs clk .fresh f else f
  | .blocked (.yieldonFlg m) => if flagsClear w (BitVec.ofNat 32 m) then wakeAs clk .released f else f
  | .blocked (.tlbinv _) | .blocked .launch | .blocked .exits | .blocked (.sleep _)
  | .ready | .stalled | .fetchWait | .yieldedJob | .joining => f

/-- R42: the containments that stand carried out. -/
def containAll (d : Dev) (clk : Nat) : Dev :=
  (d.crews.filter (fun c => c.contained.isSome)).foldl (fun d c =>
    match c.contained with
    | some k => containCrew d clk c k
    | none => d) d

/-- R37: the records of the crew's operations that stopped where the park area had no room, as far as they fit now. -/
def recordStopped (d : Dev) (c : Crew) : Crew :=
  (c.ops.filter (fun o => unrecorded o && !isReload o)).foldl (fun c o =>
    let (cause, late) := match o.status with
      | .late k => (k, true)
      | .parked k => (k, false)
      | .trapped _ k => (k, true)
      | .inflight => (0, false)
    let (c1, o1) := recordOp c o cause late (missingCount d (.op c.uid o.id))
    if o1.recOff.isSome then setOp c1 o1 else c) c

/-- Every crew on a core looked at for records that fit now. -/
def recordAll (d : Dev) : Dev :=
  { d with crews := d.crews.map (fun c => if c.state == .saved then c else recordStopped d c) }

/-- Every waiting fragment of crews that run looked at. -/
def wakeAll (d : Dev) (clk : Nat) : Dev :=
  { d with crews := d.crews.map (fun c =>
      if c.state == .saved then c
      else { c with waves := c.waves.map (fun w => { w with frags := w.frags.map (wakeFrag d clk c w) }) }) }

/-! ### Who may issue (R196) -/

/-- A reload of the slot list is outstanding: the crew has not begun again (R364). -/
def reloading (c : Crew) : Bool := c.ops.any isReload

/-- A fragment Blocked in a LAUNCH or EXITS whose launch stands in a die's list, or whose page is missing (R157, R164). -/
def waitsAnswer (d : Dev) (r : FragRef) : Bool :=
  d.launches.any (fun l => l.who == r) || d.missing.any (fun m => m.links.contains (.frag r))

/-- The fragment's next instruction, or its clause, may be tried now; a forced save stops it at a clause boundary and where
R33 stalls it (R171).  One Blocked in a LAUNCH or EXITS for room or for a translation tries again. -/
def issuable (d : Dev) (c : Crew) (w : Wave) (f : Frag) : Bool :=
  match f.status with
  | .ready => !(c.forced && (f.parcel == 63 || !f.latched))
  | .stalled => !(c.forced && stoppedForced c w f)
  | .waiting =>
    if f.parcel == 63 then !c.forced && lateFor c f (fun o => o.wave == w.idx && o.flag.any (inWait f.hdr))
    else lateFor c f (fun o => o.wave == w.idx) || !asyncOpen c.ops w.idx f.lanes
  | .yielded =>
    if f.parcel == 63 then !c.forced && lateFor c f (fun o => o.wave == w.idx && o.flag.any (inWait f.hdr))
    else match ownDemand c with
      | none => true
      | some o => (match o.status with
        | .parked _ => false
        | .inflight | .late _ | .trapped _ _ => true)
  | .blocked .launch => !c.forced && !waitsAnswer d ⟨c.uid, w.idx, f.id⟩
  | .blocked .exits => !c.forced && !waitsAnswer d ⟨c.uid, w.idx, f.id⟩
  | .blocked (.batch x) => !c.forced && lateFor c f (fun o => (batchOpen c.ops w (BitVec.ofNat 32 x)).contains o.id)
  | .fetchWait | .yieldedJob | .blocked _ | .joining => false

/-- R196: the class of a fragment for issue, the highest 0. -/
def issueClass (clk : Nat) (w : Wave) (f : Frag) : Nat :=
  if f.trapMode then 0
  else if f.aged || agedNow clk f then 1
  else match w.role with
    | .mat => 2
    | .copy => 3
    | .vec => 4
    | .gen => 5

/-- What an instruction needs free to issue (R196): its lane unit, the pair's scalar unit (R19), or room in its engine's
command queue. -/
inductive IssueNeed where
  | nothing
  | lane
  | scalar
  | engine (maj : Nat)
  deriving DecidableEq, Repr

/-- R61, R65: what a 32-bit instruction needs.  The queues of the copy, traversal and sample engines are modelled, and the
instruction itself waits for room there (R286, R353, R455). -/
def wordNeed (w : BitVec 32) : IssueNeed :=
  let maj := (w.extractLsb' 1 7).toNat
  let d := (w.extractLsb' 8 8).toNat
  if maj < 0x40 || (0x48 ≤ maj && maj ≤ 0x4F) then
    (if (maj < 0x30 || 0x36 < maj) && ((0x80 ≤ d && d ≤ 0xBF) || (0xE4 ≤ d && d ≤ 0xE8)) then .scalar else .lane)
  else if wordLongLatency w && maj != 0x60 && maj != 0x6E && maj != 0x6F then .engine maj
  else .nothing

/-- What the fragment's next instruction needs; a clause header, or a clause to be fetched again, needs nothing. -/
def fragNeed (f : Frag) : IssueNeed :=
  if f.parcel == 63 || !f.latched then .nothing
  else match bodyItems f.parcel (f.body.drop f.parcel) with
    | some (x :: _) => (match x.word with
      | some w => wordNeed w
      | none => .lane)
    | some [] => .nothing
    | none => .nothing

/-- R44, R49: the fragment in focus issues: it begins its clause, fetches its clause again where it resumes inside one,
or its next instruction is executed; parcels that are no instruction are an illegal one (R67). -/
def issue (s : State) : Out :=
  if s.frag.parcel == 63 then exec .clauseBegin s
  else if !s.frag.latched then .next (relatch s)
  else match decode (s.frag.body.drop s.frag.parcel) with
    | .ok (i, _) => exec i s
    | .error _ => .next (takeTrap s 0x08 false)

/-- The try leaves the fragment where it was, waiting at issue: its next instruction cannot issue now. -/
def triesInVain (f : Frag) (o : Out) : Bool :=
  match o with
  | .next t => t.active && t.frag.parcel == f.parcel &&
      (t.frag.status == .stalled || (f.status != .ready && t.frag.status == f.status))
  | .fault _ => false
  | .refused _ => false

/-- A fragment that may issue: its name, its core and group, its rank by R196, whether a YIELD put it behind the others of
its core (R169), what its next instruction needs, and whether that instruction waits at issue. -/
structure Issuer where
  ref   : FragRef
  core  : Nat
  group : Nat
  rank  : Nat × Nat × Nat × Nat
  back  : Bool
  need  : IssueNeed
  waits : Bool
  deriving DecidableEq, Repr

/-- The fragments whose next instruction is due, or that wait at issue, in a state with nothing in focus.  R196 ends at
the slot number: of two fragments of one wave, alike in class and age, the one of the lower fragment number goes first
(DESIGN CHOICE; assumption 82). -/
def issuers (s : State) : List Issuer :=
  (s.dev.crews.filter (fun c => c.state != .saved && !reloading c)).flatMap (fun c =>
    c.waves.flatMap (fun w => (w.frags.filter (issuable s.dev c w)).map (fun f =>
      { ref := ⟨c.uid, w.idx, f.id⟩, core := c.core, group := 4 * c.core + w.slot % 4
        rank := (issueClass s.clk w f, f.age, w.slot, f.id), back := f.back, need := fragNeed f
        waits := triesInVain f (issue (focusOn s ⟨c.uid, w.idx, f.id⟩)) })))

/-- R169, R196: fragment y goes before fragment x. -/
def goesBefore (y x : Issuer) : Bool :=
  if x.back && !y.back && y.core == x.core && decide (y.rank.2.1 ≤ x.rank.2.1) then true
  else if y.back && !x.back && y.core == x.core && decide (x.rank.2.1 ≤ y.rank.2.1) then false
  else y.group == x.group && keyLess y.rank x.rank

/-- R169, R196: another of these fragments goes before it. -/
def outranked (l : List Issuer) (x : Issuer) : Bool := l.any (fun y => goesBefore y x)

/-- R10, R19: both present a scalar instruction to the scalar unit of one core pair, from its two cores, and fragment y goes
first: the older one, on equal age that of the even core. -/
def pairBefore (y x : Issuer) : Bool :=
  y.need == .scalar && x.need == .scalar && y.core / 2 == x.core / 2 && y.core != x.core &&
  (decide (y.rank.2.1 < x.rank.2.1) || (y.rank.2.1 == x.rank.2.1 && decide (y.core < x.core)))

/-- R19, R26, R196: what the fragment's next instruction needs is free.  How long another's instruction holds a lane unit, a
scalar unit or a place in a matrix or memory queue is timing, and left free for each unit (assumption 4). -/
def unitFree (n : Nat) (x : Issuer) : Bool :=
  match x.need with
  | .nothing => true
  | .lane => Config.freeBit n (2 ^ 69 + x.group)
  | .scalar => Config.freeBit n (2 ^ 69 + 8192 + x.core / 2)
  | .engine maj => Config.freeBit n (2 ^ 69 + 16384 + 128 * x.core + maj)

/-- R196: the fragments one of which issues next: the first of each group of those whose next instruction can issue; and
those that wait at issue, which only look again.  A fragment that is the only one due finds its unit free in the end. -/
def nextIssuers (s : State) : List FragRef :=
  let l := issuers s
  if l.length ≤ 1 then l.map Issuer.ref
  else
    let can := l.filter (fun x => !x.waits && unitFree s.nfree x)
    let first := can.filter (fun x => !outranked can x)
    (first.filter (fun x => !first.any (fun y => pairBefore y x)) ++ l.filter Issuer.waits).map Issuer.ref

/-! ### The steps the device may take -/

/-- A step that the device takes of itself: those of the opcode table that no outside party makes. -/
inductive DevStep where
  | loadComplete (c o : Nat)
  | storeComplete (c o : Nat)
  | fullEmptyRetest (c o : Nat)
  | chainComplete (c o : Nat)
  | copyUnit (c o u : Nat)
  | copyComplete (c o : Nat)
  | wbufComplete (c o : Nat)
  | tsmovComplete (c o : Nat)
  | getin (c o : Nat)
  | putout (c o : Nat)
  | endRoutine (c o : Nat)
  | args (c o : Nat)
  | routineFault (c o : Nat)
  | mmaoComplete (c o : Nat)
  | mmatComplete (c o : Nat)
  | materialise (c n : Nat)
  | demandBlock (c o b : Nat)
  | tdemComplete (c o : Nat)
  | smpComplete (c o : Nat)
  | smpPark (c o : Nat)
  | traceComplete (c o : Nat)
  | tracePark (c o : Nat)
  | fragmentAged (f : FragRef)
  | sleepExpire (f : FragRef)
  | waittTimeout (f : FragRef)
  | crewResume (c cx cy : Nat)
  | placementHold (c : Nat)
  | chainStep (c : Nat)
  | preqExpire (c : Nat)
  | crewSave (c : Nat)
  | waveRetire (c w : Nat)
  | crewPlace (c : Nat)
  | cardRead (die i : Nat)
  | doneWrite (j : Nat)
  | salamanderBatch (die : Nat)
  | pageArrive (die slot page : Nat)
  | invalidationComplete (i : Nat)
  | wrapClear (tag : Nat)
  | hubFlush (i : Nat)
  | counterDecay
  | frameFill (frame : Nat)
  | frameDrain (die frame : Nat)
  | l2Evict (line : Nat)
  | pcclrDone
  | keyInstall
  | imageLoadDone
  | startupStep (die : Nat) (ok : Bool)
  | startupTimeout (die : Nat)
  deriving DecidableEq, Repr

/-- The meaning of such a step: that of its row. -/
def DevStep.run (e : DevStep) (s : State) : Out :=
  match e with
  | .loadComplete c o => execLoadComplete c o s
  | .storeComplete c o => execStoreComplete c o s
  | .fullEmptyRetest c o => execFullEmptyRetest c o s
  | .chainComplete c o => execChainComplete c o s
  | .copyUnit c o u => execCopyUnit c o u s
  | .copyComplete c o => execCopyComplete c o s
  | .wbufComplete c o => execWbufComplete c o s
  | .tsmovComplete c o => execTsmovComplete c o s
  | .getin c o => execGetin c o s
  | .putout c o => execPutout c o s
  | .endRoutine c o => execEndRoutine c o s
  | .args c o => execArgs c o s
  | .routineFault c o => execRoutineFault c o s
  | .mmaoComplete c o => execMmaoComplete c o s
  | .mmatComplete c o => execMmatComplete c o s
  | .materialise c n => execMaterialise c n s
  | .demandBlock c o b => execDemandBlock c o b s
  | .tdemComplete c o => execTdemComplete c o s
  | .smpComplete c o => execSmpComplete c o s
  | .smpPark c o => execSmpPark c o s
  | .traceComplete c o => execTraceComplete c o s
  | .tracePark c o => execTracePark c o s
  | .fragmentAged f => execFragmentAged f s
  | .sleepExpire f => execSleepExpire f s
  | .waittTimeout f => execWaittTimeout f s
  | .crewResume c cx cy => execCrewResume c cx cy s
  | .placementHold c => execPlacementHold c s
  | .chainStep c => execChainStep c s
  | .preqExpire c => execPreqExpire c s
  | .crewSave c => execCrewSave c s
  | .waveRetire c w => execWaveRetire c w s
  | .crewPlace c => execCrewPlace c s
  | .cardRead die i => execCardRead die i s
  | .doneWrite j => execDoneWrite j s
  | .salamanderBatch die => execSalamanderBatch die s
  | .pageArrive die slot page => execPageArrive die slot page s
  | .invalidationComplete i => execInvalidationComplete i s
  | .wrapClear tag => execWrapClear tag s
  | .hubFlush i => execHubFlush i s
  | .counterDecay => execCounterDecay s
  | .frameFill frame => execFrameFill frame s
  | .frameDrain die frame => execFrameDrain die frame s
  | .l2Evict line => execL2Evict line s
  | .pcclrDone => execPcclrDone s
  | .keyInstall => execKeyInstall s
  | .imageLoadDone => execImageLoadDone s
  | .startupStep die ok => execStartupStep die ok s
  | .startupTimeout die => execStartupTimeout die s

/-- The steps an operation may take next. -/
def opEvents (c : Crew) (o : Op) : List DevStep :=
  if !mayStep c o && (memOf o).isNone then []
  else match o.body with
    | .mem m =>
      if m.bits.isSome && !m.taken then (if linesReady c o m then [.fullEmptyRetest c.uid o.id] else [])
      else if m.pieces.any (pieceReady (heldLanes c.ops o) o m) || m.pieces.all (fun p => !pieceOpen p) then
        match m.kind with
        | .load _ | .words => [.loadComplete c.uid o.id]
        | .store => [.storeComplete c.uid o.id]
        | .atomic _ _ ret => [if ret then .loadComplete c.uid o.id else .storeComplete c.uid o.id]
      else []
    | .chain _ => [.chainComplete c.uid o.id]
    | .copy p =>
      ((List.range 64).map (fun k => DevStep.copyUnit c.uid o.id (p.prog + k))) ++
      (match p.kind with
        | .cpy _ _ => [.fullEmptyRetest c.uid o.id, .copyComplete c.uid o.id]
        | .wbuf _ _ => [.wbufComplete c.uid o.id]
        | .tsmov _ _ => [.tsmovComplete c.uid o.id]) ++
      (if p.xf.isSome then [.getin c.uid o.id, .putout c.uid o.id, .endRoutine c.uid o.id, .args c.uid o.id,
        .routineFault c.uid o.id] else [])
    | .mmao _ => [.mmaoComplete c.uid o.id]
    | .mmat _ => [.mmatComplete c.uid o.id]
    | .tsreg _ => [.tsmovComplete c.uid o.id]
    | .demand t =>
      (match t.kind with
        | .own => [.materialise c.uid t.node]
        | .store _ _ _ _ | .force _ => [.demandBlock c.uid o.id t.done, .tdemComplete c.uid o.id])
    | .smp _ => [.smpComplete c.uid o.id, .smpPark c.uid o.id]
    | .trace _ => [.traceComplete c.uid o.id, .tracePark c.uid o.id]

/-- The steps of a fragment's own clock (R197, R243, R267). -/
def fragEvents (clk : Nat) (r : FragRef) (f : Frag) : List DevStep :=
  (if agedNow clk f && !f.aged then [.fragmentAged r] else []) ++
  (if sleepOver clk f then [.sleepExpire r] else []) ++ (if waittOver clk f then [.waittTimeout r] else [])

/-- The steps of a crew that is placed. -/
def crewEvents (s : State) (c : Crew) : List DevStep :=
  if c.state == .saved then
    let k := Config.freeNat s.nfree (700000 + c.uid) % 256
    let die := dieOf c.core
    [.crewResume c.uid (c.core % 48) (c.core / 48), .crewResume c.uid (die % 3 * 16 + k % 16) (die / 3 * 16 + k / 16),
     .placementHold c.uid]
  else
    c.ops.flatMap (opEvents c) ++
    (if c.chainQ.isEmpty then [] else [.chainStep c.uid]) ++
    (if preqOver s.clk c then [.preqExpire c.uid] else []) ++ (if saveDue s.dev c then [.crewSave c.uid] else []) ++
    c.waves.flatMap (fun w =>
      (if waveOver w then [.waveRetire c.uid w.idx] else []) ++
      w.frags.flatMap (fun f => fragEvents s.clk ⟨c.uid, w.idx, f.id⟩ f))

/-- The steps of the dispatch engines. -/
def dispatchEvents (d : Dev) : List DevStep :=
  d.waiting.flatMap (fun w => [.crewPlace w.uid, .placementHold w.uid]) ++
  (List.range 6).filterMap (fun die => (nextQueue d die).map (fun q => .cardRead die (q % 64))) ++
  (d.launches.mapIdx (fun i l => DevStep.cardRead l.die (64 + i))) ++
  ((List.range d.jobs.length).filter (fun k => match d.jobs[k]? with
    | some j => jobSettled d j
    | none => false)).map DevStep.doneWrite

/-- The steps of Salamander, of invalidations and of the hubs. -/
def faultEvents (d : Dev) (clk : Nat) : List DevStep :=
  ((List.range 6).filter (fun die => batchDue d die clk)).map DevStep.salamanderBatch ++
  (d.missing.filter (fun m => m.phase == .resolved || m.phase == .found)).map
    (fun m => DevStep.pageArrive m.die m.slot m.page) ++
  (d.invals.filter (invalClear d)).map (fun i => DevStep.invalidationComplete i.id) ++
  d.wraps.map DevStep.wrapClear ++ (List.range d.hubs.length).map DevStep.hubFlush

/-- The steps of the page cache and the die controllers. -/
def platformEvents (s : State) : List DevStep :=
  let d := s.dev
  let x := d.plat.startup
  (if d.pc.decayAt + decayPeriod d.pc ≤ s.clk then [.counterDecay] else []) ++
  (d.pc.frames.filter (fun e => e.2.state == .filling)).map (fun e => DevStep.frameFill e.1) ++
  (d.pc.frames.filter (fun e => e.2.state != .filling)).map (fun e => DevStep.frameDrain e.2.die e.1) ++
  d.pc.l2.map (fun e => DevStep.l2Evict e.1) ++
  (if d.pc.clrPage.isSome then [.pcclrDone] else []) ++ (if d.plat.sec.keyBusy.isSome then [.keyInstall] else []) ++
  (if d.plat.sec.loading.isSome then [.imageLoadDone] else []) ++
  (if starting d then ((List.range 6).filter (fun die => !x.reported.contains die)).flatMap (fun die =>
    [DevStep.startupStep die (Config.startupOutcome s.nfree die (x.step + 1))] ++
    (if x.since + 2 ^ 28 ≤ s.clk then [.startupTimeout die] else [])) else [])

/-- The steps the device may take of itself; what the host, a pool or a failure does stands in the agenda. -/
def deviceEvents (s : State) : List DevStep :=
  -- in minimal mode only the host port runs, with it the loading of new firmware (R485)
  if s.dev.plat.startup.minimal then (if s.dev.plat.sec.loading.isSome then [.imageLoadDone] else [])
  else s.dev.crews.flatMap (crewEvents s) ++ dispatchEvents s.dev ++ faultEvents s.dev s.clk ++ platformEvents s

/-- The row is a step of the device, not an instruction of a program. -/
def isDeviceRow (i : Instr) : Bool := (encode i).isEmpty && i != .clauseBegin

/-! ### Between steps -/

/-- R37: while a requested crew has an operation that has stopped and found no room for a record, its save waits, and the
deadline PREQ counts is extended by that wait. -/
def extendPreq (k : Nat) (d : Dev) : Dev :=
  { d with crews := d.crews.map (fun c =>
      if c.state == .requested && !c.forced && c.ops.any unrecorded then { c with preq := c.preq.map (· + k) } else c) }

/-- What a step leaves is carried out and the clock advances, nothing in focus (R6, R37, R42, R59, R192, R361, R490). -/
def tidy (s0 : State) : State :=
  let s := stow s0
  let k := 1 + Config.clocks s.nfree
  let d1 := containAll s.dev s.clk
  let d2 := gateQuads (settleSlots d1)
  let d3 := extendPreq k (markFirst (wakeAll (recordAll d2) s.clk) s.clk)
  { s with dev := { d3 with histSeq := d3.histSeq + 1 }, clk := s.clk + k, nfree := s.nfree + 1 }

/-- The fragment that issues next taken into focus, or none where a step of the device comes first; which comes first
is left free (assumption 3). -/
def takeFocus (s : State) : State :=
  let fs := nextIssuers s
  let es := deviceEvents s
  match fs with
  | [] => s
  | f :: rest =>
    let n := fs.length + es.length
    let k := if n == 1 then 0 else Config.freeNat s.nfree 0 % n
    if k < fs.length then focusOn s ((f :: rest).getD k f) else s

/-- The state between steps. -/
def settle (s : State) : State := takeFocus (tidy s)

/-- The outcome of an instruction or of a step of the device, settled. -/
def finish (o : Out) : Out :=
  match o with
  | .next t => .next (settle t)
  | .fault e => .fault e
  | .refused r => .refused r

/-! ### A step that no instruction makes -/

/-- A step of the device where no fragment issues: one of those it may take, or the passing of time. -/
def deviceStep (s : State) : Out :=
  match deviceEvents s with
  | [] => .next s
  | e :: rest => ((e :: rest).getD (if rest.isEmpty then 0 else Config.freeNat s.nfree 1 % (rest.length + 1)) e).run s

/-- A step that was named beforehand. -/
def agendaStep (a : Act) (s : State) : Out :=
  match a with
  | .event i => if isDeviceRow i then exec i s else .next s
  | .issue f =>
    let t := focusOn (stow s) f
    if t.active && (nextIssuers (stow s)).contains f then issue t else .next s

/-! ### Where an instruction is placed (withFetchWord) -/

/-- A fragment about to issue the instruction its clause body holds at parcel 0. -/
def probeFrag (f : Frag) (body : List Parcel) : Frag :=
  { f with
    hdr := ⟨0#4, false, false, 0#4, 0#4, 0#12, BitVec.ofNat 6 body.length⟩
    body := body, parcel := 0, latched := true, lit := none, after := false, status := .ready, resume := .fresh }

/-- A crew for an instruction to run in, where none is in focus: one wave of role GEN with every register, no job. -/
def probeCrew (d : Dev) : Crew :=
  { (default : Crew) with
    uid := d.nextUid, state := .running, waveCount := 1, vregs := 128, sregs := 64, parkSize := 262144,
    deadline := 65536 }

/-- The state with an instruction's parcels where the next step issues it. -/
def placeParcels (s : State) (body : List Parcel) : State :=
  if s.active then { s with agenda := [], frag := probeFrag s.frag body }
  else
    { s with
      agenda := [], active := true, crew := probeCrew s.dev, wave := default
      frag := probeFrag { (default : Frag) with lanes := BitVec.allOnes 96, erecoff := 0xFFFFFFFF#32 } body
      dev := { s.dev with nextUid := s.dev.nextUid + 1 } }

end Sys2Proof.Machine
end

