-- ==== Sys2Proof/Machine/Step.lean ====
section
/-! DEFINITION. One step of the machine: the step named beforehand, or the instruction of the fragment in focus, or a
step of the device; then what stands between steps. -/

namespace Sys2Proof.Machine

/-- One step (R44, R196; assumption 3). -/
def step (s : State) : Host.Outcome State Fault Refusal :=
  match s.agenda with
  | a :: rest => finish (agendaStep a { s with agenda := rest })
  | [] => finish (if s.active then issue s else deviceStep s)

/-- The state with an instruction placed where the next step issues it (assumption 21). -/
def State.withFetchWord (s : State) (nbits w : Nat) : State :=
  let b := BitVec.ofNat 32 (w % 2 ^ nbits)
  placeParcels s [b.extractLsb' 0 16, b.extractLsb' 16 16]

end Sys2Proof.Machine
end

