-- ==== Sys2Proof/Safety.lean ====
section
/-! DEFINITION. The terms in which the statements speak of the machine: an instruction admitted where it stands, the
registers by value, and what a step leaves as it was. -/

namespace Sys2Proof.Machine

/-- R67, R195: the instruction is legal here, and its class is one the wave's role allows, or the fragment is in trap
mode. -/
def Admitted (i : Instr) (c : RoleClass) (s : State) : Prop :=
  legalHere s i = true ∧ (s.frag.trapMode = true ∨ roleAllows s.wave.role c = true)

/-- What lane register r of lane l holds. -/
def laneReg (s : State) (r l : Nat) : Word := tabGet 0#32 s.wave.v (96 * r + l)

/-- What scalar register r holds. -/
def scalarReg (s : State) (r : Nat) : Word := tabGet 0#32 s.wave.s r

/-- An operation but for the model's notes of what the program has written since it issued (R31, R32). -/
def Op.unmarked (o : Op) : Op := { o with taintV := [], taintS := [], srcTaint := false }

/-- What an instruction of the lane and scalar units never changes, whatever it writes: memory and all the rest of the
device, the crew's operations and engines, the wave but for its registers, and the state outside. -/
structure Kept (s t : State) : Prop where
  dev     : t.dev = s.dev
  memory  : ∀ a, byteAt t.dev a = byteAt s.dev a
  outside : t.active = s.active ∧ t.agenda = s.agenda ∧ t.clk = s.clk ∧ t.nfree = s.nfree
  ops     : t.crew.ops.map Op.unmarked = s.crew.ops.map Op.unmarked
  crew    : { t.crew with ops := [] } = { s.crew with ops := [] }
  wave    : { t.wave with v := [], rng := [], s := [], m := [], flg := 0#32, clkHi := none } =
              { s.wave with v := [], rng := [], s := [], m := [], flg := 0#32, clkHi := none }

/-- Every lane register but those listed holds what it held. -/
def SameLanes (s t : State) (but : List Nat) : Prop := ∀ r l, l < 96 → r ∉ but → laneReg t r l = laneReg s r l

/-- Every scalar register but those listed holds what it held. -/
def SameScalars (s t : State) (but : List Nat) : Prop := ∀ r, r ∉ but → scalarReg t r = scalarReg s r

/-- Every mask but those listed holds what it held. -/
def SameMasks (s t : State) (but : List Nat) : Prop := ∀ k, k ∉ but → readM t k = readM s k

/-- Every lane's generator holds what it held. -/
def SameGenerators (s t : State) : Prop := ∀ l, readRng t l = readRng s l

/-- CLK.H's latch is as reading these source codes leaves it (R59). -/
def ClockRead (s t : State) (codes : List (BitVec 8)) : Prop := t.wave.clkHi = (latchClk s codes).wave.clkHi

/-- The fragment stands behind its instruction, changed in nothing else (R44, R49). -/
def GoesOn (s t : State) : Prop := t.frag = pastParcels s.frag (curParcels s.frag) s.clk

/-- A lane instruction's outcome, its PC apart: register d of each active lane holds `val l` and of each other lane what
it held; the generators of active lanes stand at `gen l`; the flags are committed; all else is kept (R96, R181, R206). -/
structure LaneOutcome (s t : State) (d : Nat) (codes : List (BitVec 8)) (val gen : Nat → Word) (fl : Flags) : Prop where
  kept     : Kept s t
  written  : ∀ l, l < 96 → laneReg t d l = if s.frag.exec.getLsbD l then val l else laneReg s d l
  lanes    : SameLanes s t [d]
  scalars  : SameScalars s t []
  masks    : SameMasks s t []
  gens     : ∀ l, l < 96 → readRng t l = if s.frag.exec.getLsbD l then gen l else readRng s l
  flags    : t.wave.flg = s.wave.flg ||| fl.setWidth 32
  clock    : ClockRead s t codes

/-- EXEC with its 32-bit word k replaced, within the lane set (R62, R180). -/
def execWith (f : Frag) (k : Nat) (x : Word) : Lanes :=
  ((f.exec &&& ~~~(0xFFFFFFFF#96 <<< (32 * k))) ||| (x.setWidth 96 <<< (32 * k))) &&& f.lanes

/-- A scalar instruction's outcome, its PC apart: an s-register, a word of EXEC, FMT, or FLG's bits cleared, by the
destination code; then the flags committed; all else is kept (R61, R62, R96). -/
structure ScalarOutcome (s t : State) (d : BitVec 8) (codes : List (BitVec 8)) (x : Word) (fl : Flags) : Prop where
  kept    : Kept s t
  lanes   : SameLanes s t []
  scalars : SameScalars s t (if d.toNat < 0xC0 then [d.toNat - 0x80] else [])
  written : d.toNat < 0xC0 → scalarReg t (d.toNat - 0x80) = x
  masks   : SameMasks s t []
  gens    : SameGenerators s t
  exec    : t.frag.exec = if 0xE4 ≤ d.toNat ∧ d.toNat ≤ 0xE6 then execWith s.frag (d.toNat - 0xE4) x else s.frag.exec
  fmt     : t.frag.fmt = if d.toNat = 0xE7 then x else s.frag.fmt
  flags   : t.wave.flg = (if d.toNat = 0xE8 then s.wave.flg &&& ~~~ x else s.wave.flg) ||| fl.setWidth 32
  clock   : ClockRead s t codes

/-- The fragment of t is that of s gone on, but for EXEC and FMT. -/
def GoesOnBut (s t : State) : Prop :=
  { t.frag with exec := s.frag.exec, fmt := s.frag.fmt } = pastParcels s.frag (curParcels s.frag) s.clk

/-- An enabled flag is among those raised (R97, R110). -/
def trapsOn (s : State) (fl : Flags) : Prop := fl.extractLsb' 0 5 &&& (fptrap s).extractLsb' 0 5 ≠ 0#5

/-- The lane instructions' results gathered: the flags of every active lane (R96). -/
def laneFlags (s : State) (f : Nat → Word → LaneResult) : Flags := resultFlags (laneResults s f)

/-! ### Operations of the engines -/

/-- R30, R45: the instruction has issued operation o: the operation joins its crew's in flight, its completion flag
counts one more, the fragment goes on, and nothing else of the wave, the crew and memory changes. -/
structure Issued (s t : State) (o : Op) : Prop where
  joins   : t.crew.ops = s.crew.ops ++ [o]
  named   : o.id = s.crew.nextOp ∧ o.wave = s.wave.idx ∧ o.frag = s.frag.id ∧ o.flag = some (flagHere s.frag) ∧
              o.insn = curWord s.frag ∧ o.fmt = s.frag.fmt ∧ o.clause = s.frag.clause ∧ o.parcel = pcParcel s.frag ∧
              o.status = .inflight
  counts  : ∀ k, flagOf t.wave k = flagOf s.wave k + if k = flagHere s.frag then 1 else 0
  wave    : { t.wave with f := [], clkHi := none } = { s.wave with f := [], clkHi := none }
  crew    : { t.crew with ops := [], nextOp := 0 } = { s.crew with ops := [], nextOp := 0 }
  goes    : GoesOn s t
  memory  : ∀ a, byteAt t.dev a = byteAt s.dev a
  outside : t.active = s.active ∧ t.agenda = s.agenda ∧ t.clk = s.clk ∧ t.nfree = s.nfree

/-- R42, R198 to R200: the fragment takes a trap with this cause: into trap mode at the vector, or, in trap mode or with
TVEC 0, the crew is contained; registers, masks, flags and memory stay. -/
structure TrapsWith (s t : State) (cause : Nat) (done : Bool) : Prop where
  wave    : { t.wave with clkHi := none } = { s.wave with clkHi := none }
  memory  : ∀ a, byteAt t.dev a = byteAt s.dev a
  enters  : s.frag.trapMode = false → tvec s ≠ 0#64 →
              t.frag.trapMode = true ∧ t.frag.epc = s.frag.clause ∧ t.frag.epar = eparWord (pcParcel s.frag) done ∧
              t.frag.ecause = BitVec.ofNat 32 cause ∧ t.frag.eexec = s.frag.exec ∧ t.frag.efmt = s.frag.fmt ∧
              t.frag.exec = s.frag.exec ∧ t.frag.fmt = 0#32 ∧ t.frag.clause = tvec s ∧ t.frag.parcel = 63
  contains : s.frag.trapMode = true ∨ tvec s = 0#64 → t.crew.contained = some cause

/-- R33: a long-latency instruction that finds its completion flag at 63 waits at issue. -/
def FlagFree (s : State) : Prop := flagOf s.wave (flagHere s.frag) < 63

/-! ### Outcomes -/

/-- The outcome is a next state of which p holds. -/
def nextHolds (o : Host.Outcome State Fault Refusal) (p : State → Prop) : Prop :=
  match o with
  | .next t => p t
  | .fault _ => False
  | .refused _ => False

/-- The outcome, if it is a next state, satisfies p. -/
def onNext (o : Host.Outcome State Fault Refusal) (p : State → Prop) : Prop :=
  match o with
  | .next t => p t
  | .fault _ => True
  | .refused _ => True

end Sys2Proof.Machine
end

