-- ==== Sys2Proof/WellFormed.lean ====
section
/-! DEFINITION. Well-formed instructions: those legal under R54, R60 to R64 and R67 to R73 in some context, that is,
with all 128 lane registers and 64 scalar registers of the largest card.  The steps of the device are well formed. -/

namespace Sys2Proof

/-- The instruction passes every check that depends on its encoding alone, and at most one of its operand fields
reads the literal (R64, R67). -/
def Instr.wellFormed (i : Instr) : Bool := Machine.legalIn 128 64 i && decide (Machine.litUses i ≤ 1)

end Sys2Proof
end

