-- ==== Sys2Proof/Certificates/Slice0/Obligations.lean ====
section
/-! DEFINITION. The statements for the provers, and the tables of instructions they range over. -/

section Statements

open Sys2Proof Sys2Proof.Machine

/-! ### Tables of instructions of one shape -/

/-- A three-operand instruction without flags: its constructor, and its result from A, B and old D. -/
structure IntRow where
  ctor : BitVec 8 → BitVec 8 → BitVec 8 → Instr
  f  : Word → Word → Word → Word

/-- Bits [63:32] of a 64-bit product. -/
def highHalf (p : Int) : Word := BitVec.ofInt 32 (p / 2 ^ 32)

/-- The W bits of x from bit L on, zero-extended, or, with `sgn` and 0 < W < 32, sign-extended (R212). -/
def fieldOf (x : Word) (L W : Nat) (sgn : Bool) : Word :=
  let u := x.toNat / 2 ^ L % 2 ^ W
  if sgn = true ∧ 0 < W ∧ W < 32 ∧ 2 ^ (W - 1) ≤ u then BitVec.ofInt 32 ((u : Int) - 2 ^ W) else BitVec.ofNat 32 u

/-- z with its bits L to L + W − 1, as far as they lie below 32, replaced by the low bits of x (R212). -/
def insertOf (z x : Word) (L W : Nat) : Word :=
  let m := BitVec.ofNat 32 ((2 ^ W - 1) * 2 ^ L)
  (x <<< L &&& m) ||| (z &&& ~~~ m)

/-- The integer, logic, shift and bit-field instructions (R210, R212). -/
def intRows : List IntRow :=
  [⟨.addI32, fun x y _ => x + y⟩, ⟨.subI32, fun x y _ => x - y⟩, ⟨.mulI32, fun x y _ => x * y⟩,
   ⟨.mulhiI32, fun x y _ => highHalf (x.toInt * y.toInt)⟩,
   ⟨.mulhiN32, fun x y _ => highHalf ((x.toNat : Int) * y.toNat)⟩,
   ⟨.madI32, fun x y z => z + x * y⟩,
   ⟨.minI32, fun x y _ => if x.toInt ≤ y.toInt then x else y⟩, ⟨.maxI32, fun x y _ => if x.toInt ≤ y.toInt then y else x⟩,
   ⟨.minN32, fun x y _ => if x.toNat ≤ y.toNat then x else y⟩, ⟨.maxN32, fun x y _ => if x.toNat ≤ y.toNat then y else x⟩] ++
  [⟨.and, fun x y _ => x &&& y⟩, ⟨.or, fun x y _ => x ||| y⟩, ⟨.xor, fun x y _ => x ^^^ y⟩,
   ⟨.andn, fun x y _ => x &&& ~~~ y⟩, ⟨.shl, fun x y _ => x <<< (y.toNat % 32)⟩,
   ⟨.shrN32, fun x y _ => x >>> (y.toNat % 32)⟩, ⟨.shrI32, fun x y _ => BitVec.ofInt 32 (x.toInt / 2 ^ (y.toNat % 32))⟩,
   ⟨.rot, fun x y _ => (x <<< (y.toNat % 32)) ||| (x >>> ((32 - y.toNat % 32) % 32))⟩,
   ⟨.bfx, fun x y _ => fieldOf x (y.toNat % 32) (min (y.toNat / 256 % 64) 32) (y.getLsbD 16)⟩,
   ⟨.bfi, fun x y z => insertOf z x (y.toNat % 32) (min (y.toNat / 256 % 64) 32)⟩]

/-- Number of set bits; leading and trailing zeros, 32 of zero; the bits and the bytes reversed (R213). -/
def bituOf (k : Nat) (x : Word) : Word :=
  match k with
  | 0 => BitVec.ofNat 32 ((List.range 32).countP (fun i => x.getLsbD i))
  | 1 => BitVec.ofNat 32 (((List.range 32).find? (fun i => x.getLsbD (31 - i))).getD 32)
  | 2 => BitVec.ofNat 32 (((List.range 32).find? (fun i => x.getLsbD i)).getD 32)
  | 3 => x.reverse
  | _ => BitVec.ofNat 32 (x.toNat % 256 * 2 ^ 24 + x.toNat / 2 ^ 8 % 256 * 2 ^ 16 + x.toNat / 2 ^ 16 % 256 * 2 ^ 8 +
      x.toNat / 2 ^ 24)

/-- An immediate instruction: its result from old D and the immediate (R66, R238). -/
structure ImmRow where
  ctor : BitVec 8 → BitVec 16 → Instr
  f  : Word → BitVec 16 → Word

/-- MOVI, MOVHI, ADDI, ANDI, ORI (R66, R238). -/
def immRows : List ImmRow :=
  [⟨.movi, fun _ i => i.signExtend 32⟩, ⟨.movhi, fun x i => BitVec.ofNat 32 (i.toNat * 65536 + x.toNat % 65536)⟩,
   ⟨.addi, fun x i => x + i.signExtend 32⟩, ⟨.andi, fun x i => x &&& i.setWidth 32⟩,
   ⟨.ori, fun x i => x ||| i.setWidth 32⟩]

/-- A compact integer instruction: its result from vD and S (R55). -/
structure CompactRow where
  ctor : BitVec 5 → BitVec 6 → Instr
  f  : Word → Word → Word

/-- The compact integer forms (R55, R211). -/
def compactRows : List CompactRow :=
  [⟨.movCompact, fun _ y => y⟩, ⟨.addI32Compact, fun x y => x + y⟩, ⟨.subI32Compact, fun x y => x - y⟩,
   ⟨.andCompact, fun x y => x &&& y⟩, ⟨.orCompact, fun x y => x ||| y⟩, ⟨.xorCompact, fun x y => x ^^^ y⟩,
   ⟨.shlCompact, fun x y => x <<< (y.toNat % 32)⟩, ⟨.shrN32Compact, fun x y => x >>> (y.toNat % 32)⟩,
   ⟨.shrI32Compact, fun x y => BitVec.ofInt 32 (x.toInt / 2 ^ (y.toNat % 32))⟩]

/-- The instruction answers a next state in which register d of every active lane holds `val l`; no generator, flag or
other register changes, and the fragment goes on. -/
def writesLanes (i : Instr) (s : State) (d : Nat) (codes : List (BitVec 8)) (val : Nat → Word) : Prop :=
  ∃ t, exec i s = .next t ∧ LaneOutcome s t d codes val (readRng s) 0 ∧ GoesOn s t

/-- The instruction answers a next state in which scalar destination d has been given x, unless x is for FMT and refused
by it: then it is an illegal instruction (R62, R86); no flag is raised. -/
def writesScalar (i : Instr) (s : State) (d : BitVec 8) (codes : List (BitVec 8)) (x : Word) : Prop :=
  (d.toNat = 0xE7 → fmtLegal x = true) →
    ∃ t, exec i s = .next t ∧ ScalarOutcome s t d codes x 0 ∧ GoesOnBut s t

/-! ### Integer instructions -/

/-- R206, R210, R212, R213: an integer instruction whose D is a lane register computes, in every active lane and from
the values its operands have before it, the result of its row into D; no inactive lane, no other register, no flag and no
memory changes. -/
def Obligations.IntLanes : Prop :=
  ∀ s d a b, d.toNat < 0x80 →
    (∀ r ∈ intRows, Admitted (r.ctor d a b) .laneArith s →
      writesLanes (r.ctor d a b) s d.toNat [a, b] (fun l =>
        let u := latchClk s [a, b]
        r.f (readSrc u a l) (readSrc u b l) (readSrc u d l))) ∧
    (∀ k, k ≤ 4 → Admitted (.bitu d a (BitVec.ofNat 8 k)) .laneArith s →
      writesLanes (.bitu d a (BitVec.ofNat 8 k)) s d.toNat [a] (fun l => bituOf k (readSrc (latchClk s [a]) a l)))

/-- R210, R212, R213: the same instructions with a scalar D compute once, whatever EXEC holds. -/
def Obligations.IntScalars : Prop :=
  ∀ s d a b, scalarDst d = true →
    (∀ r ∈ intRows, Admitted (r.ctor d a b) .control s →
      let u := latchClk s [a, b]
      writesScalar (r.ctor d a b) s d [a, b] (r.f (readSrc u a 0) (readSrc u b 0) (readSrc u d 0))) ∧
    (∀ k, k ≤ 4 → Admitted (.bitu d a (BitVec.ofNat 8 k)) .control s →
      writesScalar (.bitu d a (BitVec.ofNat 8 k)) s d [a] (bituOf k (readSrc (latchClk s [a]) a 0)))

/-- R66, R238, R55, R211: the immediate instructions on a lane or a scalar register, and the compact integer forms; MOV
v0, v0 is the NOP, which only goes on. -/
def immediateAndCompact : Prop :=
  (∀ s d i, ∀ r ∈ immRows,
    (d.toNat < 0x80 → Admitted (r.ctor d i) .laneArith s →
      writesLanes (r.ctor d i) s d.toNat [] (fun l => r.f (readSrc s d l) i)) ∧
    (scalarDst d = true → Admitted (r.ctor d i) .control s → writesScalar (r.ctor d i) s d [] (r.f (readSrc s d 0) i))) ∧
  (∀ s, Admitted (.movCompact 0 0) .laneArith s → exec (.movCompact 0 0) s = .next (advance s)) ∧
  (∀ s d p, ∀ r ∈ compactRows, r.ctor d p ≠ .movCompact 0 0 → Admitted (r.ctor d p) .laneArith s →
    writesLanes (r.ctor d p) s d.toNat [] (fun l => r.f (readSrc s (d.setWidth 8) l) (readSrc s (compactSrc p) l)))

/-- A 64-bit instruction: its constructor, and its result from A, B and old D (R214). -/
structure PairRow where
  ctor : BitVec 8 → BitVec 8 → BitVec 8 → Instr
  f  : State → BitVec 8 → BitVec 8 → BitVec 8 → Nat → DWord

/-- ADD.I64, SUB.I64, MAD.N64.N32 and MOV64, which has no B (R214). -/
def pairRows : List PairRow :=
  [⟨.addI64, fun s _ a b l => readSrc64 s a l + readSrc64 s b l⟩,
   ⟨.subI64, fun s _ a b l => readSrc64 s a l - readSrc64 s b l⟩,
   ⟨.madN64N32, fun s d a b l =>
     readSrc64 s d l + BitVec.ofNat 64 ((readSrc s a l).toNat * (readSrc s b l).toNat)⟩]

/-- The pair of registers from d on of every active lane holds x, low word first; nothing else changes, and the
fragment goes on. -/
def writesPairLanes (i : Instr) (s : State) (d : Nat) (codes : List (BitVec 8)) (x : Nat → DWord) : Prop :=
  ∃ t, exec i s = .next t ∧ Kept s t ∧ SameLanes s t [d, d + 1] ∧ SameScalars s t [] ∧ SameMasks s t [] ∧
    SameGenerators s t ∧ t.wave.flg = s.wave.flg ∧ ClockRead s t codes ∧ GoesOn s t ∧
    ∀ l, l < 96 →
      laneReg t d l = (if s.frag.exec.getLsbD l then (x l).extractLsb' 0 32 else laneReg s d l) ∧
      laneReg t (d + 1) l = (if s.frag.exec.getLsbD l then (x l).extractLsb' 32 32 else laneReg s (d + 1) l)

/-- The pair of scalar registers from r on holds x, low word first; nothing else changes, and the fragment goes on. -/
def writesPairScalar (i : Instr) (s : State) (r : Nat) (codes : List (BitVec 8)) (x : DWord) : Prop :=
  ∃ t, exec i s = .next t ∧ Kept s t ∧ SameLanes s t [] ∧ SameScalars s t [r, r + 1] ∧ SameMasks s t [] ∧
    SameGenerators s t ∧ t.wave.flg = s.wave.flg ∧ ClockRead s t codes ∧ GoesOn s t ∧
    scalarReg t r = x.extractLsb' 0 32 ∧ scalarReg t (r + 1) = x.extractLsb' 32 32

/-- R214: the 64-bit instructions write the pair D of every active lane, or an s pair once. -/
def pairInstructions : Prop :=
  ∀ s d a b,
    (∀ r ∈ pairRows,
      (d.toNat < 0x80 → Admitted (r.ctor d a b) .laneArith s →
        writesPairLanes (r.ctor d a b) s d.toNat [a, b] (r.f (latchClk s [a, b]) d a b)) ∧
      (scalarDst d = true → Admitted (r.ctor d a b) .control s →
        writesPairScalar (r.ctor d a b) s (d.toNat - 0x80) [a, b] (r.f (latchClk s [a, b]) d a b 0))) ∧
    (d.toNat < 0x80 → Admitted (.mov64 d a) .laneArith s →
      writesPairLanes (.mov64 d a) s d.toNat [a] (readSrc64 (latchClk s [a]) a)) ∧
    (scalarDst d = true → Admitted (.mov64 d a) .control s →
      writesPairScalar (.mov64 d a) s (d.toNat - 0x80) [a] (readSrc64 (latchClk s [a]) a 0))

/-- R55, R66, R211, R214, R238: immediate, compact and 64-bit instructions. -/
def Obligations.ShortAndPairForms : Prop := immediateAndCompact ∧ pairInstructions

/-! ### Floating-point and conversion instructions -/

/-- An instruction that rounds: its constructor, its source codes, the FMT it needs (R87), and what one lane, or the
scalar unit, computes from its generator's state: the result, the flags and the generator's new state. -/
structure FloatRow where
  ctor  : BitVec 8 → BitVec 8 → BitVec 8 → Instr
  codes : BitVec 8 → BitVec 8 → List (BitVec 8)
  needs : Word → Prop
  f     : State → Bool → BitVec 8 → BitVec 8 → BitVec 8 → Nat → Word → LaneResult

/-- An FP32 operation in a lane (R215, R216). -/
def f32At (k : FloatOp) (s : State) (sc : Bool) (d a b : BitVec 8) (l : Nat) (g : Word) : LaneResult :=
  let r := floatOp k .f32 (laneEnv s.frag.fmt sc) (fmtDAZ s.frag.fmt) g (readSrc s a l).toNat (readSrc s b l).toNat
    (readSrc s d l).toNat
  (BitVec.ofNat 32 r.1, r.2)

/-- A packed-half operation in a lane (R217). -/
def halvesAt (k : FloatOp) (bf : Bool) (s : State) (sc : Bool) (d a b : BitVec 8) (l : Nat) (g : Word) : LaneResult :=
  halvesOp k (if bf then .bf16 else .f16) (laneEnv s.frag.fmt sc) (fmtDAZ s.frag.fmt) g (readSrcHalf bf s a l)
    (readSrcHalf bf s b l) (readSrc s d l)

/-- The FP32 and packed-half operations (R215 to R217). -/
def arithRows : List FloatRow :=
  let two := fun (a b : BitVec 8) => [a, b]
  let any := fun (_ : Word) => True
  [⟨.addF32, two, any, f32At .add⟩, ⟨.subF32, two, any, f32At .sub⟩, ⟨.mulF32, two, any, f32At .mul⟩,
   ⟨.fmaF32, two, any, f32At .fma⟩, ⟨.minF32, two, any, f32At .min⟩, ⟨.maxF32, two, any, f32At .max⟩,
   ⟨.addF16x2, two, any, halvesAt .add false⟩, ⟨.mulF16x2, two, any, halvesAt .mul false⟩,
   ⟨.fmaF16x2, two, any, halvesAt .fma false⟩, ⟨.maxF16x2, two, any, halvesAt .max false⟩,
   ⟨.addBf16x2, two, any, halvesAt .add true⟩, ⟨.fmaBf16x2, two, any, halvesAt .fma true⟩]

/-- The functions, conversions, dot products and scaling (R218 to R221, R223, R230 to R232); k is FUN's
function or CVT's code. -/
def convertRows (k : BitVec 8) : List FloatRow :=
  let two := fun (a b : BitVec 8) => [a, b]
  let one := fun (a _ : BitVec 8) => [a]
  let any := fun (_ : Word) => True
  [⟨fun d a _ => .funF32 d a k, one, any, fun s sc _ a _ l g =>
     funF32 k.toNat (laneEnv s.frag.fmt sc) (fmtDAZ s.frag.fmt) g (readSrc s a l)⟩,
   ⟨fun d a _ => .cvt d a k, one, any, fun s sc _ a _ l g =>
     cvtValue k.toNat (laneEnv s.frag.fmt sc) (fmtDAZ s.frag.fmt) g (readSrc s a l)⟩,
   ⟨.cvtp, two, fun m => fmtQF m ≤ 1, fun s sc _ a b l g => packTwo s.frag.fmt sc g (readSrc s a l) (readSrc s b l)⟩,
   ⟨.dqn, two, fun m => fmtQF m ≤ 8, fun s sc _ a b l g => dequantSlot s sc g (readSrc s a l) (readSrc s b l)⟩] ++
  [⟨.dot4I8, two, any, fun s _ d a b l g => (dotInt 8 true (readSrc s a l) (readSrc s b l) (readSrc s d l), 0, g)⟩,
   ⟨.dot4N8, two, any, fun s _ d a b l g => (dotInt 8 false (readSrc s a l) (readSrc s b l) (readSrc s d l), 0, g)⟩,
   ⟨.dot8I4, two, any, fun s _ d a b l g => (dotInt 4 true (readSrc s a l) (readSrc s b l) (readSrc s d l), 0, g)⟩,
   ⟨.dot4F8, two, fun m => (fmtAF m = 2 ∨ fmtAF m = 3) ∧ (fmtBF m = 2 ∨ fmtBF m = 3), fun s sc d a b l g =>
     dotNarrow s sc g 4 (readSrc s a l) (readSrc s b l) (readSrc s d l)⟩,
   ⟨.dot8F4, two, fun m => fmtAF m = 6 ∧ fmtBF m = 6, fun s sc d a b l g =>
     dotNarrow s sc g 8 (readSrc s a l) (readSrc s b l) (readSrc s d l)⟩,
   ⟨.dot2F16, two, any, fun s sc d a b l g => dotHalves .f16 s sc g (readSrc s a l) (readSrc s b l) (readSrc s d l)⟩,
   ⟨.dot2Bf16, two, any, fun s sc d a b l g => dotHalves .bf16 s sc g (readSrc s a l) (readSrc s b l) (readSrc s d l)⟩,
   ⟨fun d a _ => .sclx d a, one, any, fun s sc d a _ l g => scaleValue s sc g (readSrc s a l) (readSrc s d l)⟩]

/-- QNT (R222): in a lane whose B names a slot that the format has not, D keeps what it holds. -/
def quantRow : FloatRow :=
  ⟨.qnt, fun a b => [a, b], fun m => fmtQF m ≤ 8, fun s sc d a b l g =>
    quantSlot s sc g (readSrc s a l) (readSrc s b l)
      (if qntKeeps s (readSrc s b l) = true ∧ d.toNat < 0x80 then laneReg s d.toNat l else readSrc s d l)⟩

/-- A compact floating instruction: its constructor and what a lane computes (R55). -/
structure CompactFloatRow where
  ctor : BitVec 5 → BitVec 6 → Instr
  f    : State → Bool → BitVec 8 → BitVec 8 → BitVec 8 → Nat → Word → LaneResult

/-- The compact floating forms (R55). -/
def compactFloatRows : List CompactFloatRow :=
  [⟨.addF32Compact, f32At .add⟩, ⟨.subF32Compact, f32At .sub⟩, ⟨.mulF32Compact, f32At .mul⟩,
   ⟨.maxF32Compact, f32At .max⟩, ⟨.minF32Compact, f32At .min⟩, ⟨.addF16x2Compact, halvesAt .add false⟩,
   ⟨.mulF16x2Compact, halvesAt .mul false⟩]

/-- The outcome of a lane instruction with these results and flags: with none of the flags enabled it goes on; with one
enabled it takes the arithmetic trap, DONE 1, its results and flags standing (R96, R97). -/
def endsLanes (i : Instr) (s : State) (d : Nat) (codes : List (BitVec 8)) (val gen : Nat → Word) (fl : Flags) : Prop :=
  (¬ trapsOn s fl → ∃ t, exec i s = .next t ∧ LaneOutcome s t d codes val gen fl ∧ GoesOn s t) ∧
  (trapsOn s fl → ∃ t, exec i s = .next (takeTrap t 0x0B true) ∧ t.frag = s.frag ∧ LaneOutcome s t d codes val gen fl)

/-- The same where every lane computes from its generator's state. -/
def roundsLanes (i : Instr) (s : State) (d : Nat) (codes : List (BitVec 8)) (f : Nat → Word → LaneResult) : Prop :=
  endsLanes i s d codes (fun l => (f l (readRng s l)).1) (fun l => (f l (readRng s l)).2.2)
    (laneFlags (latchClk s codes) f)

/-- The same of a scalar instruction with this result: its destination written as R62 gives, and then its flags committed,
also where the destination is FLG (the order is the model's choice: DEDUCED, assumption 25).  A result that FMT does not
accept makes it an illegal instruction with no effect (R86). -/
def endsScalar (i : Instr) (s : State) (d : BitVec 8) (codes : List (BitVec 8)) (x : Word) (fl : Flags) : Prop :=
  (d.toNat = 0xE7 ∧ fmtLegal x = false → exec i s = .next (takeTrap s 0x08 false)) ∧
  ((d.toNat = 0xE7 → fmtLegal x = true) →
    (¬ trapsOn s fl → ∃ t, exec i s = .next t ∧ ScalarOutcome s t d codes x fl ∧ GoesOnBut s t) ∧
    (trapsOn s fl → ∃ t, exec i s = .next (takeTrap t 0x0B true) ∧ ScalarOutcome s t d codes x fl ∧
      { t.frag with exec := s.frag.exec, fmt := s.frag.fmt } = s.frag))

/-- The same of a scalar instruction that rounds, its generator absent. -/
def roundsScalar (i : Instr) (s : State) (d : BitVec 8) (codes : List (BitVec 8)) (r : LaneResult) : Prop :=
  endsScalar i s d codes r.1 r.2.1

/-- R96, R97, R206, R215 to R217 and R55: the FP32 and packed-half instructions, and their compact forms, on lanes. -/
def Obligations.FloatLanes : Prop :=
  (∀ s d a b, d.toNat < 0x80 → ∀ r ∈ arithRows, Admitted (r.ctor d a b) .laneArith s →
    roundsLanes (r.ctor d a b) s d.toNat (r.codes a b) (r.f (latchClk s (r.codes a b)) false d a b)) ∧
  (∀ s d p, ∀ r ∈ compactFloatRows, Admitted (r.ctor d p) .laneArith s →
    roundsLanes (r.ctor d p) s d.toNat [] (r.f s false (d.setWidth 8) (d.setWidth 8) (compactSrc p)))

/-- R87, R96, R97, R206, R218 to R223, R230 to R232: the functions, conversions, quantisations, dot products and
scaling on lanes. -/
def Obligations.ConversionLanes : Prop :=
  ∀ s d a b k, d.toNat < 0x80 → ∀ r ∈ quantRow :: convertRows k, r.needs s.frag.fmt →
    Admitted (r.ctor d a b) .laneArith s →
    roundsLanes (r.ctor d a b) s d.toNat (r.codes a b) (r.f (latchClk s (r.codes a b)) false d a b)

/-- R222: the scalar quantisation whose B names a slot that the format has not: D is not written, its flags are raised. -/
def keepsScalar (s : State) (d a b : BitVec 8) : Prop :=
  let u := latchClk s [a, b]
  let fl := (quantRow.f u true d a b 0 0#32).2.1
  let left := fun t => Kept s t ∧ SameLanes s t [] ∧ SameScalars s t [] ∧ SameMasks s t [] ∧ SameGenerators s t ∧
    t.wave.flg = s.wave.flg ||| fl.setWidth 32 ∧ ClockRead s t [a, b]
  (¬ trapsOn s fl → ∃ t, exec (.qnt d a b) s = .next t ∧ left t ∧ GoesOn s t) ∧
  (trapsOn s fl → ∃ t, exec (.qnt d a b) s = .next (takeTrap t 0x0B true) ∧ left t ∧ t.frag = s.frag)

/-- R61, R62, R86, R91, R96, R97: all of them with a scalar destination, STO read as RNE.  The flags are committed after the
destination is written, FLG too (the model's choice: assumption 25). -/
def Obligations.FloatScalars : Prop :=
  ∀ s d a b k, scalarDst d = true →
    (∀ r ∈ arithRows ++ convertRows k, r.needs s.frag.fmt → Admitted (r.ctor d a b) .control s →
      roundsScalar (r.ctor d a b) s d (r.codes a b) (r.f (latchClk s (r.codes a b)) true d a b 0 0#32)) ∧
    (fmtQF s.frag.fmt ≤ 8 → Admitted (.qnt d a b) .control s →
      let u := latchClk s [a, b]
      (qntKeeps u (readSrc u b 0) = false → roundsScalar (.qnt d a b) s d [a, b] (quantRow.f u true d a b 0 0#32)) ∧
      (qntKeeps u (readSrc u b 0) = true → keepsScalar s d a b))

/-- R87: a conversion or dot product whose FMT names a format it does not take is an illegal instruction with no
effect. -/
def formatRefused : Prop :=
  ∀ s d a b k, ∀ r ∈ quantRow :: convertRows k, ¬ r.needs s.frag.fmt → Admitted (r.ctor d a b) (classByDst d) s →
    exec (r.ctor d a b) s = .next (takeTrap s 0x08 false)

/-- R62, R86: a scalar write to FMT of a value it refuses is an illegal instruction with no effect: of the integer
instructions, BITU, the immediate instructions, SEL and RDLANE.  The instructions that round say so in endsScalar. -/
def formatWriteRefused : Prop :=
  ∀ s a b,
    (∀ r ∈ intRows, Admitted (r.ctor 0xE7#8 a b) .control s →
      (let u := latchClk s [a, b]; fmtLegal (r.f (readSrc u a 0) (readSrc u b 0) (readSrc u 0xE7#8 0)) = false) →
      exec (r.ctor 0xE7#8 a b) s = .next (takeTrap s 0x08 false)) ∧
    (∀ k, k ≤ 4 → Admitted (.bitu 0xE7#8 a (BitVec.ofNat 8 k)) .control s →
      fmtLegal (bituOf k (readSrc (latchClk s [a]) a 0)) = false →
      exec (.bitu 0xE7#8 a (BitVec.ofNat 8 k)) s = .next (takeTrap s 0x08 false)) ∧
    (∀ i, ∀ r ∈ immRows, Admitted (r.ctor 0xE7#8 i) .control s → fmtLegal (r.f s.frag.fmt i) = false →
      exec (r.ctor 0xE7#8 i) s = .next (takeTrap s 0x08 false)) ∧
    (Admitted (.sel 0xE7#8 a b) .control s →
      let u := latchClk s [a, b]
      fmtLegal (if readM s 0 &&& s.frag.exec = 0#96 then readSrc u b 0 else readSrc u a 0) = false →
      exec (.sel 0xE7#8 a b) s = .next (takeTrap s 0x08 false)) ∧
    (Admitted (.rdlane 0xE7#8 a b) .control s →
      let x := readSrc (latchClk s [b]) b 0
      fmtLegal (if x.toNat < 96 ∧ s.frag.exec.getLsbD x.toNat = true then readV s a.toNat x.toNat else 0#32) = false →
      exec (.rdlane 0xE7#8 a b) s = .next (takeTrap s 0x08 false))

/-- R62, R86, R87: an FMT that an instruction does not take is illegal, for it and for what writes FMT. -/
def Obligations.FormatsRefused : Prop := formatRefused ∧ formatWriteRefused

/-! ### What the roundings and functions are, said of exact values -/

/-- The exact value (-1)^neg · m · 2^e. -/
def valueOf (neg : Bool) (m : Nat) (e : Int) : ℚ := (if neg then -1 else 1) * m * (2 : ℚ) ^ e

/-- R82, R89, R92, R94: rounding a value that the format holds gives back its pattern, raises no flag and keeps the sign
of zero, in every mode and whatever the draw, without FTZ. -/
def exactKept : Prop :=
  ∀ f : Format, fmtIsInt f = false → ∀ rm sat u bits neg m e, bits < 2 ^ fmtWidth f →
    decodeFmt f bits = .fin neg m e → roundTo f ⟨rm, sat, false⟩ u (.fin neg m e) = (bits, 0)

/-- R89, R93, R94: without overflow and FTZ, a rounding to a floating format gives a finite pattern of the value's sign; INX
says whether it differs from the value, UNF whether the value is tiny besides; and of all finite patterns it is the
one the mode asks for: nearest under RNE and RNA, a tie going to the even one or to the one farther from zero; the nearest
not beyond the value in magnitude under RTZ, not above it under RDN, not below it under RUP. -/
def roundsToNeighbour : Prop :=
  ∀ f : Format, fmtIsInt f = false → ∀ rm sat u neg m e, rm ≤ 4 →
    let v := valueOf neg m e
    let r := roundTo f ⟨rm, sat, false⟩ u (.fin neg m e)
    r.2 &&& flagOVF = 0 →
    ∃ m' e', decodeFmt f r.1 = .fin neg m' e' ∧
      let w := valueOf neg m' e'
      (r.2 &&& flagINX ≠ 0 ↔ w ≠ v) ∧
      (r.2 &&& flagUNF ≠ 0 ↔ w ≠ v ∧ |v| < (2 : ℚ) ^ (1 - (fmtBias f : Int))) ∧
      ∀ b n k j, decodeFmt f b = .fin n k j →
        let x := valueOf n k j
        (rm = 0 → |w - v| ≤ |x - v| ∧ (|w - v| = |x - v| → x ≠ w → r.1 % 2 = 0)) ∧
        (rm = 1 → |w| ≤ |v| ∧ (|x| ≤ |v| → |x| ≤ |w|)) ∧
        (rm = 2 → w ≤ v ∧ (x ≤ v → x ≤ w)) ∧
        (rm = 3 → v ≤ w ∧ (v ≤ x → w ≤ x)) ∧
        (rm = 4 → |w - v| ≤ |x - v| ∧ (|w - v| = |x - v| → |x| ≤ |w|))

/-- R92: an overflow of FP32, FP16, BF16 or E5M2 comes of a value beyond every finite one, and gives the largest finite value
with SATD under SAT, else an infinity or the largest finite value as the mode says. -/
def overflowsAsRuled : Prop :=
  ∀ f ∈ [Format.f32, .f16, .bf16, .e5m2], ∀ rm sat ftz u neg m e,
    let r := roundTo f ⟨rm, sat, ftz⟩ u (.fin neg m e)
    r.2 &&& flagOVF ≠ 0 →
    (∀ b n k j, decodeFmt f b = .fin n k j → |valueOf n k j| < |valueOf neg m e|) ∧
    (sat = true → r.2 = flagOVF ||| flagSATD ||| flagINX) ∧ (sat = false → r.2 = flagOVF ||| flagINX) ∧
    (if sat = false ∧ (rm = 0 ∨ 4 ≤ rm ∨ (rm = 2 ∧ neg = true) ∨ (rm = 3 ∧ neg = false))
      then decodeFmt f r.1 = .inf neg
      else ∃ k j, decodeFmt f r.1 = .fin neg k j ∧
        ∀ b n k' j', decodeFmt f b = .fin n k' j' → |valueOf n k' j'| ≤ |valueOf neg k j|)

/-- R93, R94: under FTZ a result of FP32, FP16 or BF16 that is a nonzero subnormal becomes the zero of its sign and raises UNF
and INX besides; every other result, and every result of another format, is as without FTZ. -/
def flushesToZero : Prop :=
  ∀ (f : Format) rm sat u neg m e,
    let r := roundTo f ⟨rm, sat, false⟩ u (.fin neg m e)
    let z := roundTo f ⟨rm, sat, true⟩ u (.fin neg m e)
    let mag := r.1 % 2 ^ (fmtWidth f - 1)
    (f ∈ [Format.f32, .f16, .bf16] → 0 < mag → mag < 2 ^ fmtMant f →
      (∃ e', decodeFmt f z.1 = .fin neg 0 e') ∧ z.2 = r.2 ||| flagUNF ||| flagINX) ∧
    (f ∉ [Format.f32, .f16, .bf16] ∨ mag = 0 ∨ 2 ^ fmtMant f ≤ mag → z = r)

/-- R88, R93: an operand of FP32, FP16 or BF16 that is subnormal raises SUBIN, and under DAZ is read as the zero of its sign;
every other finite operand is read as its value, raising nothing. -/
def subnormalsRead : Prop :=
  ∀ f ∈ [Format.f32, .f16, .bf16], ∀ daz bits n m e, bits < 2 ^ fmtWidth f → decodeFmt f bits = .fin n m e →
    let mag := bits % 2 ^ (fmtWidth f - 1)
    if 0 < mag ∧ mag < 2 ^ fmtMant f
    then (readFloat f daz bits).2 = flagSUBIN ∧
      (if daz = true then ∃ e', (readFloat f daz bits).1 = .fin n 0 e' else (readFloat f daz bits).1 = .fin n m e)
    else readFloat f daz bits = (.fin n m e, 0)

/-- R94, R215, R217: of finite operands as they are read, ADD, SUB, MUL and FMA give the rounding of the exact sum,
difference, product, or product and sum, where that is not zero, and the flags of reading and of that one rounding. -/
def exactThenRounded : Prop :=
  ∀ f ∈ [Format.f32, .f16, .bf16], ∀ env daz g u a b d n₁ m₁ e₁ n₂ m₂ e₂ n₃ m₃ e₃, env.rm ≤ 4 →
    (readFloat f daz a).1 = .fin n₁ m₁ e₁ → (readFloat f daz b).1 = .fin n₂ m₂ e₂ →
    (readFloat f daz d).1 = .fin n₃ m₃ e₃ →
    let x := valueOf n₁ m₁ e₁
    let y := valueOf n₂ m₂ e₂
    let rd := (readFloat f daz a).2 ||| (readFloat f daz b).2
    ∀ row ∈ [(FloatOp.add, x + y, rd), (.sub, x - y, rd), (.mul, x * y, rd),
        (.fma, valueOf n₃ m₃ e₃ + x * y, rd ||| (readFloat f daz d).2)],
      row.2.1 ≠ 0 → ∃ n m e, valueOf n m e = row.2.1 ∧
        floatOp row.1 f env daz g a b d =
          ((roundTo f env u (.fin n m e)).1, row.2.2 ||| (roundTo f env u (.fin n m e)).2, g)

/-- The FP32 pattern of 2^k. -/
def powerOfTwo (k : Int) : Word := BitVec.ofNat 32 (2 ^ 23 * (k + 127).toNat)

/-- R218, R219: the results of FUN.F32 that the rules name: at zeros, infinities, NaN and negative operands, and the exact
ones, with their flags, without FTZ. -/
def functionsAtNamedPoints : Prop :=
  ∀ env daz g, env.ftz = false →
    let fn := fun (k : Nat) (x : Word) => ((funF32 k env daz g x).1, (funF32 k env daz g x).2.1)
    let nan : Word := 0x7FC00000#32
    let inf : Word := 0x7F800000#32
    let minusInf : Word := 0xFF800000#32
    let minusZero : Word := 0x80000000#32
    let one : Word := 0x3F800000#32
    let minusOne : Word := 0xBF800000#32
    (∀ p ∈ [(0, 0#32, inf, flagDZ), (0, minusZero, minusInf, flagDZ), (0, inf, 0#32, 0), (0, minusInf, minusZero, 0),
        (1, 0#32, inf, flagDZ), (1, minusZero, minusInf, flagDZ), (1, inf, 0#32, 0),
        (2, 0#32, 0#32, 0), (2, minusZero, minusZero, 0), (2, inf, inf, 0), (3, minusInf, 0#32, 0), (3, inf, inf, 0),
        (4, 0#32, minusInf, flagDZ), (4, minusZero, minusInf, flagDZ), (4, inf, inf, 0)], fn p.1 p.2.1 = p.2.2) ∧
    (∀ p ∈ [(5, inf, nan, flagINV), (5, minusInf, nan, flagINV), (6, inf, nan, flagINV), (6, minusInf, nan, flagINV),
        (7, 0#32, 0#32, 0), (7, minusZero, minusZero, 0), (7, inf, one, 0), (7, minusInf, minusOne, 0),
        (8, 0#32, 0#32, 0), (8, minusZero, minusZero, 0), (8, inf, one, 0), (8, minusInf, minusOne, 0)],
      fn p.1 p.2.1 = p.2.2) ∧
    (∀ k x, k ≤ 8 → decodeFmt .f32 x.toNat = .nan → (fn k x).1 = nan) ∧
    (∀ k ∈ [1, 2, 4], ∀ x : Word, 0x80800000 ≤ x.toNat → x.toNat ≤ 0xFF800000 →
      (fn k x).1 = nan ∧ (fn k x).2 &&& flagINV ≠ 0) ∧
    (∀ k : Int, -126 ≤ k → k ≤ 126 → fn 0 (powerOfTwo k) = (powerOfTwo (-k), 0)) ∧
    (∀ k : Int, -63 ≤ k → k ≤ 63 →
      fn 1 (powerOfTwo (2 * k)) = (powerOfTwo (-k), 0) ∧ fn 2 (powerOfTwo (2 * k)) = (powerOfTwo k, 0)) ∧
    (∀ (x : Word) n m e (k : Int), decodeFmt .f32 x.toNat = .fin n m e → valueOf n m e = k → -126 ≤ k → k ≤ 127 →
      fn 3 x = (powerOfTwo k, 0)) ∧
    (∀ k : Int, -126 ≤ k → k ≤ 127 → (fn 4 (powerOfTwo k)).2 = 0 ∧
      ∃ n m e, decodeFmt .f32 (fn 4 (powerOfTwo k)).1.toNat = .fin n m e ∧ valueOf n m e = k) ∧
    (∀ (x : Word) n m e (j : Int), decodeFmt .f32 x.toNat = .fin n m e → valueOf n m e = (j : ℚ) / 4 →
      fn 5 x = (if j % 4 = 1 then one else if j % 4 = 3 then minusOne else if n = true then minusZero else 0#32, 0) ∧
      fn 6 x = (if j % 4 = 0 then one else if j % 4 = 2 then minusOne else 0#32, 0)) ∧
    (∀ (x : Word) n m e, decodeFmt .f32 x.toNat = .fin n m e →
      ((19 : ℚ) / 2 ≤ |valueOf n m e| → fn 7 x = (if n = true then minusOne else one, flagINX)) ∧
      ((4 : ℚ) ≤ |valueOf n m e| → fn 8 x = (if n = true then minusOne else one, flagINX)))

/-- R82, R88, R89, R92 to R94, R215, R217 to R219: what reading, rounding, adding, multiplying and the functions give, said of
the exact values. -/
def Obligations.RoundingAndExactValues : Prop :=
  exactKept ∧ roundsToNeighbour ∧ overflowsAsRuled ∧ flushesToZero ∧ subnormalsRead ∧ exactThenRounded ∧
  functionsAtNamedPoints

/-! ### Selection, lane exchange, reductions, the lane sort -/

/-- The active lane a word names, or none (R225 to R227). -/
def laneNamed (s : State) (x : Word) : Option Nat :=
  if x.toNat < 96 ∧ s.frag.exec.getLsbD x.toNat = true then some x.toNat else none

/-- The low byte of the first parcel of an instruction's encoding (R54). -/
def lowByteOf (i : Instr) : Option (BitVec 8) := (encode i).head?.map (fun p => p.setWidth 8)

/-- R224 to R227: the low bytes of the four instructions, and where they are illegal: SHFL and WRLANE with a destination that is
no lane register of the card, RDLANE of a lane register at or above VREGS, and a lane-varying operand where a uniform one is
required. -/
def selectionsFormed : Prop :=
  ∀ s d a b,
    let illegal := fun i => exec i s = .next (takeTrap s 0x08 false)
    lowByteOf (.sel d a b) = some 0x55 ∧ lowByteOf (.shfl d a b) = some 0x57 ∧ lowByteOf (.rdlane d a b) = some 0x59 ∧
    lowByteOf (.wrlane d a b) = some 0x5B ∧
    (0x80 ≤ d.toNat ∨ s.crew.vregs ≤ d.toNat → illegal (.shfl d a b) ∧ illegal (.wrlane d a b)) ∧
    (0x80 ≤ a.toNat ∨ s.crew.vregs ≤ a.toNat → illegal (.rdlane d a b)) ∧
    (laneVarying b = true → illegal (.rdlane d a b) ∧ illegal (.wrlane d a b)) ∧
    (laneVarying a = true → illegal (.wrlane d a b))

/-- R224 to R227: SEL chooses by m0 in a lane, and by m0 and EXEC on the scalar unit; SHFL takes A of the lane B names,
or its own; RDLANE broadcasts vA of lane B, or 0; WRLANE writes the one lane B names, if it is active. -/
def lanesSelected : Prop :=
  ∀ s d a b,
    (d.toNat < 0x80 → Admitted (.sel d a b) .laneArith s →
      writesLanes (.sel d a b) s d.toNat [a, b] (fun l =>
        let u := latchClk s [a, b]
        if (readM s 0).getLsbD l then readSrc u a l else readSrc u b l)) ∧
    (scalarDst d = true → Admitted (.sel d a b) .control s →
      let u := latchClk s [a, b]
      writesScalar (.sel d a b) s d [a, b] (if readM s 0 &&& s.frag.exec = 0#96 then readSrc u b 0 else readSrc u a 0)) ∧
    (Admitted (.shfl d a b) .laneArith s →
      writesLanes (.shfl d a b) s d.toNat [a, b] (fun l =>
        let u := latchClk s [a, b]
        readSrc u a ((laneNamed s (readSrc u b l)).getD l))) ∧
    (let x := match laneNamed s (readSrc (latchClk s [b]) b 0) with
        | some k => readV s a.toNat k
        | none => 0#32
     (d.toNat < 0x80 → Admitted (.rdlane d a b) .laneArith s → writesLanes (.rdlane d a b) s d.toNat [b] (fun _ => x)) ∧
     (scalarDst d = true → Admitted (.rdlane d a b) .control s → writesScalar (.rdlane d a b) s d [b] x)) ∧
    (Admitted (.wrlane d a b) .laneArith s →
      let u := latchClk s [a, b]
      ∃ t, exec (.wrlane d a b) s = .next t ∧ Kept s t ∧ SameScalars s t [] ∧ SameMasks s t [] ∧ SameGenerators s t ∧
        t.wave.flg = s.wave.flg ∧ ClockRead s t [a, b] ∧ GoesOn s t ∧
        ∀ r l, l < 96 → laneReg t r l =
          if r = d.toNat ∧ laneNamed s (readSrc u b 0) = some l then readSrc u a 0 else laneReg s r l)

/-- R224 to R227: SEL, SHFL, RDLANE and WRLANE. -/
def Obligations.LaneSelection : Prop := lanesSelected ∧ selectionsFormed

/-- WRED's accumulator over values in lane order, with the flags: the identity where there is none, else the first
value, combined with each further one in turn (R105, R228). -/
def reduced (f : Nat) (env : RoundEnv) (daz : Bool) : List Word → Word × Flags
  | [] => (wredIdentity f, 0)
  | x :: xs => xs.foldl (fun r y => let q := wredStep f env daz r.1 y; (q.1, r.2 ||| q.2)) (wredFirst f daz x)

/-- R86, R97, R105, R228: WRED combines vA of the active lanes in ascending order, into every active lane or into a scalar
destination once; R229: WSCAN gives each active lane the combination up to its own.  With an enabled flag raised they take
the arithmetic trap, DONE 1, their results standing; a value FMT does not accept is refused.  The choices of the model:
any scalar destination, with the flags committed after it is written (assumption 25); DAZ on the values read and not on the
combination so far (assumption 26). -/
def Obligations.Reductions : Prop :=
  ∀ s d a f,
    let env := laneEnv s.frag.fmt true
    let daz := fmtDAZ s.frag.fmt
    let w := reduced f.toNat env daz ((laneList s.frag.exec).map (fun l => readV s a.toNat l))
    (d.toNat < 0x80 → Admitted (.wred d a f) .laneArith s →
      endsLanes (.wred d a f) s d.toNat [] (fun _ => w.1) (readRng s) w.2) ∧
    (scalarDst d = true → Admitted (.wred d a f) .control s → endsScalar (.wred d a f) s d [] w.1 w.2) ∧
    (Admitted (.wscan d a f) .laneArith s →
      let u := latchClk s [a]
      let upTo := fun n => reduced f.toNat env daz (((laneList s.frag.exec).filter (fun k => decide (k ≤ n))).map (readSrc u a))
      endsLanes (.wscan d a f) s d.toNat [a] (fun l => (upTo l).1) (readRng s)
        (if s.frag.exec = 0#96 then 0 else (upTo 95).2))

/-- R244: REORD's sort is stable: its result is a rearrangement of what it is given, ascending by key, and entries of
one key keep their order. -/
def sortIsStable : Prop :=
  ∀ ps : List (Nat × Nat),
    (sortByKey ps).Perm ps ∧ (sortByKey ps).Pairwise (fun p q => p.1 ≤ q.1) ∧
    ∀ k, (sortByKey ps).filter (fun p => p.1 == k) = ps.filter (fun p => p.1 == k)

/-- R244: REORD moves each register of its window as the sort by the 16-bit keys of vK rearranges the active lanes, and
m0 marks the active lanes that begin a run of equal keys. -/
def laneSort : Prop :=
  ∀ s n a b, Admitted (.ctlReord n a b) .laneArith s →
    let ls := laneList s.frag.exec
    let key := fun l => (readV s a.toNat l).toNat % 65536
    let sorted := sortByKey (ls.map (fun l => (key l, l)))
    ∃ t, exec (.ctlReord n a b) s = .next t ∧ Kept s t ∧ SameScalars s t [] ∧ SameMasks s t [0] ∧ SameGenerators s t ∧
      t.wave.flg = s.wave.flg ∧ t.wave.clkHi = s.wave.clkHi ∧ GoesOn s t ∧
      (∀ r l, l < 96 → (b.toNat ≤ r ∧ r ≤ b.toNat + n.toNat ∧ s.frag.exec.getLsbD l = true ∨
        laneReg t r l = laneReg s r l)) ∧
      (∀ j i p q, j ≤ n.toNat → ls[i]? = some p → sorted[i]? = some q →
        laneReg t (b.toNat + j) p = readV s (b.toNat + j) q.2 ∧
        (readM t 0).getLsbD p = (if s.frag.lanes.getLsbD p then
          decide (i = 0 ∨ (sorted[i - 1]?.map Prod.fst) ≠ some q.1) else (readM s 0).getLsbD p)) ∧
      (∀ l, s.frag.exec.getLsbD l = false → (readM t 0).getLsbD l =
        ((readM s 0).getLsbD l && !s.frag.lanes.getLsbD l))

/-- R244: REORD is of the lane-arithmetic class, `CTL.REORD v1, v1, 2` encodes as 0x0101_118D, and a key or window register at
or above VREGS makes it illegal. -/
def laneSortFormed : Prop :=
  encode (.ctlReord 1 1 1) = split32 0x0101118D ∧
  ∀ s n a b,
    (legalHere s (.ctlReord n a b) = true → s.frag.trapMode = false → roleAllows s.wave.role .laneArith = false →
      exec (.ctlReord n a b) s = .next (takeTrap s 0x10 false)) ∧
    (s.crew.vregs ≤ a.toNat ∨ s.crew.vregs ≤ b.toNat + n.toNat →
      exec (.ctlReord n a b) s = .next (takeTrap s 0x08 false))

/-- R244: the reordering of lanes is the stable sort. -/
def Obligations.LaneSorting : Prop := sortIsStable ∧ laneSort ∧ laneSortFormed

/-! ### Compares and masks -/

/-- Mask k holds x in the fragment's lanes and what it held elsewhere; only flags besides have changed, the PC apart. -/
structure MaskOutcome (s t : State) (k : Nat) (codes : List (BitVec 8)) (x : Lanes) (fl : Flags) : Prop where
  kept    : Kept s t
  lanes   : SameLanes s t []
  scalars : SameScalars s t []
  masks   : SameMasks s t [k]
  gens    : SameGenerators s t
  written : readM t k = ((x &&& s.frag.lanes) ||| (readM s k &&& ~~~ s.frag.lanes))
  flags   : t.wave.flg = s.wave.flg ||| fl.setWidth 32
  clock   : ClockRead s t codes

/-- The instruction answers a next state in which mask k holds x in the fragment's lanes and what it held elsewhere;
only flags besides change, and the fragment goes on. -/
def writesMask (i : Instr) (s : State) (k : Nat) (codes : List (BitVec 8)) (x : Lanes) (fl : Flags) : Prop :=
  ∃ t, exec i s = .next t ∧ MaskOutcome s t k codes x fl ∧ GoesOn s t

/-- The lanes of EXEC of which p holds. -/
def activeThat (s : State) (p : Nat → Prop) [DecidablePred p] : Lanes := lanesWhere (fun l => decide (p l)) &&& s.frag.exec

/-- A condition of R69 on two integers: EQ, NE, LT, LE, GT, GE by its code. -/
def condHolds (c : Nat) (x y : Int) : Bool :=
  match c with
  | 0 => decide (x = y)
  | 1 => decide (x ≠ y)
  | 2 => decide (x < y)
  | 3 => decide (x ≤ y)
  | 4 => decide (y < x)
  | _ => decide (y ≤ x)

/-- R69, R233 to R235: CMP.I32, CMP.N32 and TEST complete: MD holds the lanes of EXEC that satisfy the condition, and is
clear in the fragment's others, also with EXEC empty. -/
def compareMasks : Prop :=
  ∀ s m c a b,
    let u := latchClk s [a, b]
    (Admitted (.cmpI32 m c a b) .control s →
      ∃ t, exec (.cmpI32 m c a b) s = .next t ∧ GoesOn s t ∧ MaskOutcome s t m.toNat [a, b]
        (activeThat s (fun l => condHolds c.toNat (readSrc u a l).toInt (readSrc u b l).toInt = true)) 0) ∧
    (Admitted (.cmpN32 m c a b) .control s →
      ∃ t, exec (.cmpN32 m c a b) s = .next t ∧ GoesOn s t ∧ MaskOutcome s t m.toNat [a, b]
        (activeThat s (fun l => condHolds c.toNat (readSrc u a l).toNat (readSrc u b l).toNat = true)) 0) ∧
    (Admitted (.test m c a b) .control s →
      ∃ t, exec (.test m c a b) s = .next t ∧ GoesOn s t ∧ MaskOutcome s t m.toNat [a, b]
        (activeThat s (fun l => (c.toNat = 0) ↔ (readSrc u a l &&& readSrc u b l ≠ 0#32))) 0)

/-- R69, R97, R234: CMP.F32 completes: the lanes of EXEC that satisfy the condition by value, with -0 equal to +0 and the
unordered conditions of R69; its reads raise INV and SUBIN for active lanes; one of them enabled, it takes the arithmetic
trap after that, DONE 1. -/
def floatCompares : Prop :=
  ∀ s m c a b, Admitted (.cmpF32 m c a b) .control s →
    let u := latchClk s [a, b]
    let rd := fun (x : BitVec 8) (l : Nat) => readFloat .f32 (fmtDAZ s.frag.fmt) (readSrc u x l).toNat
    let fl := (laneList s.frag.exec).foldl (fun acc l => acc ||| (rd a l).2 ||| (rd b l).2) 0
    let x := activeThat s (fun l => compareFloats c.toNat (rd a l).1 (rd b l).1 = true)
    (¬ trapsOn s fl → ∃ t, exec (.cmpF32 m c a b) s = .next t ∧ GoesOn s t ∧ MaskOutcome s t m.toNat [a, b] x fl) ∧
    (trapsOn s fl → ∃ t, exec (.cmpF32 m c a b) s = .next (takeTrap t 0x0B true) ∧ t.frag = s.frag ∧
      MaskOutcome s t m.toNat [a, b] x fl)

/-- R69, R233 to R235: the compare instructions write a mask of the active lanes. -/
def Obligations.Comparisons : Prop := compareMasks ∧ floatCompares

/-- A mask by its selector, 8 for EXEC (R69). -/
def maskNamed (s : State) (k : BitVec 8) : Lanes := if k.toNat = 8 then s.frag.exec else readM s k.toNat

/-- The instruction answers a next state in which the scalar registers listed have been written; all else is kept. -/
def writesSRegs (i : Instr) (s : State) (xs : List (Nat × Word)) : Prop :=
  ∃ t, exec i s = .next t ∧ Kept s t ∧ SameLanes s t [] ∧ SameScalars s t (xs.map Prod.fst) ∧ SameMasks s t [] ∧
    SameGenerators s t ∧ t.wave.flg = s.wave.flg ∧ t.wave.clkHi = s.wave.clkHi ∧ GoesOn s t ∧
    ∀ p ∈ xs, scalarReg t p.1 = p.2

/-- R69, R236, R237: MOP's operations on masks; MMOV moves a mask or EXEC into a mask or EXEC, a mask to three
s-registers or back, and counts its lanes or finds the lowest. -/
def Obligations.MaskMoves : Prop :=
  ∀ s m c a b,
    (Admitted (.mop m c a b) .control s →
      let x := maskNamed s a
      let y := maskNamed s b
      let z := match c.toNat with
        | 0 => x &&& y
        | 1 => x ||| y
        | 2 => x ^^^ y
        | 3 => x &&& ~~~ y
        | 4 => ~~~ x
        | _ => x
      writesMask (.mop m c a b) s m.toNat [] z 0) ∧
    (Admitted (.mmov m c a b) .control s →
      let x := readM s m.toNat
      let r := a.toNat - 0x80
      (c.toNat = 0 → writesMask (.mmov m c a b) s m.toNat [] (maskNamed s a) 0) ∧
      (c.toNat = 1 → ∃ t, exec (.mmov m c a b) s = .next t ∧ t.wave = s.wave ∧ t.crew = s.crew ∧ t.dev = s.dev ∧
        t.frag.exec = maskNamed s a &&& s.frag.lanes ∧
        { t.frag with exec := s.frag.exec } = pastParcels s.frag (curParcels s.frag) s.clk) ∧
      (c.toNat = 2 → writesSRegs (.mmov m c a b) s
        [(r, x.extractLsb' 0 32), (r + 1, x.extractLsb' 32 32), (r + 2, x.extractLsb' 64 32)]) ∧
      (c.toNat = 3 → writesMask (.mmov m c a b) s m.toNat [] (readS s (r + 2) ++ readS s (r + 1) ++ readS s r) 0) ∧
      (c.toNat = 4 → writesSRegs (.mmov m c a b) s
        [(r, BitVec.ofNat 32 ((List.range 96).countP (fun l => x.getLsbD l)))]) ∧
      (c.toNat = 5 → writesSRegs (.mmov m c a b) s
        [(r, BitVec.ofNat 32 (((List.range 96).find? (fun l => x.getLsbD l)).getD 96))]))

/-! ### Control flow -/

/-- R48: an address a transfer may go to: a multiple of 4, and canonical. -/
def goodTarget (a : DWord) : Prop := a.toNat % 4 = 0 ∧ canonical a = true

/-- R70: the target of a displacement of OFF20 words from the clause header. -/
def offTarget (s : State) (o : BitVec 20) : DWord := s.frag.clause + BitVec.ofInt 64 (4 * o.toInt)

/-- The fragment begins the clause at a; nothing else changes (R48). -/
def goesTo (i : Instr) (s : State) (a : DWord) : Prop := exec i s = .next { s with frag := gotoClause s.frag a s.clk }

/-- R48, R239, R240, R242: BRA goes to its target; BRANY when a lane of EXEC has its mask bit set, BRALL when all have,
and else to the next clause; CALL leaves the next clause's address in s62:s63; JMPR goes to the address in its pair. -/
def branches : Prop :=
  ∀ s m o a,
    (goodTarget (offTarget s o) →
      (Admitted (.bra o) .control s → goesTo (.bra o) s (offTarget s o)) ∧
      (Admitted (.brany m o) .control s →
        goesTo (.brany m o) s
          (if s.frag.exec &&& readM s m.toNat = 0#96 then nextClause s.frag else offTarget s o)) ∧
      (Admitted (.brall m o) .control s →
        goesTo (.brall m o) s
          (if s.frag.exec &&& ~~~ readM s m.toNat = 0#96 then offTarget s o else nextClause s.frag)) ∧
      (Admitted (.call o) .control s → s.crew.sregs = 64 →
        ∃ t, exec (.call o) s = .next t ∧ Kept s t ∧ SameLanes s t [] ∧ SameScalars s t [62, 63] ∧ SameMasks s t [] ∧
          SameGenerators s t ∧ t.wave.flg = s.wave.flg ∧ t.wave.clkHi = s.wave.clkHi ∧
          t.frag = gotoClause s.frag (offTarget s o) s.clk ∧
          scalarReg t 62 = (nextClause s.frag).extractLsb' 0 32 ∧ scalarReg t 63 = (nextClause s.frag).extractLsb' 32 32)) ∧
    (Admitted (.ctlJmpr a) .control s → goodTarget (readS64 s (a.toNat - 0x80)) →
      goesTo (.ctlJmpr a) s (readS64 s (a.toNat - 0x80)))

/-- The cause of the trap at a target no transfer may go to: 0x07 where it is no multiple of 4, else 0x05.  That one which is
both takes 0x07 is the model's choice (DESIGN CHOICE, assumption 73). -/
def targetCause (x : DWord) : Nat := if x.toNat % 4 ≠ 0 then 0x07 else 0x05

/-- R48: with a target that is no multiple of 4 the transfers take the misalignment trap 0x07, with one that is not
canonical the trap 0x05 (with one that is both, 0x07: the model's choice, assumption 73), taken or not, before any effect. -/
def branchTargetsChecked : Prop :=
  ∀ s m o a,
    (¬ goodTarget (offTarget s o) →
      (∀ i ∈ [Instr.bra o, .brany m o, .brall m o, .brs m o], Admitted i .control s →
        exec i s = .next (takeTrap s (targetCause (offTarget s o)) false)) ∧
      (Admitted (.call o) .control s → s.crew.sregs = 64 →
        exec (.call o) s = .next (takeTrap s (targetCause (offTarget s o)) false))) ∧
    (Admitted (.ctlJmpr a) .control s → ¬ goodTarget (readS64 s (a.toNat - 0x80)) →
      exec (.ctlJmpr a) s = .next (takeTrap s (targetCause (readS64 s (a.toNat - 0x80))) false))

/-- R48, R239, R240, R242: branches, calls and jumps, and the check of their targets. -/
def Obligations.BranchesTaken : Prop := branches ∧ branchTargetsChecked

/-- R243: SLEEP blocks for the operand's clocks, at most 2^20; with 0, or once over, the fragment goes on. -/
def sleep : Prop :=
  ∀ s a, Admitted (.ctlSleep a) .control s →
    let n := min (readSrc s a 0).toNat 1048576
    (n ≠ 0 → s.frag.resume = .fresh →
      exec (.ctlSleep a) s =
        .next { s with frag := { s.frag with status := .blocked (.sleep (s.clk + n)), resume := .fresh } }) ∧
    ((n = 0 ∨ s.frag.resume ≠ .fresh) → exec (.ctlSleep a) s = .next (advance s))

/-- R184, R48: a BRS whose JOINAT names an address no transfer may go to takes that trap, in trap mode too, whatever its taken
set. -/
def joinAddressChecked : Prop :=
  ∀ s m o a, Admitted (.brs m o) .control s → goodTarget (offTarget s o) → joinAddr s.frag = some a → ¬ goodTarget a →
    exec (.brs m o) s = .next (takeTrap s (targetCause a) false)

/-- R35, R190: `size` bytes of the park area from p on are free. -/
def freePlace (c : Crew) (size p : Nat) : Prop :=
  0x1200 ≤ p ∧ p + size ≤ c.parkSize ∧ ∀ q ∈ c.allocs, p + size ≤ q.1 ∨ q.1 + q.2 ≤ p

/-- R190: the wave's split table and park area hold what they should: what goes beyond sixteen entries of a kind is
spilled, and the places taken follow one another. -/
def splitTablesSound (s : State) : Prop :=
  s.wave.fspill.length = s.wave.frags.length + 1 - 16 ∧ s.wave.jspill.length = s.wave.joins.length - 16 ∧
  s.crew.allocs.Pairwise (fun a b => a.1 + a.2 ≤ b.1)

/-- R184, R185, R189, R190: BRS.  In trap mode it acts as BRANY.  Outside it, lanes of EXEC whose mask bit is set go to the
target, the others to the next clause; a fragment of both kinds splits, both halves keeping its age, and a JOINAT that
names a new address makes a join record of the fragment's lanes and FMT, which both halves carry.  The seventeenth
fragment takes 128 bytes of the park area, the seventeenth join record 32, and so on; where there is no such place, or
the join chain holds 256 records already, BRS takes the split-depth fault 0x0E, with no effect. -/
def splitBranch : Prop :=
  ∀ s m o, Admitted (.brs m o) .control s → goodTarget (offTarget s o) →
    (∀ a, joinAddr s.frag = some a → goodTarget a) →
    (s.frag.trapMode = true →
      goesTo (.brs m o) s (if s.frag.exec &&& readM s m.toNat = 0#96 then nextClause s.frag else offTarget s o)) ∧
    (s.frag.trapMode = false → splitTablesSound s →
      let T := s.frag.exec &&& readM s m.toNat
      let N := s.frag.exec &&& ~~~ readM s m.toNat
      let makes := (joinAddr s.frag).isSome = true ∧ joinAddr s.frag ≠ innerAddr s
      let deep := 256 ≤ (joinChain s.wave 257 s.frag.join).length
      let needF := T ≠ 0#96 ∧ N ≠ 0#96 ∧ 16 ≤ s.wave.frags.length + 1
      let needJ := makes ∧ 16 ≤ s.wave.joins.length
      ((makes ∧ deep) ∨ (needF ∧ ¬ ∃ p, freePlace s.crew 128 p) ∨ (needJ ∧ ¬ ∃ p, freePlace s.crew 32 p) →
        exec (.brs m o) s = .next (takeTrap s 0x0E false)) ∧
      (¬ (makes ∧ deep) → (needF → ∃ p, freePlace s.crew 128 p) → (needJ → ∃ p, freePlace s.crew 32 p) →
        (needF → needJ → ∃ p, freePlace s.crew 160 p) →
        ∃ t, exec (.brs m o) s = .next t ∧ t.dev = s.dev ∧ t.frag.fmt = s.frag.fmt ∧ t.frag.parcel = 63 ∧
          t.crew = { s.crew with allocs := t.crew.allocs } ∧ (¬ needF → ¬ needJ → t.crew = s.crew) ∧
          (∀ q ∈ s.crew.allocs, q ∈ t.crew.allocs) ∧
          (needF → ∃ p, freePlace s.crew 128 p ∧ t.wave.fspill = s.wave.fspill ++ [p] ∧ (p, 128) ∈ t.crew.allocs) ∧
          (¬ needF → t.wave.fspill = s.wave.fspill) ∧
          (needJ → ∃ p, freePlace s.crew 32 p ∧ t.wave.jspill = s.wave.jspill ++ [p] ∧ (p, 32) ∈ t.crew.allocs) ∧
          (¬ needJ → t.wave.jspill = s.wave.jspill) ∧
          (T = 0#96 ∨ N = 0#96 → t.wave.frags = s.wave.frags ∧ t.frag.lanes = s.frag.lanes ∧ t.frag.exec = s.frag.exec ∧
            t.frag.clause = if T = 0#96 then nextClause s.frag else offTarget s o) ∧
          (T ≠ 0#96 → N ≠ 0#96 →
            t.frag.lanes = s.frag.lanes &&& ~~~ T ∧ t.frag.exec = N ∧ t.frag.clause = nextClause s.frag ∧
            t.frag.age = s.frag.age ∧
            ∃ g, t.wave.frags = s.wave.frags ++ [g] ∧ g.lanes = T ∧ g.exec = T ∧ g.fmt = s.frag.fmt ∧
              g.clause = offTarget s o ∧ g.parcel = 63 ∧ g.status = .ready ∧ g.trapMode = false ∧ g.age = s.frag.age ∧
              g.join = t.frag.join) ∧
          (¬ makes → t.frag.join = s.frag.join ∧ t.wave.joins = s.wave.joins) ∧
          (∀ a, joinAddr s.frag = some a → innerAddr s ≠ some a →
            ∃ j, t.wave.joins = s.wave.joins ++ [j] ∧ j.addr = a ∧ j.lanes = s.frag.lanes ∧ j.fmt = s.frag.fmt ∧
              j.outer = s.frag.join ∧ t.frag.join = some j.id)))

/-- R184: JOINAT whose mask is that of the BRS that ends its clause goes on; one without is an illegal instruction, in trap
mode too (DEDUCED, assumption 29). -/
def joinAt : Prop :=
  ∀ s m o, Admitted (.joinat m o) .control s →
    (∀ w, clauseMaj s.frag 0x43 = some w → w.extractLsb' 8 3 = m → exec (.joinat m o) s = .next (advance s)) ∧
    ((∀ w, clauseMaj s.frag 0x43 = some w → w.extractLsb' 8 3 ≠ m) →
      exec (.joinat m o) s = .next (takeTrap s 0x08 false))

/-- R48, R184, R185, R189, R190: BRS divides the fragment, JOINAT names where its parts join. -/
def Obligations.SplitsAndJoins : Prop := joinAddressChecked ∧ splitBranch ∧ joinAt

/-- R63, R64 (one step for each LIT word: DEDUCED, assumption 51): the first LIT of a sound sequence gives the sign-extended 24 bits to what follows; the second gives the 48
bits of both, the first's the low ones; an unsound sequence is an illegal instruction at its first LIT. -/
def literals : Prop :=
  ∀ s x,
    (s.frag.lit = none →
      (litSequenceOk 1 (s.frag.body.drop (s.frag.parcel + 2)) = true →
        exec (.lit x) s = .next { s with frag := { s.frag with
          lit := some ⟨BitVec.ofInt 64 x.toInt, s.frag.parcel, 1⟩, parcel := s.frag.parcel + 2 } }) ∧
      (litSequenceOk 1 (s.frag.body.drop (s.frag.parcel + 2)) = false →
        exec (.lit x) s = .next (takeTrap s 0x08 false))) ∧
    (∀ y, s.frag.lit = some y →
      exec (.lit x) s = .next { s with frag := { s.frag with
        lit := some ⟨BitVec.ofInt 64 (x.toInt * 2 ^ 24 + y.value.toNat % 2 ^ 24), y.first, y.words + 1⟩,
        parcel := s.frag.parcel + 2 } })

/-- R45, R47, R49, R186, R189, R191, R192: a fragment at a clause header fetches a clause.  An unsound one is an illegal
clause, 0x09.  One of sound structure, which is not at the address of the fragment's innermost join record, and for which
no late trap waits (in trap mode: whatever its address), begins at parcel 0 when every flag WAIT names reads zero, keeping
the fragment's age (R185), and else waits, yielded if YLD says so and no operation it waits for has stopped without a
record (R37).  At the innermost join record's address, outside trap mode, it must have RCV set, or is an illegal clause. -/
def clauseBegins : Prop :=
  ∀ s h body d, s.frag.after = false → s.frag.latched = false →
    fetchClause s.dev (fragAsker s) s.crew.ctx s.wave.fetchMark s.nfree s.frag.clause.toNat = (.clause h body, d) →
    let u := { s with dev := d, frag := { s.frag with hdr := h, body := body, latched := true, status := .ready } }
    (structureOk h body = false → exec .clauseBegin s = .next (takeTrap u 0x09 false)) ∧
    (structureOk h body = true →
      (s.frag.trapMode = true ∨ ((∀ p, innerJoin s = some p → p.2 ≠ s.frag.clause) ∧
        lateOp s.crew.ops s.wave.idx (inWait h) = none)) →
      ((∀ k, k < 12 → h.wait.getLsbD k = true → flagOf s.wave k = 0) →
        exec .clauseBegin s = .next { u with frag := { u.frag with
          parcel := 0, lit := none, status := .ready, resume := .fresh } }) ∧
      ((∃ k, k < 12 ∧ h.wait.getLsbD k = true ∧ flagOf s.wave k ≠ 0) →
        exec .clauseBegin s = .next { u with frag := { u.frag with
          status := if h.yld && !waitsUnrecorded s.crew s.wave.idx h then .yielded else .waiting, resume := .fresh } })) ∧
    (structureOk h body = true → s.frag.trapMode = false → ∀ id, innerJoin s = some (id, s.frag.clause) → h.rcv = false →
      exec .clauseBegin s = .next (takeTrap u 0x09 false))

/-- R186, R187: at its innermost join record's address a fragment outside trap mode enters Joining, where the clause has RCV
set.  While the fragments Joining at the record do not hold all its lanes, it only waits.  When they do, the record and
they go, and one fragment of the record's lanes and FMT and of the EXECs together, as old as the oldest of them, stands at
the record's address, under the next join record outward; no register, mask, flag or operation changes. -/
def joinRecords : Prop :=
  ∀ s h body d id j, s.frag.after = false → s.frag.latched = false → s.frag.trapMode = false →
    fetchClause s.dev (fragAsker s) s.crew.ctx s.wave.fetchMark s.nfree s.frag.clause.toNat = (.clause h body, d) →
    structureOk h body = true → h.rcv = true → s.frag.join = some id → findJoin s.wave id = some j →
    j.addr = s.frag.clause →
    let u := { s with dev := d, frag := { s.frag with hdr := h, body := body, latched := true, status := .ready } }
    let others := s.wave.frags.filter (fun f => f.status == .joining && f.join == some id)
    (others.foldl (fun a f => a ||| f.lanes) s.frag.lanes ≠ j.lanes →
      exec .clauseBegin s = .next { u with frag := { u.frag with status := .joining } }) ∧
    (others.foldl (fun a f => a ||| f.lanes) s.frag.lanes = j.lanes →
      ∃ t, exec .clauseBegin s = .next t ∧
        t.frag.lanes = j.lanes ∧ t.frag.exec = others.foldl (fun a f => a ||| f.exec) s.frag.exec ∧ t.frag.fmt = j.fmt ∧
        t.frag.join = j.outer ∧ t.frag.clause = j.addr ∧ t.frag.parcel = 63 ∧ t.frag.status = .ready ∧
        t.frag.trapMode = false ∧ t.frag.age = others.foldl (fun a f => min a f.age) s.frag.age ∧
        t.wave.frags = s.wave.frags.filter (fun f => !(f.status == .joining && f.join == some id)) ∧
        t.wave.joins = s.wave.joins.filter (fun k => k.id != id) ∧
        t.wave.v = s.wave.v ∧ t.wave.s = s.wave.s ∧ t.wave.m = s.wave.m ∧ t.wave.flg = s.wave.flg ∧ t.wave.f = s.wave.f ∧
        t.wave.rng = s.wave.rng ∧ t.crew = { s.crew with allocs := t.crew.allocs } ∧ t.dev = d)

/-- R45, R47, R49, R63, R64, R186, R187, R189, R191, R192: LIT, the beginning of a clause, and the join records. -/
def Obligations.LiteralsAndClauses : Prop := literals ∧ clauseBegins ∧ joinRecords

/-! ### Traps -/

/-- R198 to R200: taking a trap outside trap mode, with a vector: the clause address, the parcel index (of the first LIT
of a prefixed instruction) with DONE, the cause, EXEC and FMT are saved, EXEC stays, FMT becomes 0, and the fragment
begins the clause at TVEC; registers, masks, FLG, flags and memory are unchanged. -/
def trapEntry : Prop :=
  ∀ s cause done, s.frag.trapMode = false → tvec s ≠ 0#64 →
    let t := takeTrap s cause done
    t.frag.trapMode = true ∧ t.frag.epc = s.frag.clause ∧
    t.frag.epar = BitVec.ofNat 32 ((match s.frag.lit with | some l => l.first | none => s.frag.parcel) + if done then 64 else 0) ∧
    t.frag.ecause = BitVec.ofNat 32 cause ∧ t.frag.eexec = s.frag.exec ∧ t.frag.efmt = s.frag.fmt ∧
    t.frag.exec = s.frag.exec ∧ t.frag.fmt = 0#32 ∧ t.frag.clause = tvec s ∧ t.frag.parcel = 63 ∧
    t.frag.latched = false ∧ t.frag.status = .ready ∧ t.frag.lanes = s.frag.lanes ∧ t.frag.join = s.frag.join ∧
    t.wave = s.wave ∧ t.crew = s.crew ∧ t.dev = s.dev ∧ t.clk = s.clk

/-- R42, R199: a trap in trap mode, or with TVEC 0, changes nothing but to contain the crew with its cause. -/
def unhandledTrap : Prop :=
  ∀ s cause done, s.frag.trapMode = true ∨ tvec s = 0#64 →
    takeTrap s cause done = { s with crew := { s.crew with contained := some cause } }

/-- R42, R198 to R200: a trap enters trap mode, or contains the crew. -/
def Obligations.TrapsEnter : Prop := trapEntry ∧ unhandledTrap

/-- R337: SYS.TRAP takes the trap 0x13 with its operand in ETRAPV, DONE 1 and no record; in trap mode it is a double
fault. -/
def softwareTrap : Prop :=
  ∀ s a, Admitted (.sysTrap a) .control s →
    let u := latchClk s [a]
    (s.frag.trapMode = true →
      exec (.sysTrap a) s = .next { u with crew := { s.crew with contained := some 0x13 } }) ∧
    (s.frag.trapMode = false → ∃ t, exec (.sysTrap a) s = .next t ∧
      t = takeTrap { u with frag := { s.frag with etrapv := readSrc u a 0 } } 0x13 true ∧
      (tvec s ≠ 0#64 → t.frag.trapMode = true ∧ t.frag.etrapv = readSrc u a 0 ∧ t.frag.ecause = 0x13#32 ∧
        t.frag.epc = s.frag.clause ∧ t.frag.epar = BitVec.ofNat 32 (pcParcel s.frag + 64) ∧ t.frag.clause = tvec s ∧
        t.frag.erecoff = 0xFFFFFFFF#32 ∧ t.crew = s.crew))

/-- R200, R201: SYS.ERET in trap mode with a sound EPC leaves it: PC from EPC and EPAR, EXEC from EEXEC within the lane
set, FMT from EFMT; with DONE the fragment goes on behind the instruction.  Outside trap mode it is illegal (R72), and an EPC
no transfer may go to is a double fault (R48, R199).  The operation whose trap it took resumes (R321), unless a handler
rewrote its record, which R339 leaves undefined: what then happens is the model's choice (assumption 63), and is not
stated. -/
def trapReturn : Prop :=
  ∀ s, Admitted .sysEret .control s →
    (s.frag.trapMode = true → goodTarget s.frag.epc →
      ∃ t, exec .sysEret s = .next t ∧ t.frag.trapMode = false ∧ t.frag.clause = s.frag.epc ∧
        t.frag.parcel = s.frag.epar.toNat % 64 ∧ t.frag.after = s.frag.epar.getLsbD 6 ∧ t.frag.latched = false ∧
        t.frag.exec = s.frag.eexec &&& s.frag.lanes ∧ t.frag.fmt = s.frag.efmt ∧ t.frag.lanes = s.frag.lanes ∧
        t.frag.status = .ready ∧ t.dev = s.dev ∧
        ((∀ o ∈ s.crew.ops, o.tampered = true → trappedBy s.wave.idx s.frag.id o = false) → t.wave = s.wave ∧
          ∀ o ∈ s.crew.ops, trappedBy s.wave.idx s.frag.id o = true → resumeOp s.dev s.crew o ∈ t.crew.ops)) ∧
    (s.frag.trapMode = true → ¬ goodTarget s.frag.epc → ∃ c, exec .sysEret s =
      .next { s with crew := { s.crew with contained := some c } } ∧ (c = 0x07 ∨ c = 0x05)) ∧
    (s.frag.trapMode = false → exec .sysEret s = .next (takeTrap s 0x08 false))

/-- R48, R72, R199 to R201, R321, R337, R339: SYS.TRAP and SYS.ERET. -/
def Obligations.TrapInstructions : Prop := softwareTrap ∧ trapReturn

/-! ### Memory access -/

/-- What an access instruction moves: lanes with their addresses, bytes per access, the data of a lane, what it does,
and the registers it reads into; `ok` is what else it asks (LDREC's index). -/
structure Access where
  i       : Instr
  cls     : RoleClass
  scalar  : Bool
  scratch : Bool
  kind    : MemKind
  bits    : Option Bool
  bytes   : Nat
  at_     : State → List (Nat × Nat)
  data    : State → Nat → Nat
  dst     : Nat
  dstV    : List Nat
  dstS    : List Nat
  ok      : State → Prop

/-- The size SZ names (R250). -/
def sizeOfSz (z : BitVec 3) : Nat :=
  match z.toNat with
  | 1 => 1 | 2 => 1 | 3 => 2 | 4 => 2 | 5 => 8 | 6 => 16 | _ => 4

/-- Bytes of a source: its low bytes, a pair, or a quad (R251). -/
def sourceBytes (d : BitVec 8) (n : Nat) (s : State) (l : Nat) : Nat :=
  match n with
  | 8 => (readSrc64 s d l).toNat
  | 16 => (readSrc64 s d l).toNat + 2 ^ 64 * (readSrc64 s (d + 2) l).toNat
  | n => (readSrc s d l).toNat % 2 ^ (8 * n)

/-- The registers from r on that n bytes fill. -/
def regsOfBytes (r n : Nat) : List Nat := if n = 16 then [r, r + 1, r + 2, r + 3] else if n = 8 then [r, r + 1] else [r]

/-- The accesses of the active lanes (R249, R250): an address or a scratchpad offset for each. -/
def byLane (f : State → Nat → Nat) (s : State) : List (Nat × Nat) := (laneList s.frag.exec).map (fun l => (l, f s l))

/-- The access instructions (R250, R251, R254 to R258, R263); the address of LDREC's word k is that of the pool record's
word plus 4k. -/
def accesses (d a : BitVec 8) (z : BitVec 3) (o : BitVec 5) (p : BitVec 4) (w : BitVec 1) (n : BitVec 3) : List Access :=
  let b := sizeOfSz z
  let virt := fun s l => (readSrc64 s a l + BitVec.ofNat 64 (o.toNat * b)).toNat
  let pad := fun s l => (readSrc s a l + BitVec.ofNat 32 (o.toNat * b)).toNat
  let va := fun s l => (readSrc64 s a l).toNat
  let off := fun s l => (readSrc s a l).toNat
  let k := if w = 1#1 then 8 else 4
  let v := if p = 12#4 then sourceBytes (d + BitVec.ofNat 8 (k / 4)) k else sourceBytes d k
  let none_ := fun _ _ => 0
  let any := fun _ : State => True
  let r := d.toNat
  [⟨.ld d a z o, .laneMem, false, false, .load z.toNat, none, b, byLane virt, none_, r, regsOfBytes r b, [], any⟩,
   ⟨.st d a z o, .laneMem, false, false, .store, none, b, byLane virt, sourceBytes d b, 0, [], [], any⟩,
   ⟨.lds d a z o, .laneMem, false, true, .load z.toNat, none, b, byLane pad, none_, r, regsOfBytes r b, [], any⟩,
   ⟨.sts d a z o, .laneMem, false, true, .store, none, b, byLane pad, sourceBytes d b, 0, [], [], any⟩,
   ⟨.ldc d a z o, .laneMem, false, true, .load z.toNat, some true, b, byLane pad, none_, r, regsOfBytes r b, [], any⟩,
   ⟨.stp d a z o, .laneMem, false, true, .store, some false, b, byLane pad, sourceBytes d b, 0, [], [], any⟩,
   ⟨.atom d a p w, .laneMem, false, false, .atomic p.toNat w.toNat true, none, k, byLane va, v, r, regsOfBytes r k, [], any⟩,
   ⟨.red d a p w, .laneMem, false, false, .atomic p.toNat w.toNat false, none, k, byLane va, v, r, [], [], any⟩,
   ⟨.atoms d a p w, .laneMem, false, true, .atomic p.toNat w.toNat true, none, k, byLane off, v, r, regsOfBytes r k, [], any⟩,
   ⟨.ldu d a z o, .control, true, false, .load z.toNat, none, b, fun s => [(0, virt s 0)], none_, r - 0x80, [],
     regsOfBytes (r - 0x80) b, any⟩,
   ⟨.stu d a z o, .control, true, false, .store, none, b, fun s => [(0, virt s 0)], sourceBytes d b, 0, [], [], any⟩,
   ⟨.ldrec d a (o.extractLsb' 0 3) n, .control, true, false, .words, none, 4,
     fun s => (List.range (n.toNat + 1)).map (fun j => (0, ((ctxWord s 0x500).toNat / 32 * 32 +
       2 ^ 32 * (ctxWord s 0x501).toNat + 32 * (readSrc s a 0).toNat + 4 * (o.extractLsb' 0 3).toNat + 4 * j) % 2 ^ 64)),
     none_, r - 0x80, [], (List.range (n.toNat + 1)).map (r - 0x80 + ·),
     fun s => (readSrc s a 0).toNat < (ctxWord s 0x502).toNat⟩]

/-- The events of an access: one of up to 8 bytes, or two of 8 (R116). -/
def eventsOf (n : Nat) (x : Nat → Nat) (q : Nat × Nat) : List (Nat × Nat × Nat × Nat) :=
  if n ≤ 8 then [(q.1, q.2, n, x q.1)] else [(q.1, q.2, 8, x q.1 % 2 ^ 64), (q.1, q.2 + 8, 8, x q.1 / 2 ^ 64)]

/-- What the translations of these addresses give, one after the other, for what the access does (R307, R312). -/
def translations (s : State) (k : MemKind) : Dev → List Nat → List Tr
  | _, [] => []
  | d, a :: as =>
    let r := translate d (fragAsker s) s.crew.ctx s.nfree (vaBits a) (kindWant k)
    r.1 :: translations s k r.2 as

/-- R252, R463: the cause with which a translation refuses the access: its own, or 0x03 of an atomic on a host line outside
CXL. -/
def refusal (s : State) (k : MemKind) (r : Tr) : Option Nat :=
  match r with
  | .trap c => some c
  | .ok pa _ => if isAtomic k = true ∧ paClass pa = 1 ∧ s.dev.host.cxl = 0 then some 0x03 else none
  | .wait => none
  | .miss _ => none

/-- Every one of these translations gives a place, and none refuses the access. -/
def allPlaced (s : State) (k : MemKind) (rs : List Tr) : Prop :=
  ∀ r ∈ rs, refusal s k r = none ∧ ∃ pa key, r = .ok pa key

/-- The addresses of an access's events. -/
def eventAddrs (x : Access) (u : State) : List Nat :=
  ((x.at_ u).flatMap (fun q => (List.range ((x.bytes + 7) / 8)).map (fun k => q.2 + 8 * k)))

/-- No written view of the crew's tiles lies at n bytes from any of these addresses on (R400). -/
def clearOfViews (s : State) (scratch : Bool) (as : List Nat) (n : Nat) : Prop :=
  ∀ x ∈ s.crew.tiles.nodes, isView x.2 = true → ∀ a ∈ as, meetsView x.2 (if scratch then 1 else 0, a, n) = false

/-- The access of these bytes is aligned (R252). -/
def alignedAt (x : Access) (q : Nat × Nat) : Prop := q.2 % x.bytes = 0

/-- The access lies in the crew's scratchpad allocation, or its address is canonical (R252). -/
def inBounds (s : State) (x : Access) (q : Nat × Nat) : Prop :=
  if x.scratch then q.2 + x.bytes ≤ s.crew.scratchSize else canonical (BitVec.ofNat 64 q.2) = true

/-- A watchpoint of the context matches the access (R332, R334). -/
def watched (s : State) (x : Access) (q : Nat × Nat) : Prop :=
  x.scratch = false ∧ s.frag.oneShot = false ∧
    watchHit s.dev s.crew.ctx q.2 x.bytes (kindWant x.kind).rd (kindWant x.kind).wr = true

/-- R33, R249 to R258, R263: an access instruction, admitted, with its flag's counter below 63, that passes R252's checks
issues: an operation that holds an event for each access, at its address with its data, none of them done, and that is to
write the destination registers; a lane access with EXEC empty only goes on; with the counter at 63 it waits. -/
def Obligations.AccessesIssue : Prop :=
  ∀ s d a z o p w n, ∀ x ∈ accesses d a z o p w n, Admitted x.i x.cls s →
    let u := latchClk s (uniformCodes x.i)
    (¬ FlagFree s → exec x.i s = .next { u with frag := { s.frag with status := .stalled } }) ∧
    (FlagFree s → x.scalar = false → s.frag.exec = 0#96 → exec x.i s = .next (advance u)) ∧
    (FlagFree s → (x.scalar = false → s.frag.exec ≠ 0#96) → x.ok u → (∀ q ∈ x.at_ u, alignedAt x q ∧ inBounds s x q ∧ ¬ watched s x q) →
      ((kindWant x.kind).wr = true → clearOfViews s x.scratch ((x.at_ u).map Prod.snd) x.bytes) →
      (x.scratch = false → allPlaced s x.kind (translations s x.kind s.dev (eventAddrs x u))) →
      ∃ t op m, exec x.i s = .next t ∧ Issued s t op ∧ ClockRead s t (uniformCodes x.i) ∧ op.body = .mem m ∧
        op.lanes = (if x.scalar then s.frag.lanes else s.frag.exec) ∧ op.dstV = x.dstV ∧ op.dstS = x.dstS ∧
        op.wrote = 0#96 ∧ m.kind = x.kind ∧ m.scratch = x.scratch ∧ m.scalar = x.scalar ∧ m.bits = x.bits ∧
        m.taken = false ∧ m.dst = x.dst ∧
        m.pieces.map (fun q => (q.lane, q.va, q.size, q.x.toNat)) = (x.at_ u).flatMap (eventsOf x.bytes (x.data u)) ∧
        (∀ q ∈ m.pieces, q.done = false ∧ q.parked = false ∧ q.pa.isSome = true ∧
          (isAtomic x.kind = true → q.c.toNat = sourceBytes d x.bytes u q.lane)) ∧
        (x.bits ≠ none → ∀ j, j ∈ m.lines ↔ ∃ q ∈ x.at_ u, j = q.2 / 128 ∨ j = (q.2 + x.bytes - 1) / 128))

/-- R252, R255, R463: the checks in their order, over all accesses, before any effect: the index of LDREC, 0x03; alignment,
0x07; the scratchpad allocation, 0x06, or canonical addresses, 0x05; the watchpoints, 0x0A; the translations, with the
cause of the first in lane order that refuses the access: 0x02, 0x03, and 0x03 of an atomic on a host line outside CXL; a
walk that consumes poison contains the crew with 0x04 (R307). -/
def Obligations.AccessesTrap : Prop :=
  ∀ s d a z o p w n, ∀ x ∈ accesses d a z o p w n, Admitted x.i x.cls s → FlagFree s →
    let u := latchClk s (uniformCodes x.i)
    let traps := fun cause => ∃ t, exec x.i s = .next t ∧ TrapsWith s t cause false ∧ t.crew.ops = s.crew.ops
    (¬ x.ok u → traps 0x03) ∧
    (x.ok u → (∃ q ∈ x.at_ u, ¬ alignedAt x q) → traps 0x07) ∧
    (x.ok u → (∀ q ∈ x.at_ u, alignedAt x q) → (∃ q ∈ x.at_ u, ¬ inBounds s x q) →
      traps (if x.scratch then 0x06 else 0x05)) ∧
    (x.ok u → (∀ q ∈ x.at_ u, alignedAt x q ∧ inBounds s x q) → (∃ q ∈ x.at_ u, watched s x q) → traps 0x0A) ∧
    (x.ok u → x.scratch = false → (∀ q ∈ x.at_ u, alignedAt x q ∧ inBounds s x q ∧ ¬ watched s x q) →
      ((kindWant x.kind).wr = true → clearOfViews s false ((x.at_ u).map Prod.snd) x.bytes) →
      ∀ cause, (translations s x.kind s.dev (eventAddrs x u)).findSome? (refusal s x.kind) = some cause →
        (cause ≠ 0x04 → traps cause) ∧
        (cause = 0x04 → ∃ t, exec x.i s = .next t ∧ t.crew = { s.crew with contained := some 0x04 } ∧ t.frag = s.frag ∧
          { t.wave with clkHi := none } = { s.wave with clkHi := none } ∧ ∀ a, byteAt t.dev a = byteAt s.dev a))

/-- Operation o of crew c is in flight, and its turn has come: no earlier access of its wave holds its lanes
(R115, R141). -/
structure EngineOp (s : State) (uid id : Nat) (c : Crew) (o : Op) : Prop where
  crew   : findCrew (stow s).dev uid = some c
  op     : findOp c id = some o
  runs   : c.state ≠ .saved
  status : o.status = .inflight
  turn   : heldLanes c.ops o &&& o.order = 0#96

/-- R30: operation o of crew c is complete in c': it is gone, its flag counts one less, and its results stand in the
registers listed, by 96·r + l and by scalar register; the other registers and waves stay. -/
structure Completed (c c' : Crew) (o : Op) (vs ss : List (Nat × Word)) : Prop where
  gone   : findOp c' o.id = none
  others : ∀ j, j ≠ o.id → (findOp c' j).isSome = (findOp c j).isSome
  wave   : ∀ w, findWave c o.wave = some w → ∃ w', findWave c' o.wave = some w' ∧
             (∀ k, flagOf w' k = flagOf w k - if o.flag = some k then 1 else 0) ∧
             (∀ k, tabGet 0#32 w'.v k = ((vs.find? (fun x => x.1 == k)).map Prod.snd).getD (tabGet 0#32 w.v k)) ∧
             (∀ k, tabGet 0#32 w'.s k = ((ss.find? (fun x => x.1 == k)).map Prod.snd).getD (tabGet 0#32 w.s k)) ∧
             w'.m = w.m ∧ w'.flg = w.flg ∧ w'.frags = w.frags ∧ w'.joins = w.joins
  waves  : ∀ j, j ≠ o.wave → findWave c' j = findWave c j

/-- The words an access reads into a lane's registers, from the x its bytes make (R250, R255, R258). -/
def wordsRead (k : MemKind) (x : Nat) : List Word :=
  let words := fun n => (List.range n).map (fun i => BitVec.ofNat 32 (x / 2 ^ (32 * i)))
  match k with
  | .load 1 => [BitVec.ofNat 32 (x % 256)]
  | .load 2 => [BitVec.ofInt 32 (BitVec.ofNat 8 x).toInt]
  | .load 3 => [BitVec.ofNat 32 (x % 65536)]
  | .load 4 => [BitVec.ofInt 32 (BitVec.ofNat 16 x).toInt]
  | .load 5 => words 2
  | .load 6 => words 4
  | .load _ => words 1
  | .words => words 1
  | .atomic _ 0 true => words 1
  | .atomic _ _ true => words 2
  | .atomic _ _ false => []
  | .store => []

/-- The number a lane's events read. -/
def assembled (ps : List Piece) (l : Nat) : Nat :=
  ((ps.filter (fun q => q.lane == l)).map (fun q => q.x.toNat % 2 ^ (8 * q.size) * 2 ^ (8 * q.off))).sum

/-- What an event leaves at its location: the data of a store, the new value of an atomic, else what stood there. -/
def leaves (k : MemKind) (p : Piece) (old : Nat) : Nat :=
  match k with
  | .store => p.x.toNat
  | .atomic op _ _ => (atomicNew op p.size (BitVec.ofNat 64 old) p.x p.c).toNat
  | .load _ => old
  | .words => old

/-- R30, R114, R146, R180, R250, R253 to R258: the last event of an access takes its place at its location, in memory or in
the scratchpad: a load reads it, a store writes its bytes, an atomic does both; the access is then complete, its lane's or
scalar registers hold what was read, unless the lane has left, and every other byte is as it was. -/
def Obligations.AccessCompletes : Prop :=
  ∀ s uid id c o m pre p post a, EngineOp s uid id c o → o.body = .mem m → (m.kind = .words → m.scalar = true) → m.pieces = pre ++ p :: post →
    (∀ q ∈ pre ++ post, pieceOpen q = false ∧ (q.lane = p.lane ∨ q.skip = true ∨ o.wrote.getLsbD q.lane = true)) →
    pieceOpen p = true → p.parked = false → p.inHub = false → p.window = false → 0 < p.size → p.size ≤ 8 →
    o.wrote.getLsbD p.lane = false → p.lane < 96 → (m.scalar = false → o.order.getLsbD p.lane = true) →
    o.taintV = [] → o.taintS = [] → o.srcTaint = false → (m.bits = none ∨ m.taken = true) →
    (m.scratch = false → p.pa = some a ∧ keyWaits s.dev p.key = false ∧
      (∀ i < p.size, linePoisoned s.dev ((a + i) / 128) = false) ∧
      (isAtomic m.kind = true → paClass a = 1 → s.dev.host.cxl ≠ 0)) →
    (m.scratch = true → p.va = a) →
    let placed := fun t : State => ∃ c', findCrew t.dev uid = some c' ∧
      let bytes := if m.scratch then scratchBytes c a p.size else bytesAt s.dev a p.size
      let old := natLE bytes
      let x := BitVec.ofNat 64 (if m.kind = .store then 0 else old)
      let q := { p with x := x, done := true }
      let ps := pre ++ q :: post
      let new := leaves m.kind p old
      Completed c c' o
        (if m.scalar || !laneAlive c o.wave p.lane then [] else (wordsRead m.kind (assembled ps p.lane)).mapIdx (fun k w => (96 * (m.dst + k) + p.lane, w)))
        (if m.scalar then (if m.kind = .words then ps.mapIdx (fun k r => (m.dst + k, r.x.setWidth 32))
          else (wordsRead m.kind (assembled ps 0)).mapIdx (fun k w => (m.dst + k, w))) else []) ∧
      (∀ b, byteAt t.dev b = if m.scratch = false ∧ a ≤ b ∧ b < a + p.size then BitVec.ofNat 8 (new / 256 ^ (b - a)) else byteAt s.dev b) ∧
      (∀ b, tabGet 0#8 c'.scratch b = if m.scratch = true ∧ a ≤ b ∧ b < a + p.size then BitVec.ofNat 8 (new / 256 ^ (b - a))
        else tabGet 0#8 c.scratch b)
    (∃ t, exec (.loadComplete uid id) s = .next t ∧ placed t) ∧ ∃ t, exec (.storeComplete uid id) s = .next t ∧ placed t

/-- R145: an access but a store whose next event meets a poisoned line contains the crew with cause 0x04, with no effect
of that event. -/
def poisonContains : Prop :=
  ∀ s uid id c o m a p rest, EngineOp s uid id c o → o.body = .mem m → m.pieces = p :: rest → pieceReady (heldLanes c.ops o) o m p = true →
    m.scratch = false → m.kind ≠ .store → p.window = false → p.pa = some a → keyWaits s.dev p.key = false →
    (isAtomic m.kind = true → paClass a = 1 → s.dev.host.cxl ≠ 0) → linePoisoned s.dev (a / 128) = true →
    exec (.loadComplete uid id) s =
      .next { stow s with dev := updCrew (stow s).dev uid (fun _ => { c with contained := some 0x04 }) }

/-- R129, R263, R264, R284: tested again, a waiting LDC or STP whose lines all are full, or all empty, and none of which a
copy has taken, takes them, its bytes and the lines' change in one step: LDC's registers hold what the scratchpad held,
STP's bytes stand there, and the lines are empty, or full; otherwise nothing changes. -/
def linesTaken : Prop :=
  ∀ s uid id c o m b, EngineOp s uid id c o → o.body = .mem m → m.bits = some b → m.taken = false → m.scratch = true →
    m.scalar = false → o.taintV = [] → o.srcTaint = false → o.wrote = 0#96 → m.pieces ≠ [] →
    (if b then ∃ z, m.kind = .load z else m.kind = .store) →
    (∀ p ∈ m.pieces, pieceOpen p = true ∧ 0 < p.size ∧ p.size ≤ 8 ∧ p.lane < 96) →
    m.pieces.Pairwise (fun p q => p.va + p.size ≤ q.va ∨ q.va + q.size ≤ p.va) →
    ((∃ l ∈ m.lines, lineFull c l ≠ b ∨ ∃ e ∈ c.ops, takesLine e l = true) →
      exec (.fullEmptyRetest uid id) s = .next (stow s)) ∧
    ((∀ l ∈ m.lines, lineFull c l = b ∧ ∀ e ∈ c.ops, takesLine e l = false) →
      ∃ t c', exec (.fullEmptyRetest uid id) s = .next t ∧ findCrew t.dev uid = some c' ∧
        let ps := m.pieces.map (fun p => { p with x := BitVec.ofNat 64 (natLE (scratchBytes c p.va p.size)), done := true })
        Completed c c' o ((m.pieces.filter (fun p => laneAlive c o.wave p.lane)).flatMap (fun p =>
          (wordsRead m.kind (assembled ps p.lane)).mapIdx (fun k w => (96 * (m.dst + k) + p.lane, w)))) [] ∧
        (∀ l, lineFull c' l = if l ∈ m.lines then !b else lineFull c l) ∧
        (∀ a, (∀ p ∈ m.pieces, a < p.va ∨ p.va + p.size ≤ a) → tabGet 0#8 c'.scratch a = tabGet 0#8 c.scratch a) ∧
        (∀ p ∈ m.pieces, ∀ i < p.size, tabGet 0#8 c'.scratch (p.va + i) =
          if b then tabGet 0#8 c.scratch (p.va + i) else BitVec.ofNat 8 (p.x.toNat / 256 ^ i)) ∧
        ∀ a, byteAt t.dev a = byteAt s.dev a)

/-- R133, R134, R259, R488: a hub delivers a combination as one read-modify-write at its home, unless the key of its page is
being installed; the events of the reductions combined in it have then taken their places: an operation none of whose
events is open any more is complete and gone, its flag counting one less, and of the others those events are done. -/
def hubDelivers : Prop :=
  ∀ s j, ((stow s).dev.hubs[j]? = none → exec (.hubFlush j) s = .next (stow s)) ∧
    ∀ h, (stow s).dev.hubs[j]? = some h →
    (keyWaits s.dev h.key = true → exec (.hubFlush j) s = .next (stow s)) ∧
    (keyWaits s.dev h.key = false → (∀ i < 4 * (h.w + 1), linePoisoned s.dev ((h.pa + i) / 128) = false) →
    ∃ t, exec (.hubFlush j) s = .next t ∧
      (let n := 4 * (h.w + 1)
       let new := (atomicNew h.op n (BitVec.ofNat 64 (natAt s.dev h.pa n)) h.val 0).toNat
       ∀ a, byteAt t.dev a = if h.pa ≤ a ∧ a < h.pa + n then BitVec.ofNat 8 (new / 256 ^ (a - h.pa)) else byteAt s.dev a) ∧
      ∀ c o m, (∃ x ∈ h.members, x.1 = c.uid ∧ x.2.1 = o.id) → findCrew (stow s).dev c.uid = some c →
        findOp c o.id = some o → memOf o = some m →
        let ps := m.pieces.map (fun p =>
          if p.inHub && h.members.contains (c.uid, o.id, p.lane, p.off) then { p with done := true, inHub := false } else p)
        ∃ c', findCrew t.dev c.uid = some c' ∧
          ((∃ p ∈ ps, pieceOpen p = true) → ∃ o' m', findOp c' o.id = some o' ∧ memOf o' = some m' ∧ m'.pieces = ps) ∧
          ((∀ p ∈ ps, pieceOpen p = false) → findOp c' o.id = none ∧
            ∀ w, findWave c o.wave = some w → (∀ x ∈ h.members, x.1 = c.uid → x.2.1 = o.id) →
              ∃ w', findWave c' o.wave = some w' ∧ ∀ k, flagOf w' k = flagOf w k - if o.flag = some k then 1 else 0))

/-- R129, R133, R134, R145, R259, R263, R264: full/empty lines, poison, and the hubs of the fabric. -/
def Obligations.MemoryEvents : Prop := linesTaken ∧ poisonContains ∧ hubDelivers

/-! ### Barriers and fences -/

/-- What a barrier instruction leaves as it was: all but the object's 16 bytes, the wave's enrolments and masks. -/
structure BarKept (s t : State) (o : Nat) : Prop where
  dev     : t.dev = s.dev
  bytes   : ∀ a, a < o ∨ o + 16 ≤ a → tabGet 0#8 t.crew.scratch a = tabGet 0#8 s.crew.scratch a
  crew    : { t.crew with scratch := [], shist := [], shistSeq := 0 } = { s.crew with scratch := [], shist := [], shistSeq := 0 }
  wave    : { t.wave with enrol := [], m := [], clkHi := none } = { s.wave with enrol := [], m := [], clkHi := none }
  outside : t.active = s.active ∧ t.agenda = s.agenda ∧ t.clk = s.clk ∧ t.nfree = s.nfree

/-- R267: try_complete. -/
def completedPhase (b : Bar) : Bar :=
  if b.penda = 0 ∧ b.pendb = 0 then { b with phase := (b.phase + 1) % 256, penda := b.expa, pendb := b.expb } else b

/-- An enrolment of this object says the phase p (R269). -/
def withEnrolment (l : List (Nat × Nat)) (o p : Nat) : List (Nat × Nat) := l.map (fun e => if e.1 = o then (o, p) else e)

/-- The object at o may be acted on (R267): aligned, in the allocation, and valid; and no access of the fragment's lanes
is before it (R115, R125). -/
structure BarReady (s : State) (o : Nat) : Prop where
  order : pendingFor s.crew.ops s.wave.idx s.frag.lanes = false
  align : o % 16 = 0
  room  : o + 16 ≤ s.crew.scratchSize
  valid : (barAt s.crew o).valid = true

/-- R266 to R270: BAR's updates of the object A names, as one event each, all else kept. -/
def Obligations.BarrierUpdates : Prop :=
  ∀ s a b,
    (∀ i, i = Instr.barInit a b → Admitted i .control s →
      let u := latchClk s (uniformCodes i)
      let o := (readSrc u a 0).toNat
      let x := (readS s (b.toNat - 0x80)).toNat
      let y := (readS s (b.toNat - 0x80 + 1)).toNat
      pendingFor s.crew.ops s.wave.idx s.frag.lanes = false → o % 16 = 0 → o + 16 ≤ s.crew.scratchSize →
      x ≤ 65535 → y ≤ 16777215 → (x ≠ 0 ∨ y ≠ 0) →
      ∃ t, exec i s = .next t ∧ BarKept s t o ∧ GoesOn s t ∧ t.wave.enrol = s.wave.enrol ∧ t.wave.m = s.wave.m ∧
        barAt t.crew o = { expa := x, penda := x, expb := y, pendb := y, phase := 0, valid := true, err := false,
                           rsv := (barAt s.crew o).rsv }) ∧
    (∀ i ∈ [Instr.barArrive a b, .barExpect a b, .barArrivex a b], Admitted i .control s →
      let u := latchClk s (uniformCodes i)
      let o := (readSrc u a 0).toNat
      let x := (readSrc u b 0).toNat
      let old := barAt s.crew o
      let bytes := if i = .barArrive a b then 0 else x
      let n := if i = .barArrive a b then x else if i = .barExpect a b then 0 else 1
      BarReady s o → (i = .barArrive a b → 1 ≤ x ∧ x ≤ 65535) → (i ≠ .barArrive a b → x ≤ 16777215) → n ≤ old.penda →
      old.pendb + bytes < 2 ^ 31 →
      ∃ t, exec i s = .next t ∧ BarKept s t o ∧ GoesOn s t ∧ t.wave.m = s.wave.m ∧
        t.wave.enrol = (if i = .barExpect a b then s.wave.enrol else withEnrolment s.wave.enrol o old.phase) ∧
        barAt t.crew o = completedPhase { old with penda := old.penda - n, pendb := old.pendb + bytes }) ∧
    (Admitted (.barEnroll a) .control s →
      let o := (readSrc (latchClk s [a]) a 0).toNat
      BarReady s o → (s.wave.enrol.length < 4 ∨ ∃ e ∈ s.wave.enrol, e.1 = o) →
      ∃ t, exec (.barEnroll a) s = .next t ∧ BarKept s t o ∧ GoesOn s t ∧ t.wave.m = s.wave.m ∧ t.crew = s.crew ∧
        t.wave.enrol = if (∃ e ∈ s.wave.enrol, e.1 = o) then s.wave.enrol
          else s.wave.enrol ++ [(o, ((barAt s.crew o).phase + 255) % 256)]) ∧
    (Admitted (.barDrop a) .control s →
      let o := (readSrc (latchClk s [a]) a 0).toNat
      let old := barAt s.crew o
      let less := { old with expa := old.expa - 1 }
      let arrived := completedPhase { less with penda := old.penda - 1 }
      BarReady s o → 1 ≤ old.expa →
      (∀ p, s.wave.enrol.find? (fun e => e.1 == o) = some (o, p) →
        ∃ t, exec (.barDrop a) s = .next t ∧ BarKept s t o ∧ GoesOn s t ∧ t.wave.m = s.wave.m ∧
          t.wave.enrol = s.wave.enrol.filter (fun e => e.1 != o) ∧
          barAt t.crew o = if p ≠ old.phase ∧ 0 < old.penda then arrived else less) ∧
      ((∀ e ∈ s.wave.enrol, e.1 ≠ o) → 1 ≤ old.penda →
        ∃ t, exec (.barDrop a) s = .next t ∧ BarKept s t o ∧ GoesOn s t ∧ t.wave.m = s.wave.m ∧
          t.wave.enrol = s.wave.enrol ∧ barAt t.crew o = arrived)) ∧
    (Admitted (.barInval a) .control s →
      let o := (readSrc (latchClk s [a]) a 0).toNat
      BarReady s o →
      ∃ t, exec (.barInval a) s = .next t ∧ GoesOn s t ∧ t.dev = s.dev ∧ t.wave.v = s.wave.v ∧ t.wave.s = s.wave.s ∧
        t.wave.m = s.wave.m ∧ t.wave.flg = s.wave.flg ∧ t.wave.f = s.wave.f ∧
        barAt t.crew o = { barAt s.crew o with valid := false } ∧
        (∀ x, x < o ∨ o + 16 ≤ x → tabGet 0#8 t.crew.scratch x = tabGet 0#8 s.crew.scratch x) ∧
        ∀ w ∈ t.wave :: t.crew.waves, (∀ e ∈ w.enrol, e.1 ≠ o) ∧
          ∀ f ∈ w.frags, ∀ p n, f.status ≠ .blocked (.barrier o p) ∧ f.status ≠ .blocked (.barrierT o p n))

/-- A mask report (R267): all of mF or none of it, within the fragment's lanes. -/
def reportsMask (s t : State) (m : BitVec 3) (yes : Bool) : Prop :=
  readM t m.toNat = (if yes then s.frag.lanes else 0#96) ||| (readM s m.toNat &&& ~~~ s.frag.lanes) ∧
  SameMasks s t [m.toNat] ∧ GoesOn s t

/-- R266, R267: WAIT goes on when phase p is complete, else it blocks; WAITT also gives up after its clocks, at once with
0, and TEST never waits; WAITT and TEST report in mF.  A wait that was released goes on. -/
def barrierWaits : Prop :=
  ∀ s m a b, ∀ i ∈ [Instr.barWait a b, .barWaitt m a b, .barTest m a b], Admitted i .control s →
    let u := latchClk s (uniformCodes i)
    let o := (readSrc u a 0).toNat
    let p := if i = .barWaitt m a b then (readS s (b.toNat - 0x80)).toNat else (readSrc u b 0).toNat
    let n := (readS s (b.toNat - 0x80 + 1)).toNat
    let ahead := ((barAt s.crew o).phase + 256 - p) % 256
    let answers := fun yes => ∃ t, exec i s = .next t ∧ BarKept s t o ∧ t.crew = s.crew ∧ t.wave.enrol = s.wave.enrol ∧
      (if i = .barWait a b then GoesOn s t ∧ t.wave.m = s.wave.m else reportsMask s t m yes)
    BarReady s o →
      (s.frag.resume = .fresh → p ≤ 255 →
        (1 ≤ ahead → ahead ≤ 128 → answers true) ∧
        (129 ≤ ahead → exec i s = .next (takeTrap u 0x08 false)) ∧
        (ahead = 0 →
          (i = .barWait a b → exec i s = .next { u with frag := { s.frag with status := .blocked (.barrier o p), resume := .fresh } }) ∧
          (i = .barWaitt m a b → n ≠ 0 →
            exec i s = .next { u with frag := { s.frag with status := .blocked (.barrierT o p (s.clk + n)), resume := .fresh } }) ∧
          (i = .barTest m a b ∨ i = .barWaitt m a b ∧ n = 0 → answers false))) ∧
      (s.frag.resume = .released → i ≠ .barTest m a b → answers true) ∧
      (s.frag.resume = .timedOut → i = .barWaitt m a b → answers false) ∧
      (s.frag.resume = .broken → i ≠ .barTest m a b → exec i s = .next (takeTrap u 0x08 false))

/-- R33, R115, R191, R267, R269: what stops a BAR instruction: an access of its lanes that has not taken its place holds it at
issue, WAIT and WAITT Blocked, which counts as yielded, the others merely waiting; an offset that is no multiple of 16 traps 0x07, one beyond the allocation 0x06, an object that is not valid
0x08, INIT apart. -/
def barrierChecks : Prop :=
  ∀ s m a b, s.frag.resume = .fresh →
    ∀ i ∈ [Instr.barInit a b, .barArrive a b, .barExpect a b, .barArrivex a b, .barWait a b, .barWaitt m a b, .barTest m a b,
        .barEnroll a, .barDrop a, .barInval a], Admitted i .control s →
      let u := latchClk s (uniformCodes i)
      let o := (readSrc u a 0).toNat
      let second := match i with
        | .barInit _ _ => (readS s (b.toNat - 0x80)).toNat ≠ 0 ∧ (readS s (b.toNat - 0x80)).toNat ≤ 65535 ∧
            (readS s (b.toNat - 0x80 + 1)).toNat ≤ 16777215
        | .barWaitt _ _ _ => (readS s (b.toNat - 0x80)).toNat ≤ 255
        | .barEnroll _ => True
        | .barDrop _ => True
        | .barInval _ => True
        | _ => 1 ≤ (readSrc u b 0).toNat ∧ (readSrc u b 0).toNat ≤ 255
      (pendingFor s.crew.ops s.wave.idx s.frag.lanes = true →
        exec i s = .next { u with frag := if i = .barWait a b ∨ i = .barWaitt m a b
          then { s.frag with status := .blocked .earlier, resume := .fresh } else { s.frag with status := .stalled } }) ∧
      (pendingFor s.crew.ops s.wave.idx s.frag.lanes = false → second →
        (o % 16 ≠ 0 → exec i s = .next (takeTrap u 0x07 false)) ∧
        (o % 16 = 0 → s.crew.scratchSize < o + 16 → exec i s = .next (takeTrap u 0x06 false)) ∧
        (o % 16 = 0 → o + 16 ≤ s.crew.scratchSize → (barAt s.crew o).valid = false → i ≠ .barInit a b →
          exec i s = .next (takeTrap u 0x08 false)))

/-- R266, R267, R269: an operand beyond its range, an arrival beyond those awaited, a wait 129 to 255 phases on and a
fifth enrolment are illegal, with no effect. -/
def barrierRefusals : Prop :=
  ∀ s m a b, s.frag.resume = .fresh → pendingFor s.crew.ops s.wave.idx s.frag.lanes = false →
    ∀ i ∈ [Instr.barInit a b, .barArrive a b, .barExpect a b, .barArrivex a b, .barWait a b, .barWaitt m a b, .barTest m a b,
        .barEnroll a, .barDrop a], Admitted i .control s →
      let u := latchClk s (uniformCodes i)
      let o := (readSrc u a 0).toNat
      let x := (readSrc u b 0).toNat
      let low := (readS s (b.toNat - 0x80)).toNat
      let high := (readS s (b.toNat - 0x80 + 1)).toNat
      let old := barAt s.crew o
      let range := match i with
        | .barInit _ _ => 65535 < low ∨ 16777215 < high ∨ low = 0 ∧ high = 0
        | .barArrive _ _ => x = 0 ∨ 65535 < x
        | .barExpect _ _ => 16777215 < x
        | .barArrivex _ _ => 16777215 < x
        | .barWait _ _ => 255 < x
        | .barWaitt _ _ _ => 255 < low
        | .barTest _ _ _ => 255 < x
        | _ => False
      let excess := match i with
        | .barArrive _ _ => x ≤ 65535 ∧ old.penda < x
        | .barArrivex _ _ => x ≤ 16777215 ∧ old.penda = 0
        | .barWait _ _ => x ≤ 255 ∧ 129 ≤ (old.phase + 256 - x) % 256
        | .barWaitt _ _ _ => low ≤ 255 ∧ 129 ≤ (old.phase + 256 - low) % 256
        | .barTest _ _ _ => x ≤ 255 ∧ 129 ≤ (old.phase + 256 - x) % 256
        | .barEnroll _ => 4 ≤ s.wave.enrol.length ∧ ∀ e ∈ s.wave.enrol, e.1 ≠ o
        | .barDrop _ => old.penda = 0 ∧ ∀ e ∈ s.wave.enrol, e.1 ≠ o
        | _ => False
      (range → exec i s = .next (takeTrap u 0x08 false)) ∧ (BarReady s o → excess → exec i s = .next (takeTrap u 0x08 false))

/-- R267: BAR.WAIT, WAITT and TEST complete when the phase named lies 1 to 128 behind that of the object: WAIT only goes
on, WAITT and TEST also set mF to the fragment's lanes; TEST, and WAITT with no clocks to wait, also complete on the
phase that goes on, with mF's lanes clear. -/
def waitsComplete : Prop :=
  ∀ s m a b,
    let behind := fun (o p : Nat) => ((barAt s.crew o).phase + 256 - p) % 256
    (Admitted (.barWait a b) .control s → s.frag.resume = .fresh →
      let u := latchClk s [a, b]
      BarReady s (readSrc u a 0).toNat → (readSrc u b 0).toNat ≤ 255 →
      1 ≤ behind (readSrc u a 0).toNat (readSrc u b 0).toNat → behind (readSrc u a 0).toNat (readSrc u b 0).toNat ≤ 128 →
      exec (.barWait a b) s = .next (advance u)) ∧
    (Admitted (.barWaitt m a b) .control s → s.frag.resume = .fresh →
      let u := latchClk s [a]
      let p := (readS s (b.toNat - 0x80)).toNat
      BarReady s (readSrc u a 0).toNat → p ≤ 255 → behind (readSrc u a 0).toNat p ≤ 128 →
      (behind (readSrc u a 0).toNat p = 0 → readS s (b.toNat - 0x80 + 1) = 0#32) →
      ∃ t, exec (.barWaitt m a b) s = .next t ∧ reportsMask s t m (behind (readSrc u a 0).toNat p ≠ 0) ∧
        BarKept s t (readSrc u a 0).toNat ∧ t.crew = s.crew) ∧
    (Admitted (.barTest m a b) .control s →
      let u := latchClk s [a, b]
      BarReady s (readSrc u a 0).toNat → (readSrc u b 0).toNat ≤ 255 →
      behind (readSrc u a 0).toNat (readSrc u b 0).toNat ≤ 128 →
      ∃ t, exec (.barTest m a b) s = .next t ∧
        reportsMask s t m (behind (readSrc u a 0).toNat (readSrc u b 0).toNat ≠ 0) ∧
        BarKept s t (readSrc u a 0).toNat ∧ t.crew = s.crew)

/-- R33, R115, R266, R267, R269: waiting on a barrier object, what its instructions check, and where they complete. -/
def Obligations.BarrierWaiting : Prop := barrierWaits ∧ barrierChecks ∧ barrierRefusals ∧ waitsComplete

/-- The phase, the arrivals awaited and the arrivals per crew of a patch barrier, when it has an entry. -/
def pbarAt (d : Dev) (job : DWord) (w : Word) (k : Nat) : Option (Nat × Nat × Nat) :=
  (d.pbars.find? (fun e => e.job == job && e.patch == w && e.index == k)).map (fun e => (e.phase, e.pending, e.n))

/-- R176, R177: PBAR on a patch of the job that holds the core: the entry, made at its first touch, counts ARRIVE, and at
the last awaited arrival begins its next phase; WAIT goes on or blocks and TEST reports as a barrier's do; every other
entry keeps its phase and count.  A patch or selector that R175 or R176 refuses, and a wait on a phase too far on, is an
illegal instruction, before any effect. -/
def patchBarriers : Prop :=
  ∀ s m a b, pendingFor s.crew.ops s.wave.idx s.frag.lanes = false → s.frag.resume = .fresh →
    let w := readS s (a.toNat - 0x80)
    let sel := (readS s (b.toNat - 0x80)).toNat
    let k := sel % 256
    let n := sel / 256 % 256
    let p := sel / 65536 % 256
    let need := 2 ^ (w.toNat / 2048 % 8 + w.toNat / 16384 % 8) * n
    let now := (pbarAt s.dev s.crew.job w k).getD (0, need, n)
    let good := patchOk w (jobHere s).card s.crew.cx s.crew.cy = true ∧ n ≠ 0 ∧ sel < 2 ^ 24
    let ahead := (now.1 + 256 - p) % 256
    let touched := fun (d : Dev) (e : Nat × Nat × Nat) => pbarAt d s.crew.job w k = some e ∧
      (∀ j x y, ¬ (j = s.crew.job ∧ x = w ∧ y = k) → pbarAt d j x y = pbarAt s.dev j x y) ∧
      { d with pbars := [] } = { s.dev with pbars := [] }
    ∀ i ∈ [Instr.pbarArrive a b, .pbarWait a b, .pbarTest m a b], Admitted i .control s →
      (¬ good → exec i s = .next (takeTrap s 0x08 false)) ∧
      (good → i = .pbarArrive a b → ∃ d, exec i s = .next (advance { s with dev := d }) ∧
        touched d (if now.2.1 = 1 then
          ((now.1 + 1) % 256, 2 ^ (w.toNat / 2048 % 8 + w.toNat / 16384 % 8) * now.2.2, now.2.2)
          else (now.1, now.2.1 - 1, now.2.2))) ∧
      (good → i = .pbarWait a b → 129 ≤ ahead → exec i s = .next (takeTrap s 0x08 false)) ∧
      (good → i ≠ .pbarArrive a b → (i = .pbarWait a b → ahead ≤ 128) → ∃ d, touched d now ∧
        let u := { s with dev := d }
        (i = .pbarTest m a b → ∃ t, exec i s = .next t ∧ reportsMask s t m (decide (1 ≤ ahead ∧ ahead ≤ 128)) ∧ t.dev = d ∧
          t.crew = s.crew ∧ { t.wave with m := [] } = { s.wave with m := [] }) ∧
        (1 ≤ ahead → i = .pbarWait a b → exec i s = .next (advance u)) ∧
        (ahead = 0 → i = .pbarWait a b → exec i s = .next { u with frag := { s.frag with
          status := .blocked (.patch (w.toNat % 64) (w.toNat / 64 % 32) (w.toNat / 2048 % 8) (w.toNat / 16384 % 8) k p),
          resume := .fresh } }))

/-- R271, R272, R51: FENCE.OPC empties the crew's operand cache, FENCE.IFETCH lets the wave's later fetches see every
write before it, and FENCE.ASYNC goes on when no asynchronous operation of the fragment is left, and else waits.  The
operations of the fragment are those of its wave whose lanes it shares (DEDUCED, assumption 13; R271 says those it has
issued). -/
def fences : Prop :=
  ∀ s,
    (Admitted .fenceOpc .control s →
      exec .fenceOpc s =
        .next { s with crew := { s.crew with opcGen := s.crew.opcGen + 1 }, frag := pastParcels s.frag (curParcels s.frag) s.clk }) ∧
    (∀ c o m e, e ∈ opcHits c o m → e.gen = m.gen) ∧
    (Admitted .fenceIfetch .control s → ∃ t, exec .fenceIfetch s = .next t ∧ GoesOn s t ∧ t.dev = s.dev ∧ t.crew = s.crew ∧
      t.wave.fetchMark = s.dev.histSeq ∧ { t.wave with fetchMark := 0, frags := [] } = { s.wave with fetchMark := 0, frags := [] } ∧
      t.wave.frags.map (fun f => { f with latched := false }) = s.wave.frags.map (fun f => { f with latched := false }) ∧
      ∀ f ∈ t.wave.frags, f.parcel = 63 → f.latched = false) ∧
    (Admitted .fenceAsync .control s → s.frag.trapMode = true ∨ (∀ o ∈ s.crew.ops, ∀ k, o.status ≠ .late k) →
      ((∀ o ∈ s.crew.ops, o.wave = s.wave.idx → opAsync o = true → o.order &&& s.frag.lanes = 0#96) →
        exec .fenceAsync s = .next (advance s)) ∧
      ((∃ o ∈ s.crew.ops, o.wave = s.wave.idx ∧ opAsync o = true ∧ o.order &&& s.frag.lanes ≠ 0#96) →
        exec .fenceAsync s = .next { s with frag := { s.frag with status := .waiting } }))

/-- R51, R175 to R177, R271, R272: patch barriers and fences. -/
def Obligations.PatchBarriersAndFences : Prop := patchBarriers ∧ fences

/-! ### Copies -/

/-- The bytes from the first row's start to the last row's end (R277). -/
def rowsEnd (rows bytes stride : Nat) : Nat := if rows = 0 then 0 else (rows - 1) * stride + bytes

/-- Word j of a command block. -/
def wordOf (b : List Word) (j : Nat) : Nat := (b.getD j 0#32).toNat

/-- SRC and DST of a CPY block: with SS or DS the pair's low word (R275). -/
def copyEnds (f : Nat) (b : List Word) : Nat × Nat :=
  (if f.testBit 0 then wordOf b 0 else wordOf b 0 + 2 ^ 32 * wordOf b 1,
   if f.testBit 1 then wordOf b 2 else wordOf b 2 + 2 ^ 32 * wordOf b 3)

/-- The output bound of an XFORM (R281). -/
def outputBound (b : List Word) : Nat := if wordOf b 6 % 256 = 5 then wordOf b 4 else wordOf b 7

/-- The source and destination ranges that the block of form k (0 LIN, 1 TILE, 2 GATHER, 3 SCATTER, 4 XFORM, 5 FILL) names:
whether it lies in the scratchpad, its start and its bytes (R275, R277); the base of GATHER's source and of SCATTER's destination
names none (the model's choice, assumption 48), and an empty range names the place where it starts (assumption 58). -/
def copyRanges (k f : Nat) (b : List Word) : List (Bool × Nat × Nat) :=
  let rows := wordOf b 4 / 65536
  let rb := wordOf b 4 % 65536
  let n := match k with
    | 1 => [(0, rowsEnd rows rb (wordOf b 6)), (1, rowsEnd rows rb (wordOf b 7))]
    | 2 => [(1, wordOf b 7 * wordOf b 4)]
    | 3 => [(0, wordOf b 7 * wordOf b 4)]
    | 4 => [(0, wordOf b 4), (1, outputBound b)]
    | 5 => [(1, wordOf b 4)]
    | _ => [(0, wordOf b 4), (1, wordOf b 4)]
  n.map (fun x => if x.1 = 0 then (f.testBit 0, (copyEnds f b).1, x.2) else (f.testBit 1, (copyEnds f b).2, x.2))

/-- R275, R277: words 4 and 7 within their limits. -/
def copyLimits (k : Nat) (b : List Word) : Prop :=
  match k with
  | 1 => wordOf b 4 % 65536 ≠ 0 ∧ wordOf b 4 / 65536 * (wordOf b 4 % 65536) ≤ 16777215
  | 2 => wordOf b 4 ∈ [1, 2, 4, 8, 16, 32, 64, 128] ∧ wordOf b 7 ≤ 4096
  | 3 => wordOf b 4 ∈ [1, 2, 4, 8, 16, 32, 64, 128] ∧ wordOf b 7 ≤ 4096
  | _ => wordOf b 4 ≤ 16777215

/-- R277, R284: the barrier's offset, the bases and the index array of GATHER and SCATTER, and with P whole lines. -/
def copyAligned (k f : Nat) (b : List Word) : Prop :=
  (f.testBit 3 = true → wordOf b 5 % 16 = 0) ∧
  (k = 2 ∨ k = 3 → (copyEnds f b).1 % wordOf b 4 = 0 ∧ (copyEnds f b).2 % wordOf b 4 = 0 ∧ wordOf b 6 % 4 = 0) ∧
  (f.testBit 2 = true → (copyEnds f b).2 % 128 = 0 ∧
    (k = 0 ∨ k = 5 → wordOf b 4 % 128 = 0) ∧ (k = 1 → wordOf b 7 % 128 = 0 ∧ wordOf b 4 % 65536 % 128 = 0) ∧
    (k = 2 → wordOf b 7 * wordOf b 4 % 128 = 0) ∧ (k = 4 → outputBound b % 128 = 0))

/-- R277: every range in memory is canonical at both ends and does not wrap. -/
def copyCanonical (k f : Nat) (b : List Word) : Prop :=
  ∀ r ∈ copyRanges k f b, r.1 = false → r.2.1 + (r.2.2 - 1) < 2 ^ 64 ∧ canonical (BitVec.ofNat 64 r.2.1) = true ∧
    canonical (BitVec.ofNat 64 (r.2.1 + (r.2.2 - 1))) = true

/-- R277: every range in the scratchpad lies below SCRATCH: source or destination, barrier, index array, status word. -/
def copyInside (s : State) (k f : Nat) (b : List Word) : Prop :=
  (∀ r ∈ copyRanges k f b, r.1 = true → r.2.1 + r.2.2 ≤ s.crew.scratchSize) ∧
  (f.testBit 3 = true → wordOf b 5 + 16 ≤ s.crew.scratchSize) ∧
  (k = 2 ∨ k = 3 → wordOf b 6 + 4 * wordOf b 7 ≤ s.crew.scratchSize) ∧
  (k = 4 → wordOf b 6 / 4096 ≠ 0xFFFFF → 8 * (wordOf b 6 / 4096) + 8 ≤ s.crew.scratchSize)

/-- R277's checks all pass. -/
def copyAccepts (s : State) (k f : Nat) (b : List Word) : Prop :=
  copyLimits k b ∧ copyAligned k f b ∧ copyCanonical k f b ∧ copyInside s k f b

/-- R274 to R278, R282, R283, R286, R289: a copy, admitted, reads its block of eight registers; the first of R277's
checks that fails is its trap; a command with nothing to move only goes on; with no queue entry free it waits; else it
issues, holding its block with no unit done, and joins the unsealed copies of its wave; an XFORM whose routine is not
installed has its code 5 (R292). -/
def copiesIssue : Prop :=
  ∀ s f a, ∀ x ∈ [(Instr.cpyLin f a, 0), (.cpyTile f a, 1), (.cpyGather f a, 2), (.cpyScatter f a, 3), (.cpyXform f a, 4),
      (.cpyFill f a, 5)], Admitted x.1 .copy s →
    let b := (List.range 8).map (fun k => readS s (a.toNat - 0x80 + k))
    (¬ FlagFree s → exec x.1 s = .next { s with frag := { s.frag with status := .stalled } }) ∧
    (FlagFree s → (¬ copyLimits x.2 b → exec x.1 s = .next (takeTrap s 0x08 false)) ∧
      (copyLimits x.2 b → ¬ copyAligned x.2 f.toNat b → exec x.1 s = .next (takeTrap s 0x07 false)) ∧
      (copyLimits x.2 b → copyAligned x.2 f.toNat b → ¬ copyCanonical x.2 f.toNat b →
        exec x.1 s = .next (takeTrap s 0x05 false)) ∧
      (copyLimits x.2 b → copyAligned x.2 f.toNat b → copyCanonical x.2 f.toNat b → ¬ copyInside s x.2 f.toNat b →
        exec x.1 s = .next (takeTrap s 0x06 false))) ∧
    (FlagFree s → copyAccepts s x.2 f.toNat b →
      (cpyEmpty x.2 b = true → exec x.1 s = .next (advance s)) ∧
      (cpyEmpty x.2 b = false → copyRoom s = false → exec x.1 s = .next { s with frag := { s.frag with status := .stalled } }) ∧
      (cpyEmpty x.2 b = false → copyRoom s = true →
        (∀ n ∈ s.crew.tiles.nodes, isView n.2 = true → ∀ r ∈ cpyWrites x.2 f.toNat b, meetsView n.2 r = false) →
        ∃ t op p, exec x.1 s = .next t ∧ Issued s { t with wave := { t.wave with unsealed := s.wave.unsealed } } op ∧
          t.wave.unsealed = s.wave.unsealed ++ [op.id] ∧ op.body = .copy p ∧ op.lanes = s.frag.lanes ∧ op.dstV = [] ∧
          op.dstS = [] ∧ p = .start (.cpy x.2 f.toNat) b p.xf ∧ (p.xf.isSome = true ↔ x.2 = 4) ∧
          ∀ y, p.xf = some y → y.routine = wordOf b 6 % 256 ∧ y.inpos = 0 ∧ y.pend = [] ∧ y.outb = 0 ∧
            y.code = if ∃ q ∈ s.dev.plat.sec.routines, q.1 = wordOf b 6 % 256 then none else some 5))

/-- Command u is not complete (R288). -/
def openCommand (s : State) (k : Nat) : Prop := ∃ o ∈ s.crew.ops, o.id = k

/-- R288, R289: SEAL numbers the commands issued since the last one as batch NB, writes NB and counts it up, and blocks
while 64 sealed batches are not done; WAIT goes on when batch X and those before it are done, else it blocks; TEST reports
it in mF, each by the X read when it first issued; a batch 32,768 or more back is an illegal instruction, and a late trap of
a command the batch covers is taken (R296).  A WAIT that was released goes on. -/
def batches : Prop :=
  ∀ s m a,
    (Admitted (.cbatchSeal a) .copy s →
      let bs := s.wave.batches.dropWhile (fun b => b.all (fun k => !s.crew.ops.any (fun o => o.id == k)))
      (64 ≤ bs.length →
        exec (.cbatchSeal a) s = .next { s with frag := { s.frag with status := .blocked .seal, resume := .fresh } }) ∧
      (bs.length < 64 → ∃ t, exec (.cbatchSeal a) s = .next t ∧ GoesOn s t ∧ t.dev = s.dev ∧
        SameLanes s t [] ∧ SameScalars s t [a.toNat - 0x80] ∧ SameMasks s t [] ∧ t.wave.flg = s.wave.flg ∧
        t.crew.ops.map Op.unmarked = s.crew.ops.map Op.unmarked ∧
        scalarReg t (a.toNat - 0x80) = BitVec.ofNat 32 s.wave.nb ∧ t.wave.nb = (s.wave.nb + 1) % 65536 ∧
        t.wave.batches = bs ++ [s.wave.unsealed] ∧ t.wave.unsealed = [])) ∧
    (∀ i ∈ [Instr.cbatchWait a, .cbatchTest m a], Admitted i .copy s →
      let u := latchClk s (uniformCodes i)
      let x := match s.frag.status with
        | .blocked (.batch y) => y % 2 ^ 32
        | _ => (readSrc u a 0).toNat
      let back := (s.wave.nb + 65535 + 65536 - x % 65536) % 65536
      let covered := (s.wave.batches.take (s.wave.batches.length - back)).flatten
      let late := fun o : Op => o ∈ s.crew.ops ∧ o.id ∈ covered ∧ ∃ k, o.status = .late k
      (s.frag.resume = .released → i = .cbatchWait a → exec i s = .next (advance u)) ∧
      ((i = .cbatchWait a → s.frag.resume ≠ .released) →
       (32768 ≤ back → exec i s = .next (takeTrap u 0x08 false)) ∧
       (back < 32768 → s.frag.trapMode = false → (∃ o, late o) → ∃ o, late o ∧ exec i s = .next (deliverLate u o)) ∧
       (back < 32768 → (s.frag.trapMode = true ∨ ∀ o, ¬ late o) →
        ((∀ k ∈ covered, ¬ openCommand s k) → i = .cbatchWait a → exec i s = .next (advance u)) ∧
        ((∃ k ∈ covered, openCommand s k) → i = .cbatchWait a →
          exec i s = .next { u with frag := { s.frag with status := .blocked (.batch x), resume := .fresh } }) ∧
        (i = .cbatchTest m a → ∃ t yes, exec i s = .next t ∧ reportsMask s t m yes ∧
          (yes = true ↔ ∀ k ∈ covered, ¬ openCommand s k) ∧ t.dev = s.dev ∧ t.crew = s.crew ∧
          { t.wave with m := [], clkHi := none } = { s.wave with m := [], clkHi := none }))))

/-- R274 to R278, R282, R286: where CPY completes its issue: CPY.LIN, TILE, GATHER, SCATTER, XFORM and FILL, admitted, with
their flag's counter below 63, a block that R275 and R277 accept, a free queue entry and no written view in the way, answer
a next state: with nothing to move, which an XFORM never is, the fragment only goes on; else the command is in flight with
its block, no unit of it done. -/
def copiesComplete : Prop :=
  ∀ s f a, FlagFree s → copyRoom s = true →
    let b := (List.range 8).map (fun k => readS s (a.toNat - 0x80 + k))
    let none_ := fun k : Nat => if k = 1 then (b.getD 4 0#32).toNat / 65536 = 0 else
      if k = 2 ∨ k = 3 then b.getD 7 0#32 = 0#32 else k ≠ 4 ∧ b.getD 4 0#32 = 0#32
    let clear := fun k : Nat =>
      ∀ n ∈ s.crew.tiles.nodes, isView n.2 = true → ∀ r ∈ cpyWrites k f.toNat b, meetsView n.2 r = false
    let runs := fun (k : Nat) (t : State) => (none_ k → t = advance s) ∧
      (¬ none_ k → ∃ op p, t.crew.ops = s.crew.ops ++ [op] ∧ op.body = .copy p ∧ op.status = .inflight ∧
        op.flag = some (flagHere s.frag) ∧ p.kind = .cpy k f.toNat ∧ p.block = b ∧ p.prog = 0 ∧ p.map = [] ∧ p.part = [] ∧
        GoesOn s t ∧ ∀ a, byteAt t.dev a = byteAt s.dev a)
    (Admitted (.cpyLin f a) .copy s → copyAccepts s 0 f.toNat b → clear 0 → ∃ t, exec (.cpyLin f a) s = .next t ∧ runs 0 t) ∧
    (Admitted (.cpyTile f a) .copy s → copyAccepts s 1 f.toNat b → clear 1 → ∃ t, exec (.cpyTile f a) s = .next t ∧ runs 1 t) ∧
    (Admitted (.cpyGather f a) .copy s → copyAccepts s 2 f.toNat b → clear 2 → ∃ t, exec (.cpyGather f a) s = .next t ∧ runs 2 t) ∧
    (Admitted (.cpyScatter f a) .copy s → copyAccepts s 3 f.toNat b → clear 3 → ∃ t, exec (.cpyScatter f a) s = .next t ∧ runs 3 t) ∧
    (Admitted (.cpyXform f a) .copy s → copyAccepts s 4 f.toNat b → clear 4 → ∃ t, exec (.cpyXform f a) s = .next t ∧ runs 4 t) ∧
    (Admitted (.cpyFill f a) .copy s → copyAccepts s 5 f.toNat b → clear 5 → ∃ t, exec (.cpyFill f a) s = .next t ∧ runs 5 t)

/-- R288, R289: where the batch instructions complete: SEAL with fewer than 64 sealed batches not done, WAIT of a batch that
is done, and TEST of any batch fewer than 32,768 back. -/
def batchesComplete : Prop :=
  ∀ s m a, (s.frag.trapMode = true ∨ ∀ o ∈ s.crew.ops, ∀ k, o.status ≠ .late k) → (∀ y, s.frag.status ≠ .blocked (.batch y)) →
    (Admitted (.cbatchSeal a) .copy s → s.wave.batches.length < 64 →
      ∃ t, exec (.cbatchSeal a) s = .next t ∧ GoesOn s t ∧ scalarReg t (a.toNat - 0x80) = BitVec.ofNat 32 s.wave.nb ∧
        t.wave.nb = (s.wave.nb + 1) % 65536 ∧ t.wave.unsealed = []) ∧
    (Admitted (.cbatchWait a) .copy s →
      let x := (readSrc (latchClk s [a]) a 0).toNat
      let back := (s.wave.nb + 65535 + 65536 - x % 65536) % 65536
      back < 32768 → (∀ l ∈ s.wave.batches, ∀ k ∈ l, ¬ openCommand s k) →
      ∃ t, exec (.cbatchWait a) s = .next t ∧ GoesOn s t ∧ t.crew = s.crew ∧ t.dev = s.dev) ∧
    (Admitted (.cbatchTest m a) .copy s →
      let x := (readSrc (latchClk s [a]) a 0).toNat
      (s.wave.nb + 65535 + 65536 - x % 65536) % 65536 < 32768 →
      ∃ t yes, exec (.cbatchTest m a) s = .next t ∧ reportsMask s t m yes ∧ t.crew = s.crew ∧ t.dev = s.dev)

/-- R274 to R278, R282, R283, R286, R288, R289: copies issue, and batches are sealed, awaited and tested. -/
def Obligations.CopiesAndBatchesIssue : Prop := copiesIssue ∧ batches ∧ copiesComplete ∧ batchesComplete

/-- Unit u of a command is done (R299). -/
def unitDone (p : CopyOp) (u : Nat) : Prop := u < p.prog ∨ u ∈ p.map

/-- Byte i of a unit's source: virtual memory through its translations or the scratchpad, its word as it stood at some
moment since the command issued (R120), the tile store, or data at hand. -/
def unitSource (s : State) (c : Crew) (o : Op) (io : Io) (x : UnitPlan) (i : Nat) : Byte :=
  match x.sSp with
  | some 0 => memSince s.dev o.memMark s.nfree (io.place false (x.src + i)).1
  | some 1 => scratchSince c o.scMark s.nfree (x.src + i)
  | some _ => tabGet 0#8 c.tile (x.src + i)
  | none => x.data.getD i 0#8

/-- R121, R268, R279, R283, R284, R360, R377: a unit that may be performed, whose pages are all at hand: some of its
words that are still to be written, at least one, are written with the bytes of its source, in memory, the scratchpad or
the tile store, or the unit joins a weight load's data; every other byte stays, but the object credited; once all its
words are written the unit, and no other, counts as done, with P its line is full, once no unit of the line is left (that an LDC
of the line then goes on is assumption 72), and with CR its object is credited. -/
def copyUnits : Prop :=
  ∀ s uid id c o p u x, EngineOp s uid id c o → o.body = .copy p → unitPlan c p u = some x → unitReady c o p u = true →
    x.cause = none → x.dst / 128 = (x.dst + x.len - 1) / 128 → 0 < x.len →
    (x.sSp = none → x.data.length = x.len) →
    let io := ioOpen (stow s).dev (opAsker c o) c.ctx s.nfree o.memMark (unitSkips o (planTouches x)) (planTouches x)
    io.good = true → (∀ i < x.len, overlapOpen p (x.dst + i) = false) →
    let credited := match p.kind with | .cpy _ f => optCR f | .wbuf _ _ => false | .tsmov _ _ => false
    let ob := blkWord p.block 5
    let word := fun i => (x.dst + i) / 4
    (credited = true → x.dSp = 1 → x.dst + x.len ≤ ob ∨ ob + 16 ≤ x.dst) →
    ∃ t c' o' p', ∃ W : List Nat, exec (.copyUnit uid id u) s = .next t ∧ findCrew t.dev uid = some c' ∧ findOp c' id = some o' ∧
      o'.body = .copy p' ∧ o'.status = .inflight ∧ p'.kind = p.kind ∧ p'.block = p.block ∧
      (∀ w ∈ W, (u, w) ∉ p.part ∧ ∃ i < x.len, w = word i) ∧
      let whole := x.dSp = 3 ∨ ∀ i < x.len, word i ∈ W ∨ (u, word i) ∈ p.part
      let ends := ∀ y, unitPlan c p (u + 1) = some y → y.dst / 128 ≠ x.dst / 128
      (W ≠ [] ∨ whole) ∧ (∀ v, unitDone p' v ↔ v = u ∧ whole ∨ unitDone p v) ∧
      (¬ whole → p'.part = p.part ++ W.map (fun w => (u, w))) ∧
      (∀ i < x.len, match x.dSp with
        | 0 => linePoisoned s.dev ((io.place true (x.dst + i)).1 / 128) = false →
            byteAt t.dev (io.place true (x.dst + i)).1 =
              if word i ∈ W then unitSource s c o io x i else byteAt s.dev (io.place true (x.dst + i)).1
        | 1 => tabGet 0#8 c'.scratch (x.dst + i) = if word i ∈ W then unitSource s c o io x i else tabGet 0#8 c.scratch (x.dst + i)
        | 2 => tabGet 0#8 c'.tile (x.dst + i) = if word i ∈ W then unitSource s c o io x i else tabGet 0#8 c.tile (x.dst + i)
        | _ => True) ∧
      (∀ b, (x.dSp = 0 → ∀ i < x.len, b ≠ (io.place true (x.dst + i)).1) → byteAt t.dev b = byteAt s.dev b) ∧
      (∀ b, (x.dSp = 1 → b < x.dst ∨ x.dst + x.len ≤ b) → (credited = true → whole → b < ob ∨ ob + 16 ≤ b) →
        tabGet 0#8 c'.scratch b = tabGet 0#8 c.scratch b) ∧
      (∀ b, (x.dSp = 2 → b < x.dst ∨ x.dst + x.len ≤ b) → tabGet 0#8 c'.tile b = tabGet 0#8 c.tile b) ∧
      (∀ m q, p.kind = .wbuf m q → x.dSp = 3 → p'.data = p.data ++ (List.range x.len).map (unitSource s c o io x)) ∧
      (∀ l, lineFull c' l = true ↔ hasP p = true ∧ whole ∧ ends ∧ l = x.dst / 128 ∨ lineFull c l = true) ∧
      (hasP p = true → (whole ∧ ends → p'.line = none) ∧ (¬ (whole ∧ ends) → p'.line = some (x.dst / 128))) ∧
      (credited = true → whole → -(2 ^ 31) ≤ (barAt c ob).pendb - x.len → barAt c' ob =
        if (barAt c ob).valid = true then completedPhase { barAt c ob with pendb := (barAt c ob).pendb - x.len }
        else { barAt c ob with err := true }) ∧
      c'.waves = c.waves

/-- Where an XFORM's status word goes, and what it is: the bytes put out and the code (R281, R294). -/
def statusWord (p : CopyOp) : Option (Nat × Nat) :=
  match p.kind, p.xf with
  | .cpy 4 _, some x =>
    if xformStat p.block = 0xFFFFF then none else some (8 * xformStat p.block, x.outb % 2 ^ 32 + 2 ^ 32 * (x.code.getD 0 % 256))
  | _, _ => none

/-- R30, R121, R281, R283, R294: a copy all of whose units are done writes some of the words of the status word it names that are
still to be written, at least one; once none is left it is complete; a copy with units left stays. -/
def copyCompletes : Prop :=
  ∀ s uid id c o p, EngineOp s uid id c o → o.body = .copy p →
    (copyFinished p = false → exec (.copyComplete uid id) s = .next (stow s)) ∧
    (copyFinished p = true →
      let left := fun k => ∃ q, statusWord p = some q ∧ (k = q.1 / 4 ∨ k = q.1 / 4 + 1) ∧ (p.prog, k) ∉ p.part
      ∃ t c', ∃ W : List Nat, exec (.copyComplete uid id) s = .next t ∧ findCrew t.dev uid = some c' ∧ (∀ k ∈ W, left k) ∧
        ((∀ k, left k → k ∈ W) → Completed c c' o [] []) ∧
        ((∃ k, left k ∧ k ∉ W) → W ≠ [] ∧ c'.waves = c.waves ∧ ∃ o' p', findOp c' id = some o' ∧ o'.body = .copy p' ∧
          o'.status = .inflight ∧ p' = { p with part := p.part ++ W.map (fun k => (p.prog, k)) }) ∧
        (∀ b, byteAt t.dev b = byteAt s.dev b) ∧
        ∀ b, tabGet 0#8 c'.scratch b = match statusWord p with
          | some q => if b / 4 ∈ W then BitVec.ofNat 8 (q.2 / 256 ^ (b - q.1)) else tabGet 0#8 c.scratch b
          | none => tabGet 0#8 c.scratch b)

/-- R30, R121, R268, R279, R281, R283, R284, R294, R360, R377: a copy moves its units, and completes. -/
def Obligations.CopiesRun : Prop := copyUnits ∧ copyCompletes

/-- The routine of an XFORM that has not ended, and none of whose output waits for a unit of its own, makes call k next: one
of its own, or one that a standard routine makes: a decoder reads while its stream goes on, and ends once its output is out
or cut, or its stream is refused (R291 to R293, R295). -/
def makesCall (c : Crew) (o : Op) (p : CopyOp) (x : Xform) (k : Nat) : Prop :=
  x.code = none ∧ unitPlan c p p.prog = none ∧
  if plainRoutine x = true then
    let early := (earlyEnd o.fmt p.block x.routine).isSome = true
    let out := (plainOutput o.fmt p.block x).length
    let dec := decoded p.block x
    (k = 1 ∧ ¬ early ∧ x.inpos < blkWord p.block 4 ∧ ∀ r, dec = some r → r.stop = .more ∧ x.full = false) ∨
      (k = 2 ∧ ¬ early ∧ x.sent < out ∧ (dec ≠ none → x.full = false)) ∨
      (k = 3 ∧ (early ∨ (dec = none ∧ x.inpos = blkWord p.block 4 ∧ out ≤ x.sent) ∨
        ∃ r, dec = some r ∧ (x.full = true ∨ (r.stop = .done ∧ out ≤ x.sent) ∨ ∃ c, r.stop = .bad c)))
  else (routineStop x).2 = k

/-- R290, R291: the transform core's accesses. A routine loads from its four ranges alone and stores to its working memory and
its output buffer alone; a byte stored is the one loaded there, no other byte of working memory or held byte of the output
buffer changes, nor the input buffer. It executes the image's range alone, ECALL is its call, and a parcel of zeros, a
load or a store outside the ranges is an exception. The encodings are RISC-V's, which the manual names (assumption 41). -/
def transformCore : Prop :=
  ∀ (im : List Byte) (h : Rv),
    (∀ a, (h.byte im a).isSome = true ↔ a < 0x14000 ∨ (0x80000000 ≤ a ∧ a < 0x80040000)) ∧
    (∀ a b, match h.putByte im a b with
      | none => ¬ (a < 0x10000 ∨ (0x12000 ≤ a ∧ a < 0x14000))
      | some t => (a < 0x10000 ∨ (0x12000 ≤ a ∧ a < 0x14000)) ∧ t.byte im a = some b ∧ t.st.inbuf = h.st.inbuf ∧
          t.st.regs = h.st.regs ∧ (∀ c, c ≠ a → c < 0x10000 → t.byte im c = h.byte im c) ∧
          ∀ i, 0x12000 + i ≠ a → i < h.st.outbuf.length → t.st.outbuf[i]? = h.st.outbuf[i]?) ∧
    (let pc := h.pc.toNat
     (pc % 2 = 1 ∨ pc < 0x80000000 ∨ 0x8003FFFE < pc) → rvStep im h = .fails h) ∧
    (rvFetch im h = some (0x73, 4) → rvStep im h = .calls h) ∧
    (rvParcel im h h.pc.toNat = some 0 → rvStep im h = .fails h) ∧
    ∀ w n, rvFetch im h = some (w, n) →
      (w % 128 = 0x03 → bitsOf w 14 12 < 7 →
        h.byte im (h.x (bitsOf w 19 15) + (BitVec.ofNat 12 (bitsOf w 31 20)).signExtend 64).toNat = none →
        rvStep im h = .fails h) ∧
      (w % 128 = 0x23 → bitsOf w 14 12 < 4 →
        let a := (h.x (bitsOf w 19 15) + (BitVec.ofNat 12 (32 * bitsOf w 31 25 + bitsOf w 11 7)).signExtend 64).toNat
        ¬ (a < 0x10000 ∨ (0x12000 ≤ a ∧ a < 0x14000)) → rvStep im h = .fails h)

/-- R290 to R294: the transform core's accesses, and the calls of an XFORM's routine, as the model runs it: an installed routine
by RISC-V's instructions, which the manual names and does not give; how a routine starts is the model's choice
(assumptions 41 and 47), a PUTOUT of more than 8,192 bytes is no call (assumption 48), and what a standard decoder puts
out and when it ends follow the family's formats (assumption 77). GETIN gives the next input bytes, at most 8192, and
their number; PUTOUT appends the bytes of the output buffer, or the next of a standard routine's output, up to the
capacity; END ends the routine with its status, a cut decoder with 2, a reserved status as 6; ARGS gives the block's
parameters; anything else is status 6.  A call that is not made changes nothing. -/
def Obligations.RoutineCalls : Prop :=
  transformCore ∧ ∀ s uid id c o p x f, EngineOp s uid id c o → o.body = .copy p → p.xf = some x → p.kind = .cpy 4 f →
    let after := fun (t : State) (q : Xform → Prop) => ∃ c' o' p' x', findCrew t.dev uid = some c' ∧ findOp c' id = some o' ∧
      o'.body = .copy p' ∧ p'.xf = some x' ∧ p'.block = p.block ∧ p'.kind = p.kind ∧
      p'.prog = p.prog ∧ c'.scratch = c.scratch ∧ c'.waves = c.waves ∧ (∀ b, byteAt t.dev b = byteAt s.dev b) ∧
      x'.routine = x.routine ∧ x'.outb = x.outb ∧ q x'
    let v := atCall x
    let len := blkWord p.block 4
    (∀ i k, (i, k) ∈ [(Instr.getin uid id, 1), (.putout uid id, 2), (.endRoutine uid id, 3), (.args uid id, 4),
        (.routineFault uid id, 6)] → ¬ makesCall c o p x k → exec i s = .next (stow s)) ∧
    (makesCall c o p x 1 →
      let n := min 8192 (len - x.inpos)
      let src := cpySrc f p.block + x.inpos
      let ts : List Touch := if optSS f then [] else [⟨src, n, false⟩]
      let io := ioOpen (stow s).dev (opAsker c o) c.ctx s.nfree o.memMark (unitSkips o ts) ts
      let bs := (List.range n).map (fun i =>
        if optSS f then scratchSince c o.scMark s.nfree (src + i) else memSince s.dev o.memMark s.nfree (io.place false (src + i)).1)
      io.good = true → ∃ t, exec (.getin uid id) s = .next t ∧ after t (fun y => y.code = none ∧ y.inpos = x.inpos + n ∧ y.pend = x.pend ∧ y.sent = x.sent ∧
        (plainRoutine x = true → y.input = x.input ++ bs) ∧
        (plainRoutine x = false → 12 ≤ v.regs.length → y.rv.inbuf = bs ∧ xReg y.rv 10 = BitVec.ofNat 64 n ∧
          y.rv.regs.getD 0 0#64 = v.regs.getD 0 0#64 + 4#64))) ∧
    (makesCall c o p x 2 →
      ∃ t, exec (.putout uid id) s = .next t ∧ after t (fun y => y.code = none ∧ y.inpos = x.inpos ∧ ∃ bs : List Byte,
        (plainRoutine x = false → bs = (List.range (xReg v 10).toNat).map (fun i => v.outbuf.getD i (Config.routineByte x.image v (0x12000 + i))) ∧
          (12 ≤ v.regs.length → xReg y.rv 10 = if xformBound p.block ≤ x.sent + bs.length then 1#64 else 0#64)) ∧
        (plainRoutine x = true → bs ≠ [] ∧ bs <+: (plainOutput o.fmt p.block x).drop x.sent) ∧
        y.pend = x.pend ++ bs.take (xformBound p.block - x.sent) ∧
        y.sent = x.sent + min bs.length (xformBound p.block - x.sent) ∧
        (y.full = true ↔ x.full = true ∨ xformBound p.block < x.sent + bs.length))) ∧
    (makesCall c o p x 3 →
      let said := if plainRoutine x = true then (match decoded p.block x with
          | some r => (match r.stop with
            | .bad c => c
            | .more | .done => 0)
          | none => (earlyEnd o.fmt p.block x.routine).getD 0) else (xReg v 10).toNat
      ∃ t, exec (.endRoutine uid id) s = .next t ∧ after t (fun y => y.pend = x.pend ∧ y.code = some
        (if 1 ≤ x.routine ∧ x.routine ≤ 3 ∧ x.full = true then 2 else if 6 < said then 6 else said))) ∧
    (makesCall c o p x 4 → 15 ≤ v.regs.length →
      ∃ t, exec (.args uid id) s = .next t ∧ after t (fun y => y.code = none ∧ xReg y.rv 10 = BitVec.ofNat 64 (blkWord p.block 6) ∧
        xReg y.rv 11 = BitVec.ofNat 64 (blkWord p.block 7) ∧ xReg y.rv 12 = o.fmt.setWidth 64 ∧
        xReg y.rv 13 = BitVec.ofNat 64 len)) ∧
    (makesCall c o p x 6 → ∃ t, exec (.routineFault uid id) s = .next t ∧ after t (fun y => y.code = some 6 ∧ y.pend = x.pend))

/-! ### Matrix engine, weight slots, tile store -/

/-- The product of R366's table that MMAO or MMAT may run: FMT's codes are in the table, and a slot loaded for the
context has the B format, the rows and the columns it needs. -/
def productFits (s : State) (t f k n : Nat) : Prop :=
  matFmtOk t s.frag.fmt = true ∧
  (slotMine s.crew (slotAhead s f) = true → matB t s.frag.fmt = some (slotAhead s f).ef ∧ k ≤ (slotAhead s f).k ∧ n ≤ (slotAhead s f).n)

/-- R365 to R367, R371: MMAO, its register ranges in the card's registers and apart, its product in the table, issues
with the A and scale registers and the accumulators of the active lanes, and is to write the sixteen registers D; with
EXEC empty it goes on; else it is an illegal instruction. -/
def mmaoIssues : Prop :=
  ∀ s (t f : BitVec 4) (a b : BitVec 8), Admitted (.mmao t f a b) .matrix s → FlagFree s →
    let k := matK t.toNat
    let nr := matRegs t.toNat + matScales t.toNat s.frag.fmt k
    let good := a.toNat + nr ≤ s.crew.vregs ∧ b.toNat + 16 ≤ s.crew.vregs ∧
      (b.toNat + 16 ≤ a.toNat ∨ a.toNat + nr ≤ b.toNat) ∧ productFits s t.toNat f.toNat k 16
    (¬ good → exec (.mmao t f a b) s = .next (takeTrap s 0x08 false)) ∧
    (good → s.frag.exec = 0#96 → exec (.mmao t f a b) s = .next (advance s)) ∧
    (good → s.frag.exec ≠ 0#96 → ∃ u op m, exec (.mmao t f a b) s = .next u ∧ Issued s u op ∧ op.body = .mmao m ∧
      op.lanes = s.frag.exec ∧ op.dstV = (List.range 16).map (b.toNat + ·) ∧ op.dstS = [] ∧ m.type = t.toNat ∧
      m.slot = f.toNat ∧ m.dst = b.toNat ∧
      m.rows = (laneList s.frag.exec).map (fun l =>
        (l, (List.range nr).map (fun j => readV s (a.toNat + j) l), (List.range 16).map (fun j => readV s (b.toNat + j) l))))

/-- R372 to R374: MMAT's checks in their order, 0x08, 0x07 and 0x06, and its issue with the fields of its four
registers. -/
def mmatIssues : Prop :=
  ∀ s (t f : BitVec 4) (a : BitVec 8), Admitted (.mmat t f a) .matrix s → FlagFree s →
    let w := fun k => (readS s (a.toNat - 0x80 + k)).toNat
    let m := w 3 % 128
    let ng := w 3 / 256 % 128
    let x := slotAhead s f.toNat
    let k := if slotMine s.crew x then x.k else matK t.toNat
    let srs := 4 * matScales t.toNat s.frag.fmt k
    let rb := (k * codeWidth ((matA t.toNat s.frag.fmt).getD 0) + 7) / 8
    let legal := w 3 < 2 ^ 16 ∧ w 3 / 128 % 2 = 0 ∧ 1 ≤ m ∧ m ≤ 64 ∧ 1 ≤ ng ∧ ng ≤ 64 ∧ matFmtOk t.toNat s.frag.fmt = true ∧
      (slotMine s.crew x = true → 16 * ng ≤ x.n ∧ k % 16 = 0 ∧ matK t.toNat ≤ k ∧ matB t.toNat s.frag.fmt = some x.ef)
    let aligned := w 0 % 4 = 0 ∧ w 1 % 4 = 0 ∧ w 2 % 4 = 0
    let inside := w 0 + m * w 1 + m * srs ≤ s.crew.scratchSize ∧ w 0 + (m - 1) * w 1 + rb ≤ s.crew.scratchSize ∧
      w 2 + 64 * m * ng ≤ s.crew.tiles.mark
    (¬ legal → exec (.mmat t f a) s = .next (takeTrap s 0x08 false)) ∧
    (legal → ¬ aligned → exec (.mmat t f a) s = .next (takeTrap s 0x07 false)) ∧
    (legal → aligned → ¬ inside → exec (.mmat t f a) s = .next (takeTrap s 0x06 false)) ∧
    (legal → aligned → inside →
      (∀ n ∈ s.crew.tiles.nodes, isView n.2 = true → meetsView n.2 (2, w 2, 64 * m * ng) = false) →
      ∃ u op, exec (.mmat t f a) s = .next u ∧ Issued s u op ∧ op.lanes = s.frag.lanes ∧ op.dstV = [] ∧ op.dstS = [] ∧
        op.body = .mmat ⟨t.toNat, f.toNat, w 0, w 1, w 2, m, ng, (w 3).testBit 15, k, s.crew.opcGen⟩)

/-- MMAO and MMAT at issue (R365 to R367, R371 to R374). -/
def Obligations.ProductsIssue : Prop := mmaoIssues ∧ mmatIssues

/-- R104, R107, R362, R368 to R370, R380: MMAO complete in its slot's turn: each of its lanes still in a fragment has in
register D + n the sum over k of A(lane, k) · B(k, n) on its accumulator, rounded once into the accumulate format; B is
zeros when the slot is not the context's or does not fit; and the crew's counters count the elements' events. -/
def mmaoCompletes : Prop :=
  ∀ s uid id c o m, EngineOp s uid id c o → o.body = .mmao m → slotTurn (stow s).dev c m.slot o = true →
    o.taintV = [] → (∀ r ∈ m.rows, r.1 < 96) → (m.rows.map Prod.fst).Nodup →
    let x := slotOf s.dev c.core m.slot
    let k := matK m.type
    let cmp := fun key => matCompand (stow s) c o key
    let av := fun (r : Nat × List Word × List Word) j =>
      regElem (cmp (700000 + 1024 * r.1 + j)) m.type o.fmt ((matA m.type o.fmt).getD 0) r.2.1 j
    let bv := fun j n => if slotMine c x = true ∧ slotFits m.type o.fmt k 16 x = true
      then slotElem (cmp (900000 + 1024 * j + n)) x j n else (extZero false, false)
    let live := m.rows.filter (fun r => laneAlive c o.wave r.1)
    let el := fun (r : Nat × List Word × List Word) n =>
      matResult o.fmt (readFloat .f32 (fmtDAZ o.fmt) (r.2.2.getD n 0#32).toNat).1 ((List.range k).map (fun j => (av r j, bv j n)))
    ∃ t c', exec (.mmaoComplete uid id) s = .next t ∧ findCrew t.dev uid = some c' ∧
      Completed c c' o (live.flatMap (fun r => (List.range 16).map (fun n => (96 * (m.dst + n) + r.1, (el r n).1)))) [] ∧
      c'.mx = countElems c.mx (live.flatMap (fun r => (List.range 16).map (fun n => (el r n).2))) ∧
      c'.scratch = c.scratch ∧ c'.tile = c.tile ∧ ∀ a, byteAt t.dev a = byteAt s.dev a

/-- R104, R107, R362, R373, R378, R380: MMAT complete in its turn: word (i, n) of the tile D is the sum over k of A's row i
and B's column n on zero or on the word that stood there, rounded once; every other byte of the tile store stays.  That B is zeros
when the slot's K has changed since the issue is the model's choice (assumption 88). -/
def mmatCompletes : Prop :=
  ∀ s uid id c o m, EngineOp s uid id c o → o.body = .mmat m → slotTurn (stow s).dev c m.slot o = true →
    tileTurn c o = true →
    let cols := 16 * m.ng
    let x := slotOf s.dev c.core m.slot
    let rows := mmatFetch c s.nfree o m
    let bv := fun j n => if slotMine c x = true ∧ matB m.type o.fmt = some x.ef ∧ x.k = m.k ∧ cols ≤ x.n
      then slotElem (matCompand (stow s) c o (900000 + 1024 * j + n)) x j n else (extZero false, false)
    let el := fun i n =>
      let old := natLE ((List.range 4).map (fun j => tabGet 0#8 c.tile (m.dh + 4 * (i * cols + n) + j)))
      matResult o.fmt (if m.z then extZero false else (readFloat .f32 (fmtDAZ o.fmt) old).1)
        ((tileRow (stow s) c o m rows i).mapIdx (fun j a => (a, bv j n)))
    ∃ t c', exec (.mmatComplete uid id) s = .next t ∧ findCrew t.dev uid = some c' ∧ Completed c c' o [] [] ∧
      (∀ i n, i < m.m → n < cols → ∀ j < 4, tabGet 0#8 c'.tile (m.dh + 4 * (i * cols + n) + j) =
        BitVec.ofNat 8 ((el i n).1.toNat / 256 ^ j)) ∧
      (∀ a, a < m.dh ∨ m.dh + 4 * (m.m * cols) ≤ a → tabGet 0#8 c'.tile a = tabGet 0#8 c.tile a) ∧
      c'.mx = countElems c.mx ((List.range m.m).flatMap (fun i => (List.range cols).map (fun n => (el i n).2))) ∧
      c'.scratch = c.scratch ∧ ∀ a, byteAt t.dev a = byteAt s.dev a

/-- MMAO and MMAT at their completion points. -/
def Obligations.ProductsComplete : Prop := mmaoCompletes ∧ mmatCompletes

/-- The rows of values of a weight load's block, the bytes of one, the bytes of its index rows, of its tables and of its
scales (R357, R358). -/
def weightParts (b : List Word) : Nat × Nat × Nat × Nat × Nat :=
  let ef := wordOf b 2 % 16
  let form := wordOf b 2 / 16 % 4
  let k := wordOf b 3 % 65536
  let n := wordOf b 3 / 65536
  let block := match wordOf b 2 / 256 % 4 with
    | 0 => 32 | 1 => 16 | 2 => 64 | _ => k
  (if form = 1 then k / 4 else k,
   if form = 0 then (n * codeWidth ef + 7) / 8 else if form = 1 then (2 * n * codeWidth ef + 7) / 8 else (n + 1) / 2,
   if form = 1 then k / 4 * n else 0, if form = 2 then 32 * ((n + 31) / 32) else 0,
   if (wordOf b 2).testBit 7 = true ∧ 2 ≤ ef then (k + block - 1) / block * n else 0)

/-- R359, step 1: no reserved or out-of-range field, form and format together, rows apart, and at most 16,384 bytes. -/
def weightLegal (b : List Word) : Prop :=
  let form := wordOf b 2 / 16 % 4
  let k := wordOf b 3 % 65536
  let n := wordOf b 3 / 65536
  let (rows, rb, index, tables, scales) := weightParts b
  wordOf b 2 < 1024 ∧ wordOf b 7 = 0 ∧ form ≠ 3 ∧ wordOf b 2 % 16 ≤ 8 ∧ 1 ≤ k ∧ k ≤ 1024 ∧ 16 ≤ n ∧ n ≤ 1024 ∧ n % 16 = 0 ∧
    (form = 2 → wordOf b 2 % 16 = 0) ∧ (form = 1 → k % 4 = 0) ∧ rb ≤ wordOf b 4 ∧ tables + rows * rb + index + scales ≤ 16384

/-- SRC: with SS set word 0 (R357). -/
def weightSrc (b : List Word) : Nat :=
  if (wordOf b 2).testBit 6 then wordOf b 0 else wordOf b 0 + 2 ^ 32 * wordOf b 1

/-- R359, step 2. -/
def weightAligned (b : List Word) : Prop :=
  weightSrc b % 4 = 0 ∧ wordOf b 4 % 4 = 0 ∧ ((wordOf b 2).testBit 7 = true → 2 ≤ wordOf b 2 % 16 → wordOf b 6 % 4 = 0)

/-- R359, step 3: from SRC to the last byte of the source, in the scratchpad below SCRATCH, in memory canonical at both
ends without a wrap. -/
def weightReach (s : State) (b : List Word) : Prop :=
  let (rows, rb, index, tables, scales) := weightParts b
  let src := weightSrc b
  let stop := max (max (src + tables + (rows - 1) * wordOf b 4 + rb) (if index = 0 then 0 else src + rows * wordOf b 4 + index))
    (if scales = 0 then 0 else src + wordOf b 6 + scales)
  if (wordOf b 2).testBit 6 then stop ≤ s.crew.scratchSize
  else stop ≤ 2 ^ 64 ∧ canonical (BitVec.ofNat 64 src) = true ∧ canonical (BitVec.ofNat 64 (stop - 1)) = true

/-- R196, R286, R355 to R357, R359 to R361, R364: WBUF.LOAD and MCAST, their block passing R359's checks, wait at issue while the
copy engine's queue has no free entry, else issue and enter their word and block in the crew's slot list; INVAL with nothing of the
slot outstanding clears it at once, and QUERY writes the slot's map to its pair, neither of which takes an entry (the model's
choice, assumption 40). -/
def weightInstructions : Prop :=
  ∀ s (f : BitVec 4) a,
    let b := (List.range 8).map (fun k => readS s (a.toNat - 0x80 + k))
    (∀ x ∈ [(Instr.wbufLoad f a, false), (.wbufMcast f a, true)], Admitted x.1 .matrix s → FlagFree s →
      let badPatch := x.2 = true ∧ patchOk (b.getD 5 0#32) (jobHere s).card s.crew.cx s.crew.cy = false
      let legal := ¬ badPatch ∧ weightLegal b
      (¬ legal → exec x.1 s = .next (takeTrap s 0x08 false)) ∧
      (legal → ¬ weightAligned b → exec x.1 s = .next (takeTrap s 0x07 false)) ∧
      (legal → weightAligned b → ¬ weightReach s b →
        exec x.1 s = .next (takeTrap s (if (wordOf b 2).testBit 6 then 0x06 else 0x05) false)) ∧
      (legal → weightAligned b → weightReach s b → copyRoom s = false →
        exec x.1 s = .next { s with frag := { s.frag with status := .stalled } }) ∧
      (legal → weightAligned b → weightReach s b → copyRoom s = true →
        ∃ t op, exec x.1 s = .next t ∧ Issued s { t with crew := { t.crew with park := s.crew.park } } op ∧
          op.lanes = s.frag.lanes ∧ op.dstV = [] ∧
          op.body = .copy (.start (.wbuf x.2 f.toNat) b none) ∧
          ∀ j, tabGet 0#8 t.crew.park j = if 0x1000 + 32 * f.toNat ≤ j ∧ j < 0x1000 + 32 * f.toNat + 32 then
            let k := (j - (0x1000 + 32 * f.toNat)) / 4
            BitVec.ofNat 8 ((if k = 0 then curWord s.frag &&& ~~~0x0F00#32 else b.getD (k - 1) 0#32).toNat / 256 ^ (j % 4))
            else tabGet 0#8 s.crew.park j)) ∧
    (Admitted (.wbufInval f) .matrix s →
      ∃ t, exec (.wbufInval f) s = .next t ∧ GoesOn s t ∧ t.wave = s.wave ∧
        { t.crew with park := [], nextOp := 0 } = { s.crew with park := [], nextOp := 0 } ∧
        (∀ j, tabGet 0#8 t.crew.park j =
          if 0x1000 + 32 * f.toNat ≤ j ∧ j < 0x1000 + 32 * f.toNat + 32 then 0#8 else tabGet 0#8 s.crew.park j) ∧
        (∀ a, byteAt t.dev a = byteAt s.dev a) ∧
        (slotBusy s f.toNat = false → ∀ core g, slotOf t.dev core g =
          if 16 * core + g = 16 * s.crew.core + f.toNat then default else slotOf s.dev core g) ∧
        (slotBusy s f.toNat = true → t.dev.slots = s.dev.slots ∧
          t.crew.nextOp = s.crew.nextOp + 1 ∧
          t.dev.slotInvals = s.dev.slotInvals ++ [⟨s.crew.core, f.toNat, s.nfree, s.crew.nextOp, some s.crew.uid⟩])) ∧
    (Admitted (.wbufQuery f a) .matrix s →
      let x := slotOf s.dev s.crew.core f.toNat
      let pending := loadPending (s.crew :: s.dev.crews) s.crew.core f.toNat (fun c p k => loadReaches c p k)
      let lo := (if slotMine s.crew x then x.ef + 16 * x.form + (if x.sc then 128 else 0) + 256 * x.sb + 1024 else 0) +
        (if pending then 2048 else 0)
      let hi := if slotMine s.crew x then x.k + 65536 * x.n else 0
      x.ef < 16 → x.form < 4 → x.sb < 4 → x.k < 65536 → x.n < 65536 →
      ∃ t, exec (.wbufQuery f a) s = .next t ∧ GoesOn s t ∧ t.dev = s.dev ∧ SameLanes s t [] ∧
        SameScalars s t [a.toNat - 0x80, a.toNat - 0x80 + 1] ∧ SameMasks s t [] ∧ t.wave.flg = s.wave.flg ∧
        scalarReg t (a.toNat - 0x80) = BitVec.ofNat 32 lo ∧ scalarReg t (a.toNat - 0x80 + 1) = BitVec.ofNat 32 hi)

/-- R357, R359 to R361: where WBUF.LOAD and MCAST complete their issue: a block that R359 accepts, and for MCAST a patch
word R355 accepts, with the flag's counter below 63 and a free entry in the copy engine's queue; the command is in flight with its
block, no unit of it read. -/
def weightsComplete : Prop :=
  ∀ s (f : BitVec 4) a, FlagFree s →
    let b := (List.range 8).map (fun k => readS s (a.toNat - 0x80 + k))
    let flying := fun (t : State) (m : Bool) => GoesOn s t ∧ ∃ op p, t.crew.ops = s.crew.ops ++ [op] ∧ op.status = .inflight ∧
      op.flag = some (flagHere s.frag) ∧ op.body = .copy p ∧ p.kind = .wbuf m f.toNat ∧ p.block = b ∧ p.prog = 0 ∧ p.data = []
    weightLegal b → weightAligned b → weightReach s b → copyRoom s = true →
    (Admitted (.wbufLoad f a) .matrix s → ∃ t, exec (.wbufLoad f a) s = .next t ∧ flying t false) ∧
    (Admitted (.wbufMcast f a) .matrix s → patchOk (b.getD 5 0#32) (jobHere s).card s.crew.cx s.crew.cy = true →
      ∃ t, exec (.wbufMcast f a) s = .next t ∧ flying t true)

/-- R30, R360, R362: a weight load whose source is read, in its slot's turn, fills the slot: of its own core, or of every
core of its patch; no other slot changes; before that nothing happens.  That its source counts as read unit by unit is the
model's choice (assumption 61). -/
def weightCompletes : Prop :=
  ∀ s uid id c o p m f, EngineOp s uid id c o → o.body = .copy p → p.kind = .wbuf m f → f < 16 → c.core < 4608 →
    let ready := (WLoad.ofBlock p.block).units.length ≤ p.prog ∧ slotTurn (stow s).dev c f o = true
    (¬ ready → exec (.wbufComplete uid id) s = .next (stow s)) ∧
    (ready → ∃ t c', exec (.wbufComplete uid id) s = .next t ∧ findCrew t.dev uid = some c' ∧ Completed c c' o [] [] ∧
      (∀ core g, core < 4608 → g < 16 → slotOf t.dev core g =
        if g = f ∧ loadReaches c p core = true then loadedSlot c p.block p.data else slotOf s.dev core g) ∧
      ∀ a, byteAt t.dev a = byteAt s.dev a)

/-- The weight slots (R355 to R364). -/
def Obligations.WeightSlots : Prop := weightInstructions ∧ weightsComplete ∧ weightCompletes

/-- R376 to R378: TSMOV's checks in their order, and its issue: the register forms for the active lanes, FROMREG with the
words they hold, the memory forms with the four registers and the stride, once the copy engine's queue has a free entry (R286). -/
def tileMovesIssue : Prop :=
  ∀ s (n : BitVec 4) a b, FlagFree s →
    let h := (readS s (a.toNat - 0x80)).toNat
    let k := n.toNat + 1
    let w := fun j => readS s (a.toNat - 0x80 + j)
    let rb := (w 1).toNat % 65536
    let rows := (w 1).toNat / 65536
    let base := (w 2).toNat + 2 ^ 32 * (w 3).toNat
    let stride := (readS s (b.toNat - 0x80)).toNat
    let free := fun r => ∀ x ∈ s.crew.tiles.nodes, isView x.2 = true → ∀ q ∈ r, meetsView x.2 q = false
    (∀ x ∈ [(Instr.tsmovToreg n a b, true), (.tsmovFromreg n a b, false)], Admitted x.1 .matrix s →
      (h % 4 ≠ 0 → exec x.1 s = .next (takeTrap s 0x07 false)) ∧
      (h % 4 = 0 → (∃ l, s.frag.exec.getLsbD l = true ∧ s.crew.tiles.mark < h + 4 * k * (l + 1)) →
        exec x.1 s = .next (takeTrap s 0x06 false)) ∧
      (h % 4 = 0 → h ≤ s.crew.tiles.mark → (∀ l, s.frag.exec.getLsbD l = true → h + 4 * k * (l + 1) ≤ s.crew.tiles.mark) →
        (s.frag.exec = 0#96 → exec x.1 s = .next (advance s)) ∧
        (s.frag.exec ≠ 0#96 → (x.2 = false → free ((laneList s.frag.exec).map (fun l => (2, h + 4 * k * l, 4 * k)))) →
          ∃ t op q, exec x.1 s = .next t ∧ Issued s t op ∧ op.body = .tsreg q ∧ op.lanes = s.frag.exec ∧
            op.dstV = (if x.2 then (List.range k).map (b.toNat + ·) else []) ∧ q.toReg = x.2 ∧ q.h = h ∧ q.n = k ∧
            q.dst = b.toNat ∧ q.vals = if x.2 then [] else (laneList s.frag.exec).flatMap (fun l =>
              (List.range k).map (fun j => (l, j, readV s (b.toNat + j) l)))))) ∧
    (∀ x ∈ [(Instr.tsmovTomem a b, true), (.tsmovFrommem a b, false)], Admitted x.1 .matrix s →
      let sized := rb ≠ 0 ∧ rows * rb ≤ 16777215
      let reach := rangeCanonical base (rowsEnd rows rb stride) = true
      let inside := h + rows * rb ≤ s.crew.tiles.mark
      (¬ sized → exec x.1 s = .next (takeTrap s 0x08 false)) ∧
      (sized → ¬ reach → exec x.1 s = .next (takeTrap s 0x05 false)) ∧
      (sized → reach → ¬ inside → exec x.1 s = .next (takeTrap s 0x06 false)) ∧
      (sized → reach → inside → rows = 0 → exec x.1 s = .next (advance s)) ∧
      (sized → reach → inside → rows ≠ 0 → copyRoom s = false →
        exec x.1 s = .next { s with frag := { s.frag with status := .stalled } }) ∧
      (sized → reach → inside → rows ≠ 0 → copyRoom s = true →
        free (if x.2 then strideRows 0 base rows rb stride else [(2, h, rows * rb)]) →
        ∃ t op, exec x.1 s = .next t ∧ Issued s t op ∧ op.lanes = s.frag.lanes ∧ op.dstV = [] ∧
          op.body = .copy (.start (.tsmov x.2 stride) [w 0, w 1, w 2, w 3] none)))

/-- R376 to R378: where the forms of TSMOV complete their issue: an aligned tile offset, every byte below the tile mark, and
for the memory forms a size in range and an address range that is canonical, with the flag's counter below 63 and no view
over the bytes written, and for the memory forms a free entry in the copy engine's queue; with no lane active, or no rows, the fragment only goes on. -/
def movesComplete : Prop :=
  ∀ s (n : BitVec 4) a b, FlagFree s → (∀ x ∈ s.crew.tiles.nodes, isView x.2 = false) →
    let h := (readS s (a.toNat - 0x80)).toNat
    let rb := (readS s (a.toNat - 0x80 + 1)).toNat % 65536
    let rows := (readS s (a.toNat - 0x80 + 1)).toNat / 65536
    let base := (readS s (a.toNat - 0x80 + 2)).toNat + 2 ^ 32 * (readS s (a.toNat - 0x80 + 3)).toNat
    let stride := (readS s (b.toNat - 0x80)).toNat
    let flies := fun (t : State) (none_ : Prop) => GoesOn s t ∧ (none_ → t = advance s) ∧
      (¬ none_ → ∃ op, t.crew.ops = s.crew.ops ++ [op] ∧ op.status = .inflight ∧ op.flag = some (flagHere s.frag))
    (h % 4 = 0 → h + 384 * (n.toNat + 1) ≤ s.crew.tiles.mark →
      (Admitted (.tsmovToreg n a b) .matrix s →
        ∃ t, exec (.tsmovToreg n a b) s = .next t ∧ flies t (s.frag.exec = 0#96)) ∧
      (Admitted (.tsmovFromreg n a b) .matrix s →
        ∃ t, exec (.tsmovFromreg n a b) s = .next t ∧ flies t (s.frag.exec = 0#96))) ∧
    (copyRoom s = true → rb ≠ 0 → rows * rb ≤ 16777215 → rangeCanonical base (rowsEnd rows rb stride) = true → h + rows * rb ≤ s.crew.tiles.mark →
      (Admitted (.tsmovTomem a b) .matrix s → ∃ t, exec (.tsmovTomem a b) s = .next t ∧ flies t (rows = 0)) ∧
      (Admitted (.tsmovFrommem a b) .matrix s → ∃ t, exec (.tsmovFrommem a b) s = .next t ∧ flies t (rows = 0)))

/-- R376 to R378: in its turn TOREG writes the words of its lanes that are still in a fragment from the tile store, and
FROMREG writes the words it holds there; a memory form whose units are all done is complete. -/
def tileMovesComplete : Prop :=
  ∀ s uid id c o, EngineOp s uid id c o →
    (∀ q, o.body = .tsreg q → tileTurn c o = false → exec (.tsmovComplete uid id) s = .next (stow s)) ∧
    (∀ q, o.body = .tsreg q → tileTurn c o = true → o.taintV = [] → (q.toReg = true → q.vals = []) →
      (∀ v ∈ q.vals, v.1 < 96 ∧ v.2.1 < q.n) → (q.vals.map (fun v => (v.1, v.2.1))).Nodup →
      ∃ t c', exec (.tsmovComplete uid id) s = .next t ∧ findCrew t.dev uid = some c' ∧
        Completed c c' o (if q.toReg then ((laneList o.lanes).filter (laneAlive c o.wave)).flatMap (fun l =>
          (List.range q.n).map (fun j => (96 * (q.dst + j) + l,
            BitVec.ofNat 32 (natLE ((List.range 4).map (fun i => tabGet 0#8 c.tile (q.h + 4 * (q.n * l + j) + i))))))) else []) [] ∧
        (∀ v ∈ q.vals, ∀ i < 4, tabGet 0#8 c'.tile (q.h + 4 * (q.n * v.1 + v.2.1) + i) = BitVec.ofNat 8 (v.2.2.toNat / 256 ^ i)) ∧
        (∀ a, (∀ v ∈ q.vals, a < q.h + 4 * (q.n * v.1 + v.2.1) ∨ q.h + 4 * (q.n * v.1 + v.2.1) + 4 ≤ a) →
          tabGet 0#8 c'.tile a = tabGet 0#8 c.tile a) ∧
        c'.scratch = c.scratch ∧ ∀ a, byteAt t.dev a = byteAt s.dev a) ∧
    (∀ p d n, o.body = .copy p → p.kind = .tsmov d n →
      ((tsmovUnits p d n).length > p.prog → exec (.tsmovComplete uid id) s = .next (stow s)) ∧
      ((tsmovUnits p d n).length ≤ p.prog → ∃ t c', exec (.tsmovComplete uid id) s = .next t ∧
        findCrew t.dev uid = some c' ∧ Completed c c' o [] [] ∧ c'.tile = c.tile ∧ c'.scratch = c.scratch ∧
        ∀ a, byteAt t.dev a = byteAt s.dev a))

/-- The tile-store moves (R376 to R378). -/
def Obligations.TileMoves : Prop := tileMovesIssue ∧ movesComplete ∧ tileMovesComplete

/-! ### Deferred tiles -/

/-- R384, R385, R393: a node of this kind, shape and format, reading these nodes, is bound to the name: it was not there
before, it keeps FMT and the instruction's PC, every other name keeps its node, the nodes read stay, and nothing else
of the crew, the wave, the device changes. -/
structure Appends (s t : State) (name : Nat) (kind : NodeKind) (rows cols fmt : Nat) (srcs : List Nat) : Prop where
  node  : ∃ n x, boundNode t.crew name = some n ∧ nodeAt t.crew n = some x ∧ nodeAt s.crew n = none ∧
            x = ⟨kind, rows, cols, fmt, s.frag.fmt, (s.frag.clause, pcParcel s.frag), srcs, s.crew.tiles.seq⟩
  names : ∀ k, k ≠ name → boundNode t.crew k = boundNode s.crew k ∧
            ∀ m y, boundNode s.crew k = some m → nodeAt s.crew m = some y → nodeAt t.crew m = some y
  reads : ∀ m ∈ srcs, ∀ y, nodeAt s.crew m = some y → nodeAt t.crew m = some y
  crew  : { t.crew with tiles := s.crew.tiles } = s.crew ∧ t.crew.tiles.mark = s.crew.tiles.mark
  rest  : t.dev = s.dev ∧ t.wave = s.wave ∧ GoesOn s t

/-- R400, R406: an entry of the thunk partition, and for a view of the 64 views, is free. -/
def entryFree (s : State) (view : Bool) : Prop :=
  s.crew.tiles.nodes.length < s.crew.thunkMax ∧ s.crew.thunkMax ≤ 256 ∧
    (view = true → (s.crew.tiles.nodes.filter (fun p => isView p.2)).length < 64)

/-- A dimension R386 allows. -/
def dimension (n : Nat) : Prop := 1 ≤ n ∧ n ≤ 16384

/-- R383, R386 to R388: TDEF.VIEW and TDEF.CONST: the checks in their order, 0x08, 0x07, then 0x05 or 0x06 by the view's
space, 0x0C without a partition; else the leaf is appended, a NaN constant as the canonical one. -/
def tileLeaves : Prop :=
  ∀ s (f : BitVec 4) a b,
    (Admitted (.tdefView f a b) .matrix s →
      let w := fun k => (readS s (b.toNat - 0x80 + k)).toNat
      let sg := fun k => (readS s (b.toNat - 0x80 + k)).toInt
      let space := w 7
      let base := if space = 0 then w 0 + 2 ^ 32 * w 1 else w 0
      let cols := w 2 % 65536
      let d1 := w 2 / 65536
      let d2 := w 3 % 65536
      let d3 := w 3 / 65536
      let rows := d1 * d2 * d3
      let z := tileSizeOf f.toNat
      let kind := NodeKind.view base d1 d2 d3 (sg 4) (sg 5) (sg 6) space
      let low := fun (d : Nat) (x : Int) => min 0 ((d - 1 : Int) * x)
      let high := fun (d : Nat) (x : Int) => max 0 ((d - 1 : Int) * x)
      let lo : Int := base + low d1 (sg 4) + low d2 (sg 5) + low d3 (sg 6)
      let hi : Int := base + high d1 (sg 4) + high d2 (sg 5) + high d3 (sg 6) + cols * z
      let legal := space ≤ 2 ∧ dimension cols ∧ dimension d1 ∧ dimension d2 ∧ dimension d3 ∧ rows ≤ 16384 ∧ rows * cols ≤ 16777216
      let aligned := base % z = 0 ∧ w 4 % z = 0 ∧ w 5 % z = 0 ∧ w 6 % z = 0
      let inside := 0 ≤ lo ∧ (space = 0 → rangeCanonical lo.toNat (hi - lo).toNat = true) ∧
        (space = 1 → hi ≤ s.crew.scratchSize) ∧ (space = 2 → hi ≤ s.crew.tiles.mark)
      (¬ legal → exec (.tdefView f a b) s = .next (takeTrap s 0x08 false)) ∧
      (legal → ¬ aligned → exec (.tdefView f a b) s = .next (takeTrap s 0x07 false)) ∧
      (legal → aligned → ¬ inside → exec (.tdefView f a b) s = .next (takeTrap s (if space = 0 then 0x05 else 0x06) false)) ∧
      (legal → aligned → inside → s.crew.thunkMax = 0 → exec (.tdefView f a b) s = .next (takeTrap s 0x0C false)) ∧
      (legal → aligned → inside → entryFree s true →
        ∃ t, exec (.tdefView f a b) s = .next t ∧ Appends s t a.toNat kind rows cols f.toNat [])) ∧
    (Admitted (.tdefConst a b) .matrix s →
      let x := readS s (b.toNat - 0x80)
      let w := (readS s (b.toNat - 0x80 + 1)).toNat
      
      (shapeOk (w / 65536) (w % 65536) = false → exec (.tdefConst a b) s = .next (takeTrap s 0x08 false)) ∧
      (shapeOk (w / 65536) (w % 65536) = true → s.crew.thunkMax = 0 → exec (.tdefConst a b) s = .next (takeTrap s 0x0C false)) ∧
      (shapeOk (w / 65536) (w % 65536) = true → entryFree s false →
        ∃ t, exec (.tdefConst a b) s = .next t ∧ Appends s t a.toNat
          (.const (if x.extractLsb' 23 8 = 0xFF#8 ∧ x.extractLsb' 0 23 ≠ 0#23 then 0x7FC00000#32 else x)) (w / 65536) (w % 65536) 15 []))

/-- R389 to R393, R406: TOP and TMAP on bound names with shapes and formats their tables take append the operation's node;
on others they are illegal instructions; in a crew without a thunk partition they take the thunk-full fault before that. -/
def tileOperations : Prop :=
  ∀ s d a b p,
    (Admitted (.top d a b p) .matrix s →
      let two := topBinary p
      let srcs : Option (Nat × Nat) := (boundNode s.crew a.toNat).bind (fun n =>
        if two then (boundNode s.crew b.toNat).map (fun m => (n, m)) else some (n, n))
      let shape := fun q : Nat × Nat => (nodeAt s.crew q.1).bind (fun x => (nodeAt s.crew q.2).bind (fun y =>
        topShape p.toNat s.frag.fmt x y))
      (∀ q r, srcs = some q → shape q = some r → shapeOk r.1 r.2.1 = true → entryFree s false →
        ∃ t, exec (.top d a b p) s = .next t ∧
          Appends s t d.toNat (.top p.toNat) r.1 r.2.1 r.2.2 (if two then [q.1, q.2] else [q.1])) ∧
      (s.crew.thunkMax = 0 → exec (.top d a b p) s = .next (takeTrap s 0x0C false)) ∧
      (s.crew.thunkMax ≠ 0 →
        (srcs = none ∨ ∃ q, srcs = some q ∧ (shape q = none ∨ ∃ r, shape q = some r ∧ shapeOk r.1 r.2.1 = false)) →
        exec (.top d a b p) s = .next (takeTrap s 0x08 false))) ∧
    (Admitted (.tmap d a b p) .matrix s →
      
      let ps := (List.range (tmapParams p)).map (fun k => readS s (b.toNat + k))
      let src := (boundNode s.crew a.toNat).bind (fun n => (nodeAt s.crew n).map (fun x => (n, x)))
      (∀ n x r, src = some (n, x) → mapShape p.toNat ps x.rows x.cols = some r → entryFree s false →
        ∃ t, exec (.tmap d a b p) s = .next t ∧ Appends s t d.toNat (.tmap p.toNat ps) r.1 r.2 x.fmt [n]) ∧
      (s.crew.thunkMax = 0 → exec (.tmap d a b p) s = .next (takeTrap s 0x0C false)) ∧
      (s.crew.thunkMax ≠ 0 → (src = none ∨ ∃ n x, src = some (n, x) ∧ mapShape p.toNat ps x.rows x.cols = none) →
        exec (.tmap d a b p) s = .next (takeTrap s 0x08 false)))

/-- Deferred operations (R383 to R393). -/
def Obligations.TileMaps : Prop := tileLeaves ∧ tileOperations

/-- The node a name is bound to. -/
def namedNode (s : State) (a : BitVec 8) : Option (Nat × TNode) :=
  (boundNode s.crew a.toNat).bind (fun n => (nodeAt s.crew n).map (fun x => (n, x)))

/-- R395 to R397: TDEM.STORE and FORCE of a region inside the node issue, with none of its blocks done; an empty region
only goes on, its base checked first (the model's choice for a STORE, assumption 89); the checks are in their order. -/
def demandsIssue : Prop :=
  ∀ s (f : BitVec 4) a b, FlagFree s →
    let bl := (List.range 8).map (fun k => readS s (b.toNat - 0x80 + k))
    let w := fun k => (readS s (b.toNat - 0x80 + k)).toNat
    let free := fun r => ∀ x ∈ s.crew.tiles.nodes, isView x.2 = true → ∀ q ∈ r, meetsView x.2 q = false
    (Admitted (.tdemStore f a b) .matrix s →
      let z := tileSizeOf f.toNat
      let base := w 4 + 2 ^ 32 * w 5
      let len := (w 2 - 1) * w 6 + w 3 * z
      (namedNode s a = none → exec (.tdemStore f a b) s = .next (takeTrap s 0x08 false)) ∧
      ∀ n x, namedNode s a = some (n, x) →
        let legal := w 0 + w 2 ≤ x.rows ∧ w 1 + w 3 ≤ x.cols ∧ w 7 ≤ 1
        let aligned := base % z = 0 ∧ w 6 % z = 0
        let empty := w 2 = 0 ∨ w 3 = 0
        let inside := if w 7 = 0 then rangeCanonical base len = true else base + len ≤ s.crew.scratchSize
        let start := if w 7 = 0 then canonical (BitVec.ofNat 64 base) = true else base ≤ s.crew.scratchSize
        (¬ legal → exec (.tdemStore f a b) s = .next (takeTrap s 0x08 false)) ∧
        (legal → ¬ aligned → exec (.tdemStore f a b) s = .next (takeTrap s 0x07 false)) ∧
        (legal → aligned → empty → start → exec (.tdemStore f a b) s = .next (advance s)) ∧
        (legal → aligned → (empty ∧ ¬ start ∨ ¬ empty ∧ ¬ inside) → exec (.tdemStore f a b) s = .next (takeTrap s (if w 7 = 0 then 0x05 else 0x06) false)) ∧
        (legal → aligned → ¬ empty → inside → free ((List.range (w 2)).map (fun r => (w 7, base + r * w 6, w 3 * z))) →
          ∃ t op, exec (.tdemStore f a b) s = .next t ∧ Issued s t op ∧ op.lanes = s.frag.lanes ∧ op.dstV = [] ∧
            op.body = .demand (DemandOp.start (.store f.toNat base (w 6) (w 7)) n (w 0) (w 1) (w 2) (w 3) bl
              (behindWrites s.crew s.crew.nextOp n)))) ∧
    (Admitted (.tdemForce a b) .matrix s →
      
      (namedNode s a = none → exec (.tdemForce a b) s = .next (takeTrap s 0x08 false)) ∧
      ∀ n x, namedNode s a = some (n, x) →
        let legal := w 0 + w 2 ≤ x.rows ∧ w 1 + w 3 ≤ x.cols
        let inside := w 4 + 4 * w 2 * w 3 ≤ s.crew.tiles.mark
        (¬ legal → exec (.tdemForce a b) s = .next (takeTrap s 0x08 false)) ∧
        (legal → w 4 % 4 ≠ 0 → exec (.tdemForce a b) s = .next (takeTrap s 0x07 false)) ∧
        (legal → w 4 % 4 = 0 → ¬ inside → exec (.tdemForce a b) s = .next (takeTrap s 0x06 false)) ∧
        (legal → w 4 % 4 = 0 → inside → (w 2 = 0 ∨ w 3 = 0) → exec (.tdemForce a b) s = .next (advance s)) ∧
        (legal → w 4 % 4 = 0 → inside → w 2 ≠ 0 → w 3 ≠ 0 → free [(2, w 4, 4 * w 2 * w 3)] →
          ∃ t op, exec (.tdemForce a b) s = .next t ∧ Issued s t op ∧ op.lanes = s.frag.lanes ∧ op.dstV = [] ∧
            op.body = .demand (DemandOp.start (.force (w 4)) n (w 0) (w 1) (w 2) (w 3) bl
              (behindWrites s.crew s.crew.nextOp n))))

/-- R399, R400: DROP unbinds the name and no other; QUERY writes the node's shape and the partition's counts to its pair;
DISCARD, once every earlier access to them is done, moves the tile mark over bytes, which it loses; it keeps every other. -/
def tileControls : Prop :=
  ∀ s a b,
    (Admitted (.tdemDrop a) .matrix s →
      ∃ t, exec (.tdemDrop a) s = .next t ∧ GoesOn s t ∧ t.dev = s.dev ∧ t.wave = s.wave ∧ boundNode t.crew a.toNat = none ∧
        { t.crew with tiles := s.crew.tiles } = s.crew ∧ t.crew.tiles.mark = s.crew.tiles.mark ∧
        ∀ k, k ≠ a.toNat → boundNode t.crew k = boundNode s.crew k ∧
          ∀ m y, boundNode s.crew k = some m → nodeAt s.crew m = some y → nodeAt t.crew m = some y) ∧
    (Admitted (.tdemQuery a b) .matrix s →
      let nodes := s.crew.tiles.nodes
      let w0 := match namedNode s a with | some y => y.2.rows + 65536 * y.2.cols | none => 0
      let mat := match namedNode s a with | some y => (matVals y.2).isSome | none => false
      let w1 := nodes.length + 512 * (nodes.filter (fun p => isView p.2)).length + (if mat then 65536 else 0) +
        (if (namedNode s a).isSome then 131072 else 0) + 262144 * engKib s.crew
      let r := b.toNat - 0x80
      ∃ t, exec (.tdemQuery a b) s = .next t ∧ GoesOn s t ∧ Kept s t ∧ SameLanes s t [] ∧ SameScalars s t [r, r + 1] ∧
        SameMasks s t [] ∧ t.wave.flg = s.wave.flg ∧
        scalarReg t r = BitVec.ofNat 32 w0 ∧ scalarReg t (r + 1) = BitVec.ofNat 32 w1) ∧
    (Admitted (.tdemDiscard b) .matrix s →
      let h := (readS s (b.toNat - 0x80)).toNat
      let c := s.crew
      let legal := h % 1024 = 0 ∧ h ≤ c.tileSize
      let lo := min c.tiles.mark h
      let hi := max c.tiles.mark h
      let busy := c.ops.any (fun o => regionsClash (tileRegions c o) [(lo, hi - lo, true)]) = true
      (¬ legal → exec (.tdemDiscard b) s = .next (takeTrap s 0x08 false)) ∧
      (legal → c.tileSize - 1024 * engKib c < h → exec (.tdemDiscard b) s = .next (takeTrap s 0x0C false)) ∧
      (legal → h ≤ c.tileSize - 1024 * engKib c → busy → exec (.tdemDiscard b) s = .next { s with frag := { s.frag with status := .stalled } }) ∧
      (legal → h ≤ c.tileSize - 1024 * engKib c → ¬ busy →
        ∃ t, exec (.tdemDiscard b) s = .next t ∧ GoesOn s t ∧ t.dev = s.dev ∧ t.wave = s.wave ∧ t.crew.tiles = { c.tiles with mark := h } ∧
          { t.crew with tiles := c.tiles, tile := c.tile } = c ∧
          ∀ x, x < lo ∨ hi ≤ x → tabGet 0#8 t.crew.tile x = tabGet 0#8 c.tile x))

/-- Demands and the partition's controls (R395 to R400). -/
def Obligations.TileDemands : Prop := demandsIssue ∧ tileControls

/-- The translations of a demand's current block: those of its views' elements, then those of a STORE's own writes. -/
def blockReads (s : State) (c : Crew) (o : Op) (d : DemandOp) : Io :=
  let q := blockRect d d.done
  let skip := unitSkips o (blockTouches c d q)
  (destTouches d q).foldl (ioTouch (opAsker c o) c.ctx skip)
    (openLeaves (opAsker c o) c.ctx skip c (carryBack c.tiles.nodes d.node q)
      (Io.start (stow s).dev s.nfree (demandMarks (stow s).dev c o d).1, none, none)).1

/-- What a demand of a node of format `code` writes for each element of its current block, row by row: a STORE the element
rounded to its format, FORCE and a forcing its FP32 pattern (R397, R405). -/
def blockValues (s : State) (c : Crew) (o : Op) (d : DemandOp) (code : Nat) : List Word :=
  let q := blockRect d d.done
  let el := fun r k => elemOf c.tiles.nodes (leafBits c (blockReads s c o d) (demandMarks (stow s).dev c o d).2) 257 d.node r k
  (List.range (q.r1 - q.r0 + 1)).flatMap (fun r => (List.range (q.c1 - q.c0 + 1)).map (fun k =>
    match d.kind with
    | .store f _ _ _ => BitVec.ofNat 32 (storedElem o.fmt f code (el (q.r0 + r) (q.c0 + k))).bits
    | .force _ => elemWord code (el (q.r0 + r) (q.c0 + k))
    | .own => elemWord code (el (q.r0 + r) (q.c0 + k))))

/-- R397, R398: the current block of a demand, its pages at hand, is evaluated: its values stand ready, and nothing is
written; any other block, and one whose turn has not come, changes nothing; after the last one the demand is complete. -/
def demandsRun : Prop :=
  ∀ s uid id c o d x, EngineOp s uid id c o → o.body = .demand d → d.kind ≠ .own → nodeAt c d.node = some x →
    let blocks := blockCount d.row0 d.col0 d.rows d.cols
    let due := d.done < blocks ∧ demandTurn c o d = true
    (∀ b, b ≠ d.done ∨ ¬ due → exec (.demandBlock uid id b) s = .next (stow s)) ∧
    (due → d.vals = [] → (blockReads s c o d).good = true →
      ∃ t c' o' es, exec (.demandBlock uid id d.done) s = .next t ∧ findCrew t.dev uid = some c' ∧ findOp c' id = some o' ∧
        o'.body = .demand { d with vals := blockValues s c o d x.fmt, evts := es, part := [] } ∧ c'.waves = c.waves ∧
        c'.tiles = c.tiles ∧ c'.tile = c.tile ∧ c'.scratch = c.scratch ∧ c'.mx = c.mx ∧ ∀ a, byteAt t.dev a = byteAt s.dev a) ∧
    (d.done < blocks → exec (.tdemComplete uid id) s = .next (stow s)) ∧
    (blocks ≤ d.done → ∃ t c', exec (.tdemComplete uid id) s = .next t ∧ findCrew t.dev uid = some c' ∧
      Completed c c' o [] [] ∧ c'.tile = c.tile ∧ c'.scratch = c.scratch ∧ ∀ a, byteAt t.dev a = byteAt s.dev a)

/-- R121, R124, R397: the writes of a block: each element's bytes stand among the words in the place R397 gives. -/
def blockPlaces : Prop :=
  ∀ (d : DemandOp) (q : Rect) r k j, q.r0 ≤ r → r ≤ q.r1 → q.c0 ≤ k → k ≤ q.c1 → d.col0 ≤ q.c0 → d.kind ≠ .own →
    d.vals.length = (q.r1 - q.r0 + 1) * (q.c1 - q.c0 + 1) →
    let x := (d.vals.getD ((r - q.r0) * (q.c1 - q.c0 + 1) + (k - q.c0)) 0#32).toNat
    let there := fun (a : Nat) => ∃ w ∈ blockWrites d q, ∃ i, w.1 + i = a + j ∧ w.2[i]? = some (BitVec.ofNat 8 (x / 256 ^ j))
    (∀ f base stride space, d.kind = .store f base stride space → j < tileSizeOf f →
      there (base + (r - d.row0) * stride + (k - d.col0) * tileSizeOf f)) ∧
    (∀ h, d.kind = .force h → j < 4 → there (h + 4 * ((r - d.row0) * d.cols + (k - d.col0))))

/-- R121, R124, R397, R398: an evaluated block whose destination's pages are at hand writes some of its words that are still
to be written, at least one, in memory, the scratchpad or the tile store, and no other byte; once all are written, one
block more is done, and the counters count its events. -/
def blocksWritten : Prop :=
  ∀ s uid id c o d x, EngineOp s uid id c o → o.body = .demand d → d.kind ≠ .own → nodeAt c d.node = some x →
    d.done < blockCount d.row0 d.col0 d.rows d.cols → demandTurn c o d = true → d.vals ≠ [] →
    let q := blockRect d d.done
    let ws := blockWrites d q
    let io := ioOpen (stow s).dev (opAsker c o) c.ctx s.nfree o.memMark true (destTouches d q)
    let mem := match d.kind with | .store _ _ _ space => decide (space = 0) | .force _ => false | .own => false
    let pad := match d.kind with | .store _ _ _ space => decide (space ≠ 0) | .force _ => false | .own => false
    let place := fun a => if mem then (io.place true a).1 else a
    io.good = true →
    (∀ w ∈ ws, ∀ v ∈ ws, ∀ i < w.2.length, ∀ j < v.2.length, place (w.1 + i) = place (v.1 + j) → w = v ∧ i = j) →
    ∃ t c' o', ∃ W : List Nat, exec (.demandBlock uid id d.done) s = .next t ∧ findCrew t.dev uid = some c' ∧
      findOp c' id = some o' ∧ (∀ k ∈ W, k < ws.length ∧ k ∉ d.part) ∧
      let whole := ∀ k < ws.length, k ∈ W ∨ k ∈ d.part
      (W ≠ [] ∨ whole) ∧ (¬ whole → o'.body = .demand { d with part := d.part ++ W } ∧ c'.mx = c.mx) ∧
      (whole → o'.body = .demand { d with vals := [], evts := [], part := [], done := d.done + 1 } ∧
        c'.mx = addTotals c.mx d.evts) ∧ c'.waves = c.waves ∧ c'.tiles = c.tiles ∧
      let puts := fun a b => ∃ k ∈ W, ∃ w, ws[k]? = some w ∧ ∃ i, w.2[i]? = some b ∧ a = place (w.1 + i)
      let kept := fun a => ∀ b, ¬ puts a b
      (∀ a, (mem = true → linePoisoned s.dev (a / 128) = false → ∀ b, puts a b → byteAt t.dev a = b) ∧
        (mem = false ∨ kept a → byteAt t.dev a = byteAt s.dev a) ∧
        (pad = true → ∀ b, puts a b → tabGet 0#8 c'.scratch a = b) ∧
        (pad = false ∨ kept a → tabGet 0#8 c'.scratch a = tabGet 0#8 c.scratch a) ∧
        (mem = false → pad = false → ∀ b, puts a b → tabGet 0#8 c'.tile a = b) ∧
        (mem = true ∨ pad = true ∨ kept a → tabGet 0#8 c'.tile a = tabGet 0#8 c.tile a))

/-- R405, R407: a forcing computes its node block by block; after the last block a node that some name is bound to becomes a
materialised one, with every element's FP32 pattern and no node read, and its forcing is over. -/
def nodeMaterialises : Prop :=
  ∀ s uid n c o d y k, findCrew (stow s).dev uid = some c → c.state ≠ .saved →
    (demandsOf c).find? (fun e => e.2.kind == .own && e.2.node == n && e.1.status == .inflight) = some (o, d) → nodeAt c n = some y →
    (∀ p ∈ c.ops, p.id = o.id → p = o) → o.status = .inflight → heldLanes c.ops o &&& o.order = 0#96 →
    demandTurn c o d = true → fitsEngine c y = true → boundNode c k = some n → (blockReads s c o d).good = true →
    let vals := d.vals ++ blockValues s c o d y.fmt
    let blocks := blockCount d.row0 d.col0 d.rows d.cols
    ∃ t c', exec (.materialise uid n) s = .next t ∧ findCrew t.dev uid = some c' ∧
      (d.done + 1 < blocks → nodeAt c' n = some y ∧ ∃ o', findOp c' o.id = some o' ∧ o'.status = .inflight ∧
        o'.body = .demand { d with done := d.done + 1, vals := vals }) ∧
      (blocks ≤ d.done + 1 → findOp c' o.id = none ∧ ∃ vs : List Word, nodeAt c' n = some { y with srcs := [], kind := .mat vs } ∧
        vs.length = y.rows * y.cols ∧
        ∀ i j, i < y.rows → j < y.cols → vs.getD (i * y.cols + j) 0#32 = vals.getD (matPlace y.rows y.cols i j) 0#32) ∧
      c'.tile = c.tile ∧ c'.scratch = c.scratch ∧ ∀ a, byteAt t.dev a = byteAt s.dev a

/-- Evaluation of deferred tiles (R397, R398, R405, R407). -/
def Obligations.TileEvaluation : Prop := demandsRun ∧ blockPlaces ∧ blocksWritten ∧ nodeMaterialises

/-! ### Chain engine -/

/-- R422: a CH instruction takes its place: with nothing before it in the crew's chain it takes effect at once, and behind
an operation it waits its turn; nothing else changes. -/
structure Queues (s t : State) (i : ChainItem) (h : ChainState) : Prop where
  atOnce : s.crew.chainQ = [] → t.crew.chain = h ∧ t.crew.chainQ = []
  behind : ∀ n rest, s.crew.chainQ = .op n :: rest → t.crew.chain = s.crew.chain ∧ t.crew.chainQ = s.crew.chainQ ++ [i]
  crew   : { t.crew with chain := s.crew.chain, chainQ := [] } = { s.crew with chainQ := [] }
  rest   : t.dev = s.dev ∧ { t.wave with clkHi := none } = { s.wave with clkHi := none } ∧ GoesOn s t

/-- A mode list of eight bytes (R423): valid bytes first, each mode below 32 with bit 7 set, no mode twice. -/
def modesNamed (x : Nat) (modes : List Nat) : Prop :=
  modes.length ≤ 8 ∧ modes.Nodup ∧ (∀ m ∈ modes, m < 32) ∧
    ∀ i < 8, x / 256 ^ i % 256 = (match modes[i]? with | some m => m + 128 | none => x / 256 ^ i % 256 % 32)

/-- R413, R414, R422 to R424, R427: BIND, BOND, MODE and RESET change the chain state in its order; a bad operand is an
illegal instruction, and BIND's later checks trap 0x07, 0x05 and 0x06; QUERY writes the state to four registers; STEP, RUN
and ENV issue and take their turn. -/
def chainInstructions : Prop :=
  ∀ s a b,
    (Admitted (.chBind a b) .matrix s →
      let p := a.toNat - 0x80
      let desc := readS64 s p
      let w2 := (readS s (p + 2)).toNat
      let w3 := (readS s (p + 3)).toNat
      let bbase := w2 % 2 ^ 20
      let breg := w2 / 2 ^ 24 % 32
      let bsz := w3 % 2 ^ 20
      let bf := w3 / 2 ^ 20 % 4
      ∀ modes, modesNamed (readS64 s (b.toNat - 0x80)).toNat modes →
        let bytes := (modes.map (mdOf (chainLast s.crew))).foldl (· * ·) 1 * bdOf (chainLast s.crew) breg * (if bf = 0 then 4 else 2)
        let legal := bbase % 128 = 0 ∧ w2 / 2 ^ 20 % 16 = 0 ∧ w2 / 2 ^ 29 = 0 ∧ bsz % 128 = 0 ∧ 128 ≤ bsz ∧ bsz ≤ 524288 ∧
          bf ≤ 2 ∧ w3 / 2 ^ 22 = 0 ∧ bytes ≤ bsz
        (¬ legal → exec (.chBind a b) s = .next (takeTrap s 0x08 false)) ∧
        (legal → desc.toNat % 64 ≠ 0 → exec (.chBind a b) s = .next (takeTrap s 0x07 false)) ∧
        (legal → desc.toNat % 64 = 0 → canonical desc = false → exec (.chBind a b) s = .next (takeTrap s 0x05 false)) ∧
        (legal → desc.toNat % 64 = 0 → canonical desc = true → s.crew.scratchSize < bbase + bsz →
          exec (.chBind a b) s = .next (takeTrap s 0x06 false)) ∧
        (legal → desc.toNat % 64 = 0 → canonical desc = true → bbase + bsz ≤ s.crew.scratchSize →
          ∃ t, exec (.chBind a b) s = .next t ∧ Queues s t (.bind desc bbase bsz breg bf modes bytes)
            { s.crew.chain with bound := true, desc := desc, bbase := bbase, bsz := bsz, modes := modes, breg := breg, bf := bf,
                                cur := 0, snap := 0, bytes := bytes })) ∧
    (∀ i ∈ [Instr.chBond a b, .chMode a b], Admitted i .matrix s →
      let u := latchClk s (uniformCodes i)
      let x := (readSrc u a 0).toNat
      let top := if i = .chBond a b then 256 else 64
      let h := s.crew.chain
      (x = 0 ∨ top < x → exec i s = .next (takeTrap u 0x08 false)) ∧
      (1 ≤ x → x ≤ top → ∃ t g, exec i s = .next t ∧
        Queues s t (if i = .chBond a b then .bond b.toNat x else .mode b.toNat x) g ∧
        (∀ r, bdOf g r = if i = .chBond a b ∧ r = b.toNat then x else bdOf h r) ∧
        (∀ r, mdOf g r = if i = .chMode a b ∧ r = b.toNat then x else mdOf h r) ∧
        { g with bd := [], md := [] } = { h with bd := [], md := [] })) ∧
    (Admitted .chReset .matrix s → ∃ t, exec .chReset s = .next t ∧ Queues s t .reset ChainState.reset) ∧
    (Admitted (.chQuery a) .matrix s →
      let h := s.crew.chain
      let r := a.toNat - 0x80
      let l := ((List.range 8).map (fun k => match h.modes[k]? with | some m => (m + 128) * 256 ^ k | none => 0)).sum
      let w0 := h.cur + (if s.crew.ops.any (fun o => (chainOf o).isSome) then 2 ^ 20 else 0) + (if h.bound then 2 ^ 21 else 0) +
        h.bf * 2 ^ 22 + h.breg * 2 ^ 24
      h.modes.length ≤ 8 →
      ∃ t, exec (.chQuery a) s = .next t ∧ GoesOn s t ∧ Kept s t ∧ SameLanes s t [] ∧ SameScalars s t [r, r + 1, r + 2, r + 3] ∧
        SameMasks s t [] ∧ t.wave.flg = s.wave.flg ∧ scalarReg t r = BitVec.ofNat 32 w0 ∧
        scalarReg t (r + 1) = BitVec.ofNat 32 (h.bytes + h.modes.length * 2 ^ 20) ∧
        scalarReg t (r + 2) = BitVec.ofNat 32 l ∧ scalarReg t (r + 3) = BitVec.ofNat 32 (l / 2 ^ 32)) ∧
    (∀ i ∈ [Instr.chStep a, .chRun a b, .chEnv a], Admitted i .matrix s → FlagFree s →
      let u := latchClk s (uniformCodes i)
      let w := readS64 s (a.toNat - 0x80)
      let n := readSrc u b 0
      let buf := chainBuf s.dev s.crew.job
      let legal := (chainLast s.crew).bound = true ∧ (match i with
        | .chStep _ => w.toNat / 2 ^ 28 = 0 ∧ w.toNat % 32 ≠ 31
        | .chRun _ _ => 1 ≤ n.toNat ∧ n.toNat ≤ 64
        | _ => buf ≠ 0 ∧ buf % 64 = 0)
      let body : ChainOp := match i with
        | .chStep _ => ChainOp.start 3 w 0#32 1 w true
        | .chRun _ _ => ChainOp.start 4 w n n.toNat 0#64 false
        | _ => ChainOp.start 5 ((readSrc u a 0).setWidth 64) 0#32 0 0#64 false
      (¬ legal → exec i s = .next (takeTrap u 0x08 false)) ∧
      (legal → i = .chRun a b → w.toNat % 8 ≠ 0 → exec i s = .next (takeTrap u 0x07 false)) ∧
      (legal → i = .chRun a b → w.toNat % 8 = 0 → rangeCanonical w.toNat (8 * n.toNat) = false →
        exec i s = .next (takeTrap u 0x05 false)) ∧
      (legal → (i = .chRun a b → w.toNat % 8 = 0 ∧ rangeCanonical w.toNat (8 * n.toNat) = true) →
        ∃ t op, exec i s = .next t ∧ Issued s { t with crew := { t.crew with chainQ := s.crew.chainQ } } op ∧
          t.crew.chainQ = s.crew.chainQ ++ [.op op.id] ∧ op.body = .chain body ∧ op.lanes = s.frag.lanes ∧ op.dstV = []))

/-- R413, R422 to R427: where BOND, MODE, STEP, RUN and ENV complete: with a size in its range, and, for the operations, a
bound chain, a step word without a reserved field, at least one and at most 64 words at an aligned and canonical address, a
CHAINBUF, and the flag's counter below 63; the operation stands at the end of the chain's queue. -/
def chainIssues : Prop :=
  ∀ s a b, let bond := (readSrc (latchClk s [a]) a 0).toNat
    let w := readS64 s (a.toNat - 0x80)
    let n := (readSrc (latchClk s [a, b]) b 0).toNat
    let buf := chainBuf s.dev s.crew.job
    let queued := fun (t : State) (sub : Nat) => GoesOn s t ∧ ∃ op h, t.crew.chainQ = s.crew.chainQ ++ [.op op.id] ∧
      t.crew.ops = s.crew.ops ++ [op] ∧ op.status = .inflight ∧ op.flag = some (flagHere s.frag) ∧ op.body = .chain h ∧
      h.sub = sub ∧ h.sdone = 0
    (Admitted (.chBond a b) .matrix s → 1 ≤ bond → bond ≤ 256 → ∃ t, exec (.chBond a b) s = .next t ∧ GoesOn s t ∧
      (s.crew.chainQ = [] → bdOf t.crew.chain b.toNat = bond)) ∧
    (Admitted (.chMode a b) .matrix s → 1 ≤ bond → bond ≤ 64 → ∃ t, exec (.chMode a b) s = .next t ∧ GoesOn s t ∧
      (s.crew.chainQ = [] → mdOf t.crew.chain b.toNat = bond)) ∧
    (FlagFree s → (chainLast s.crew).bound = true →
      (Admitted (.chStep a) .matrix s → w.toNat / 2 ^ 28 = 0 → w.toNat % 32 ≠ 31 →
        ∃ t, exec (.chStep a) s = .next t ∧ queued t 3) ∧
      (Admitted (.chRun a b) .matrix s → 1 ≤ n → n ≤ 64 → w.toNat % 8 = 0 → rangeCanonical w.toNat (8 * n) = true →
        ∃ t, exec (.chRun a b) s = .next t ∧ queued t 4) ∧
      (Admitted (.chEnv a) .matrix s → buf ≠ 0 → buf % 64 = 0 → ∃ t, exec (.chEnv a) s = .next t ∧ queued t 5))

/-- The aligned words that n bytes from a on lie in, and the number among them of the word of the byte at x. -/
def wordCount (a n : Nat) : Nat := if n = 0 then 0 else (a + n - 1) / 4 - a / 4 + 1

/-- R121, R418: operation id of crew c, with these words of its new boundary written before, writes some of the others, at
least one: bytes `bs` from `a` on in the scratchpad; with the last of them the step is done, the chain state is `st`, and
the counters count its events; nothing else of the crew, its waves and memory changes. -/
def writesBoundary (s t : State) (uid id : Nat) (c : Crew) (h : ChainOp) (part : List Nat) (a : Nat) (bs : List Byte)
    (events : List Nat) (st : ChainState) : Prop :=
  ∃ c' o' h', ∃ W : List Nat, findCrew t.dev uid = some c' ∧ findOp c' id = some o' ∧ o'.body = .chain h' ∧
    (∀ k ∈ W, k < wordCount a bs.length ∧ k ∉ part) ∧
    let whole := ∀ k < wordCount a bs.length, k ∈ W ∨ k ∈ part
    (W ≠ [] ∨ whole) ∧
    (whole → h'.sdone = h.sdone + 1 ∧ c'.chain = st ∧ c'.mx = addTotals c.mx events) ∧
    (¬ whole → h'.sdone = h.sdone ∧ h'.part = part ++ W ∧ h'.out = some (bs, events) ∧ c'.chain = c.chain ∧ c'.mx = c.mx) ∧
    (∀ x, tabGet 0#8 c'.scratch x = if a ≤ x ∧ x < a + bs.length ∧ x / 4 - a / 4 ∈ W then bs.getD (x - a) 0#8
      else tabGet 0#8 c.scratch x) ∧
    c'.waves = c.waves ∧ c'.chainQ = c.chainQ ∧ ∀ x, byteAt t.dev x = byteAt s.dev x

/-- R416 to R418, R424: the operation at the head of a crew's chain, with steps left, its descriptor and its core's bytes
at hand, R419's checks passed, without a barrier or a snapshot to wait for, takes a step: the new boundary's elements go to
their place in the scratchpad, and, all of them written, the chain state names it; a boundary partly written goes on. -/
def chainSteps : Prop :=
  ∀ s uid id c o h, EngineOp s uid id c o → chainHead c = some id → o.body = .chain h →
    (h.steps ≤ h.sdone → exec (.chainStep uid) s = .next (stow s)) ∧
    (h.sdone < h.steps → h.entry = [] → h.dst = none → h.out = none →
      let opened := fun d ts => ioOpen d (opAsker c o) c.ctx s.nfree o.memMark (unitSkips o ts) ts
      let ra := opened (stow s).dev [⟨h.x.toNat + 8 * h.sdone, 8, false⟩]
      let word := if h.got then h.word.toNat else ra.nat (h.x.toNat + 8 * h.sdone) 8 % 2 ^ 64
      let w := StepWord.ofNat word
      let st := c.chain
      let rd := opened (if h.got then (stow s).dev else ra.dev)
        [⟨st.desc.toNat, 32, false⟩, ⟨st.desc.toNat + 32 + 32 * w.core, 32, false⟩]
      let hd := rd.read st.desc.toNat 32
      let e := CoreEntry.ofBytes (rd.read (st.desc.toNat + 32 + 32 * w.core) 32)
      let rc := opened rd.dev (if e.space then [] else [⟨e.addr, e.cbytes, false⟩])
      let dims := stepDims st o.fmt w
      let pad := fun a n => (List.range n).map (fun i => scratchSince c o.scMark s.nfree (a + i))
      let core := if e.space then pad e.addr e.cbytes else rc.read e.addr e.cbytes
      let zOld := if st.bf = 0 then 4 else 2
      let z := if fmtACC o.fmt = 0 then 4 else 2
      let out := stepResult st o.fmt w dims e (fun k => natLE (pad (st.bbase + st.cur + zOld * k) zOld)) core
      (h.got = false → ra.good = true) → rd.good = true → rc.good = true →
      stepCheck c st o.fmt (chainBuf rd.dev c.job) (natLE (hd.take 1)) ((hd.drop 1).any (fun b => b != 0#8)) w e = none →
      w.e = false → e.wb = false →
      ∀ dst, stepPlace st dims.bytes = some dst →
        ∃ t bs, exec (.chainStep uid) s = .next t ∧ bs.length = z * out.length ∧
          (∀ k (hk : k < out.length), ∀ j < z, bs.getD (z * k + j) 0#8 = BitVec.ofNat 8 (out[k].1 / 256 ^ j)) ∧
          writesBoundary s t uid id c h [] (st.bbase + dst) bs (eventTotals (out.map Prod.snd))
            { st with modes := dims.modes, breg := w.bo, bf := fmtACC o.fmt, cur := dst, bytes := dims.bytes }) ∧
    (h.sdone < h.steps → h.entry ≠ [] → h.got = true → ∀ dst out, h.dst = some dst → h.out = some out →
      let w := StepWord.ofNat h.word.toNat
      let dims := stepDims c.chain o.fmt w
      ∃ t, exec (.chainStep uid) s = .next t ∧
        writesBoundary s t uid id c h h.part (c.chain.bbase + dst) out.1 out.2
          { c.chain with modes := dims.modes, breg := w.bo, bf := fmtACC o.fmt, cur := dst, bytes := dims.bytes })

/-- R121, R425, R426: the operation at the head of the chain with no step left is complete, and those behind it take their
turn; ENV first writes its snapshot, header and boundary, at CHAINBUF + SNAP, some words of it in a step, and SNAP moves
on behind it. -/
def chainCompletes : Prop :=
  ∀ s uid id c o h, EngineOp s uid id c o → o.body = .chain h → o.id = id →
    (chainHead c ≠ some id ∨ h.sdone < h.steps → exec (.chainComplete uid id) s = .next (stow s)) ∧
    (chainHead c = some id → h.steps ≤ h.sdone → c.chainQ.tail.all (fun i => i != .op id) = true →
      let st := c.chain
      let a := chainBuf (stow s).dev c.job + st.snap
      let n := 32 + st.bytes
      let ts : List Touch := [⟨a, n, true⟩]
      let io := ioOpen (stow s).dev (opAsker c o) c.ctx s.nfree o.memMark (unitSkips o ts) ts
      let bs := snapHeader st (h.x.toNat % 2 ^ 32) ++ scratchBytes c (st.bbase + st.cur) st.bytes
      let place := fun i => (io.place true (a + i)).1
      let st' := if h.sub = 5 then { st with snap := st.snap + (n + 63) / 64 * 64 } else st
      (h.sub = 5 → io.good = true) → bs.length = n → (h.sub = 5 → ∀ i j, i < n → j < n → place i = place j → i = j) →
      ∃ t c', ∃ W : List Nat, exec (.chainComplete uid id) s = .next t ∧ findCrew t.dev uid = some c' ∧
        (∀ k ∈ W, k < wordCount a n ∧ k ∉ h.part) ∧
        let whole := h.sub ≠ 5 ∨ ∀ k < wordCount a n, k ∈ W ∨ k ∈ h.part
        (W ≠ [] ∨ whole) ∧
        (whole → Completed c c' o [] [] ∧
          (c'.chain, c'.chainQ) = ((drainItems c.chainQ.tail st').1, (drainItems c.chainQ.tail st').2)) ∧
        (¬ whole → c'.chain = c.chain ∧ c'.chainQ = c.chainQ ∧
          ∃ o', findOp c' id = some o' ∧ o'.body = .chain { h with part := h.part ++ W }) ∧
        c'.scratch = c.scratch ∧
        (∀ x, (h.sub = 5 → ∀ i < n, x ≠ place i) → byteAt t.dev x = byteAt s.dev x) ∧
        (h.sub = 5 → ∀ i < n, linePoisoned s.dev (place i / 128) = false →
          byteAt t.dev (place i) = if (a + i) / 4 - a / 4 ∈ W then bs.getD i 0#8 else byteAt s.dev (place i)))

/-- The chain engine's instructions (R413, R422 to R427). -/
def Obligations.ChainInstructions : Prop := chainInstructions ∧ chainIssues

/-- The chain engine's steps and completions (R416 to R418, R424 to R426). -/
def Obligations.ChainEngine : Prop := chainSteps ∧ chainCompletes

/-! ### Sampling and traversal -/

/-- R344 to R346, R348, R352, R353: SMP, with lanes active, an index inside the pool, a queue entry, its lanes' earlier
accesses done (that it waits for them is the model's choice, assumption 49) and its descriptor read and sound, issues with each
active lane's u and v, and is to write four registers; the checks are in their order; a descriptor whose read meets a stop is left to
the engine (R346); while a Translation Completion is outstanding it waits at issue, or under a forced save issues (R315). -/
def samplesIssue : Prop :=
  ∀ s a b (k : BitVec 2), ∀ x ∈ [(Instr.smpBil a b, 0, 0), (.smpPt a b, 1, 0), (.smpGather4 k a b, 2, k.toNat)],
    Admitted x.1 .traversal s → FlagFree s →
    let u := latchClk s (uniformCodes x.1)
    let j := (readSrc u b 0).toNat
    let at_ := (ctxWord s 0x500).toNat / 32 * 32 + 2 ^ 32 * (ctxWord s 0x501).toNat + 32 * j
    let io := ioOpen s.dev (fragAsker s) s.crew.ctx s.nfree s.dev.histSeq s.frag.oneShot [⟨at_, 32, false⟩]
    let issues := fun (d : Option (List Byte)) => ∃ t op, exec x.1 s = .next t ∧ Issued s t op ∧ ClockRead s t (uniformCodes x.1) ∧
      op.lanes = s.frag.exec ∧ op.dstV = (List.range 4).map (a.toNat + ·) ∧ op.dstS = [] ∧
      op.body = .smp ⟨x.2.1, x.2.2, j, d, (laneList s.frag.exec).map (fun l =>
        (l, readV s a.toNat l, readV s (a.toNat + 1) l)), 0#96, [], a.toNat⟩
    let desc := io.read at_ 32
    (s.frag.exec = 0#96 → exec x.1 s = .next (advance u)) ∧
    (s.frag.exec ≠ 0#96 →
      ((ctxWord s 0x502).toNat ≤ j → exec x.1 s = .next (takeTrap u 0x03 false)) ∧
      (j < (ctxWord s 0x502).toNat →
        (smpRoom s = false ∨ pendingFor s.crew.ops s.wave.idx s.frag.lanes = true →
          exec x.1 s = .next { u with frag := { s.frag with status := .stalled } }) ∧
        (smpRoom s = true → pendingFor s.crew.ops s.wave.idx s.frag.lanes = false →
          (io.good = true → (∀ c, textureCause desc = some c → exec x.1 s = .next (takeTrap (forgetAsks { u with dev := io.dev }) c false)) ∧
            (textureCause desc = none → issues (some desc))) ∧
          (io.miss ≠ [] ∨ io.trap ≠ none ∨ io.poison = true → issues none) ∧
          (io.miss = [] → io.trap = none → io.poison = false → io.wait = true →
            (s.crew.forced = true → issues none) ∧
            (s.crew.forced = false →
              exec x.1 s = .next { u with dev := io.dev, frag := { s.frag with status := .stalled } })))))

/-- R442 to R444, R455: TRACE of an aligned, canonical root, with lanes active and a queue entry, issues with each active
lane's ray of eight registers, and is to write them; QUERY counts the wave's traversals and those of them parked. -/
def tracesIssue : Prop :=
  ∀ s (k : BitVec 1) a b,
    (∀ x ∈ [(Instr.traceClosest k a b, false), (.traceAny k a b, true)], Admitted x.1 .traversal s → FlagFree s →
      let root := readS64 s (b.toNat - 0x80)
      (s.frag.exec = 0#96 → exec x.1 s = .next (advance s)) ∧
      (s.frag.exec ≠ 0#96 → root.toNat % 128 ≠ 0 → exec x.1 s = .next (takeTrap s 0x07 false)) ∧
      (s.frag.exec ≠ 0#96 → root.toNat % 128 = 0 → canonical root = false → exec x.1 s = .next (takeTrap s 0x05 false)) ∧
      (s.frag.exec ≠ 0#96 → root.toNat % 128 = 0 → canonical root = true →
        (traceRoom s = false → exec x.1 s = .next { s with frag := { s.frag with status := .stalled } }) ∧
        (traceRoom s = true → ∃ t op y, exec x.1 s = .next t ∧ Issued s t op ∧ op.body = .trace y ∧ op.lanes = s.frag.exec ∧
          op.dstV = (List.range 8).map (a.toNat + ·) ∧ op.dstS = [] ∧ y.any = x.2 ∧ (y.cull = true ↔ k = 1#1) ∧
          y.root = root ∧ y.dst = a.toNat ∧
          y.lanes.map (fun l => (l.lane, l.ray)) = (laneList s.frag.exec).map (fun l =>
            (l, (List.range 8).map (fun j => readV s (a.toNat + j) l))) ∧
          ∀ l ∈ y.lanes, l.best = none ∧ l.visits = 0 ∧ l.begun = false ∧ l.ended = false ∧
            l.stack = [(1#32, l.ray.getD 6 0#32)]))) ∧
    (Admitted (.traceQuery a) .traversal s →
      let mine := s.crew.ops.filter (fun o => o.wave == s.wave.idx && (traceOf o).isSome)
      let r := a.toNat - 0x80
      ∃ t, exec (.traceQuery a) s = .next t ∧ GoesOn s t ∧ Kept s t ∧ SameLanes s t [] ∧ SameScalars s t [r, r + 1] ∧
        SameMasks s t [] ∧ t.wave.flg = s.wave.flg ∧
        scalarReg t r = BitVec.ofNat 32 (mine.length % 256 + 256 * ((mine.filter (fun o => o.status != .inflight)).length % 256)) ∧
        scalarReg t (r + 1) = BitVec.ofNat 32 (32 + 256 * 2))

/-- R344 to R346, R442, R443: where the forms of SMP and TRACE complete their issue: lanes active, the flag's counter below
63, a queue entry free, and for SMP an index inside the pool, the lanes' earlier accesses done (assumption 49) and a sound
descriptor read, for TRACE an aligned and canonical root; the operation is in flight for the active lanes. -/
def lanesIssue : Prop :=
  ∀ s a b (k : BitVec 2) (j : BitVec 1), FlagFree s → s.frag.exec ≠ 0#96 →
    let x := (readSrc (latchClk s [b]) b 0).toNat
    let at_ := (ctxWord s 0x500).toNat / 32 * 32 + 2 ^ 32 * (ctxWord s 0x501).toNat + 32 * x
    let io := ioOpen s.dev (fragAsker s) s.crew.ctx s.nfree s.dev.histSeq s.frag.oneShot [⟨at_, 32, false⟩]
    let root := readS64 s (b.toNat - 0x80)
    let flying := fun t : State => GoesOn s t ∧ ∃ op, t.crew.ops = s.crew.ops ++ [op] ∧ op.status = .inflight ∧
      op.lanes = s.frag.exec ∧ op.flag = some (flagHere s.frag)
    (x < (ctxWord s 0x502).toNat → smpRoom s = true → pendingFor s.crew.ops s.wave.idx s.frag.lanes = false → io.good = true →
      textureCause (io.read at_ 32) = none →
      (Admitted (.smpBil a b) .traversal s → ∃ t, exec (.smpBil a b) s = .next t ∧ flying t) ∧
      (Admitted (.smpPt a b) .traversal s → ∃ t, exec (.smpPt a b) s = .next t ∧ flying t) ∧
      (Admitted (.smpGather4 k a b) .traversal s → ∃ t, exec (.smpGather4 k a b) s = .next t ∧ flying t)) ∧
    (root.toNat % 128 = 0 → canonical root = true → traceRoom s = true →
      (Admitted (.traceClosest j a b) .traversal s → ∃ t, exec (.traceClosest j a b) s = .next t ∧ flying t) ∧
      (Admitted (.traceAny j a b) .traversal s → ∃ t, exec (.traceAny j a b) s = .next t ∧ flying t))

/-- SMP and TRACE at issue (R342 to R346, R442 to R444). -/
def Obligations.SamplesAndTracesIssue : Prop := samplesIssue ∧ tracesIssue ∧ lanesIssue

/-- Operation o of crew c is parked on missing pages: it stays, its flag counts it still, and memory is as it was (R36). -/
def Parks (s t : State) (uid id : Nat) (c : Crew) (o : Op) : Prop :=
  ∃ c' o', findCrew t.dev uid = some c' ∧ findOp c' id = some o' ∧ o'.status = .parked 0x01 ∧
    (∀ w, findWave c o.wave = some w → ∃ w', findWave c' o.wave = some w' ∧ w'.f = w.f ∧ w'.s = w.s ∧ w'.m = w.m) ∧
    ∀ a, byteAt t.dev a = byteAt s.dev a

/-- R180, R347 to R350, R352, R354: the lanes of a sample that have read their texels are written some at a time, at least
one, with their four results; with the last of them the sample is complete, and before that the lanes written are done; a
lane that left is not written.  With a lane on a missing page, and none on poison, it parks. -/
def samplesEnd : Prop :=
  ∀ s uid id c o y desc, EngineOp s uid id c o → o.body = .smp y → y.desc = some desc → o.taintV = [] →
    (∀ p ∈ y.coords, p.1 < 96) → (y.coords.map Prod.fst).Nodup →
    let left := y.coords.filter (fun p => !y.done.getLsbD p.1)
    let rs := (readLanes (stow s) c o y (Texture.ofBytes desc) (stow s).dev left).2
    let values := fun (L : List Nat) => (rs.filter (fun r => L.contains r.lane && laneAlive c o.wave r.lane)).flatMap (fun r =>
      r.res.mapIdx (fun k w => (96 * (y.dst + k) + r.lane, w)))
    ((∀ r ∈ rs, r.io.good = true) →
      exec (.smpPark uid id) s = .next (stow s) ∧
      ∃ t c', ∃ L : List Nat, exec (.smpComplete uid id) s = .next t ∧ findCrew t.dev uid = some c' ∧
        (rs ≠ [] → L ≠ []) ∧ (∀ l ∈ L, ∃ r ∈ rs, r.lane = l) ∧
        ((∀ r ∈ rs, r.lane ∈ L) → Completed c c' o (values L) []) ∧
        ((∃ r ∈ rs, r.lane ∉ L) → ∃ o' y', findOp c' id = some o' ∧ o'.body = .smp y' ∧ y'.coords = y.coords ∧
          (∀ l, l < 96 → y'.done.getLsbD l = (y.done.getLsbD l || L.contains l)) ∧
          ∀ w, findWave c o.wave = some w → ∃ w', findWave c' o.wave = some w' ∧ w'.f = w.f ∧ w'.s = w.s ∧ w'.m = w.m ∧
            ∀ k, tabGet 0#32 w'.v k = (((values L).find? (fun x => x.1 == k)).map Prod.snd).getD (tabGet 0#32 w.v k)) ∧
        ∀ a, byteAt t.dev a = byteAt s.dev a) ∧
    ((∃ r ∈ rs, r.io.miss ≠ []) → (∀ r ∈ rs, r.io.poison = false) →
      ∃ t, exec (.smpPark uid id) s = .next t ∧ Parks s t uid id c o)

/-- R180, R445 to R449, R454: a traversal whose lanes all end is complete, with each lane's eight result words in its
registers, but of lanes that left; with a lane on a missing page, whatever traps the others met, and none on poison, it parks
instead. -/
def tracesEnd : Prop :=
  ∀ s uid id c o y, EngineOp s uid id c o → o.body = .trace y → o.taintV = [] →
    let v : TraceEnv := ⟨opAsker c o, c.ctx, s.nfree, o, y.any, y.cull⟩
    let rs := (runLanes v y.root.toNat (stow s).dev (y.lanes.filter (fun x => !x.ended))).2
    (∀ r ∈ rs, r.x.lane < 96) → (rs.map (fun r => r.x.lane)).Nodup →
    ((∀ r ∈ rs, r.stop = none ∧ r.x.ended = true) →
      exec (.tracePark uid id) s = .next (stow s) ∧
      ∃ t c', exec (.traceComplete uid id) s = .next t ∧ findCrew t.dev uid = some c' ∧
        Completed c c' o ((rs.filter (fun r => laneAlive c o.wave r.x.lane)).flatMap (fun r => (traceResult r.x).mapIdx (fun k w => (96 * (y.dst + k) + r.x.lane, w)))) [] ∧
        ∀ a, byteAt t.dev a = byteAt s.dev a) ∧
    ((∃ r ∈ rs, ∃ io, r.stop = some io ∧ io.miss ≠ []) →
      (∀ r ∈ rs, ∀ io, r.stop = some io → io.poison = false ∧ (io.wait = true → io.miss ≠ [] ∨ io.trap ≠ none)) →
      exec (.traceComplete uid id) s = .next (stow s) ∧
      ∃ t, exec (.tracePark uid id) s = .next t ∧ Parks s t uid id c o)

/-- SMP and TRACE at their ends (R347 to R350, R445 to R449). -/
def Obligations.SamplesAndTracesEnd : Prop := samplesEnd ∧ tracesEnd

/-! ### Jobs -/

/-- R148, R157: an address a card may stand at. -/
def cardPlace (a : DWord) : Prop := a.toNat % 256 = 0 ∧ canonical a = true

/-- R157 to R161, R169, R170: LAUNCH gives its card's address to the die's engine and blocks until answered; NEXT deals
the next chunk of the job's records; TRIG marks the wave; DEPWAIT goes on once every producer is complete and writes
whether one failed; YIELD goes on at the next clause, behind every ready fragment, or yields to a pending request; YIELDON goes to its target at once
when its barrier phase or flags are done, and else blocks.  LAUNCH and YIELDON.BAR behind an earlier access of their lanes wait,
yielded (R41, R191).  That YIELDON's target is checked before its barrier object is the model's choice (assumption 70), and that a
target both misaligned and not canonical takes 0x07 (assumption 73). -/
def Obligations.JobInstructions : Prop :=
  ∀ s a b, let quiet := pendingFor s.crew.ops s.wave.idx s.frag.lanes = false
    (Admitted (.jobLaunch a b) .control s → quiet →
      let addr := readS64 s (a.toNat - 0x80)
      let r := translate64 s.dev (fragAsker s) s.crew.ctx s.nfree addr.toNat wantRead
      (s.frag.resume = .released → exec (.jobLaunch a b) s = .next (advance s)) ∧
      (s.frag.resume ≠ .released → addr.toNat % 256 ≠ 0 → exec (.jobLaunch a b) s = .next (takeTrap s 0x07 false)) ∧
      (s.frag.resume ≠ .released → addr.toNat % 256 = 0 → canonical addr = false → exec (.jobLaunch a b) s = .next (takeTrap s 0x05 false)) ∧
      (s.frag.resume ≠ .released → cardPlace addr → ∀ pa key, r.1 = .ok pa key →
        ((r.2.launches.filter (fun l => l.die == dieHere s)).length < 256 →
          exec (.jobLaunch a b) s = .next { s with
            dev := { r.2 with launches := r.2.launches ++ [⟨dieHere s, selfRef s, addr, b.toNat - 0x80, s.crew.ctx, s.crew.ctag⟩] }
            frag := { s.frag with status := .blocked .launch, resume := .fresh } }) ∧
        (256 ≤ (r.2.launches.filter (fun l => l.die == dieHere s)).length →
          exec (.jobLaunch a b) s = .next { s with dev := r.2, frag := { s.frag with status := .blocked .launch, resume := .fresh } })) ∧
      (s.frag.resume ≠ .released → cardPlace addr → r.1 = .wait →
        exec (.jobLaunch a b) s = .next { s with dev := r.2, frag := { s.frag with status := .blocked .launch, resume := .fresh } }) ∧
      (s.frag.resume ≠ .released → cardPlace addr → ∀ h, r.1 = .miss h → ∃ t, exec (.jobLaunch a b) s = .next t ∧
        t.frag = { s.frag with status := .blocked .launch, resume := .fresh } ∧ t.wave = s.wave ∧ t.crew = s.crew ∧
        (∃ m ∈ t.dev.missing, .frag (selfRef s) ∈ m.links) ∧ ∀ x, byteAt t.dev x = byteAt s.dev x) ∧
      (s.frag.resume ≠ .released → cardPlace addr → ∀ c, r.1 = .trap c → exec (.jobLaunch a b) s = .next (pageTrap { s with dev := r.2 } c))) ∧
    (∀ i ∈ [Instr.jobLaunch a b, .jobYieldonBar a b], Admitted i .control s → ¬ quiet →
      exec i s = .next { s with frag := { s.frag with status := .blocked .earlier, resume := .fresh } }) ∧
    (Admitted (.jobNext a) .control s → ∀ j, findJob s.dev s.crew.job = some j →
      let r := a.toNat - 0x80
      let live := liveWaves s
      let rem := j.card.reccount - j.next
      let fresh : Chunk := ⟨j.next, min rem (max 1 ((rem + 2 * live - 1) / (2 * live)))⟩
      let k := j.returned.headD fresh
      let addr := j.card.recbase + BitVec.ofNat 64 (k.first * j.card.recsize)
      ∃ t, exec (.jobNext a) s = .next t ∧ GoesOn s t ∧ SameLanes s t [] ∧ SameScalars s t [r, r + 1, r + 2, r + 3] ∧
        SameMasks s t [] ∧ t.wave.flg = s.wave.flg ∧ scalarReg t r = BitVec.ofNat 32 k.first ∧
        scalarReg t (r + 1) = BitVec.ofNat 32 k.count ∧ scalarReg t (r + 2) = addr.setWidth 32 ∧
        scalarReg t (r + 3) = (addr >>> 32).setWidth 32 ∧
        t.crew.taken = (if k.count = 0 then s.crew.taken else s.crew.taken ++ [k]) ∧
        findJob t.dev s.crew.job = some (if j.returned = [] then { j with next := j.next + k.count }
          else { j with returned := j.returned.tail }) ∧
        (∀ x, x ≠ s.crew.job → findJob t.dev x = findJob s.dev x) ∧ { t.dev with jobs := [] } = { s.dev with jobs := [] }) ∧
    (Admitted .jobTrig .control s → quiet →
      ∃ t, exec .jobTrig s = .next t ∧ GoesOn s t ∧ t.wave = s.wave ∧ { t.crew with trigged := [] } = { s.crew with trigged := [] } ∧
        (∀ w, w ∈ t.crew.trigged ↔ w = s.wave.idx ∨ w ∈ s.crew.trigged) ∧ { t.dev with jobs := [] } = { s.dev with jobs := [] } ∧
        (∀ x, x ≠ s.crew.job → findJob t.dev x = findJob s.dev x) ∧
        ∀ j, findJob s.dev s.crew.job = some j → ∃ j', findJob t.dev s.crew.job = some j' ∧ { j' with trig := [] } = { j with trig := [] } ∧
          ∀ k, k ∈ j'.trig ↔ k ∈ j.trig ∨ k = s.crew.index ∧ ∀ w < s.crew.waveCount, w = s.wave.idx ∨ w ∈ s.crew.trigged) ∧
    (Admitted (.jobDepwait a) .control s → ∀ j, findJob s.dev s.crew.job = some j →
      let deps := j.card.deps.filter (fun x => x != 0#64)
      ((∀ x ∈ deps, idComplete s.dev x = true) →
        exec (.jobDepwait a) s =
          .next (advance (writeS s (a.toNat - 0x80) (if deps.any (idFailed s.dev) then 1#32 else 0#32)))) ∧
      ((∃ x ∈ deps, idComplete s.dev x = false) →
        exec (.jobDepwait a) s = .next { s with frag := { s.frag with status := .blocked .depwait, resume := .fresh } })) ∧
    (Admitted .jobYield .control s →
      (s.crew.preq = none → exec .jobYield s =
        .next { s with frag := { gotoClause s.frag (nextClause s.frag) s.clk with back := true } }) ∧
      (s.crew.preq ≠ none → exec .jobYield s = .next { s with frag := { s.frag with status := .yieldedJob } })) ∧
    (∀ i ∈ [Instr.jobYieldonBar a b, .jobYieldonFlg a b], Admitted i .control s → (i = .jobYieldonBar a b → quiet) →
      let dst := readS64 s (a.toNat - 0x80)
      let o := (readS s (b.toNat - 0x80)).toNat
      let p := (readS s (b.toNat - 0x80 + 1)).toNat % 256
      let ahead := ((barAt s.crew o).phase + 256 - p) % 256
      let done := if i = .jobYieldonBar a b then 1 ≤ ahead ∧ ahead ≤ 128
        else ∀ k < 12, (readS s (b.toNat - 0x80)).getLsbD k = true → flagOf s.wave k = 0
      let blocked := fun w => (Host.Outcome.next { s with frag := { s.frag with cont := dst, status := .blocked w, resume := .fresh } } : Out)
      (s.frag.resume = .released → exec i s = .next (jump s s.frag.cont)) ∧
      (s.frag.resume = .fresh → ¬ goodTarget dst →
        exec i s = .next (takeTrap s (if dst.toNat % 4 ≠ 0 then 0x07 else 0x05) false)) ∧
      (s.frag.resume = .fresh → goodTarget dst → (i = .jobYieldonBar a b → BarReady s o) →
        (done → exec i s = .next (jump s dst)) ∧
        (i = .jobYieldonBar a b → 129 ≤ ahead → exec i s = .next (takeTrap s 0x08 false)) ∧
        (i = .jobYieldonBar a b → ahead = 0 → exec i s = blocked (.yieldonBar o p)) ∧
        (i = .jobYieldonFlg a b → ¬ done → exec i s = blocked (.yieldonFlg (readS s (b.toNat - 0x80)).toNat)))) ∧
    -- where YIELDON completes: its target sound, its barrier's phase or its flags done
    (Admitted (.jobYieldonBar a b) .control s → quiet → s.frag.resume = .fresh → goodTarget (readS64 s (a.toNat - 0x80)) →
      BarReady s (readS s (b.toNat - 0x80)).toNat →
      let ahead := ((barAt s.crew (readS s (b.toNat - 0x80)).toNat).phase + 256 - (readS s (b.toNat - 0x80 + 1)).toNat % 256) % 256
      1 ≤ ahead → ahead ≤ 128 → exec (.jobYieldonBar a b) s = .next (jump s (readS64 s (a.toNat - 0x80)))) ∧
    (Admitted (.jobYieldonFlg a b) .control s → s.frag.resume = .fresh → goodTarget (readS64 s (a.toNat - 0x80)) →
      (∀ k < 12, (readS s (b.toNat - 0x80)).getLsbD k = true → flagOf s.wave k = 0) →
      exec (.jobYieldonFlg a b) s = .next (jump s (readS64 s (a.toNat - 0x80))))

/-- The fragment in focus is gone: nothing is in focus, its wave stands in its crew with its registers and flags, and,
where it has no join records, with its other fragments as they were (R163, R188). -/
def FragmentGone (s t : State) (succ : Option (DWord × DWord)) : Prop :=
  t.active = false ∧ ∃ c w, findCrew t.dev s.crew.uid = some c ∧ findWave c s.wave.idx = some w ∧
    w.v = s.wave.v ∧ w.s = s.wave.s ∧ w.m = s.wave.m ∧ w.flg = s.wave.flg ∧ w.f = s.wave.f ∧ w.enrol = s.wave.enrol ∧
    c.scratch = s.crew.scratch ∧ c.tile = s.crew.tile ∧ c.succ = succ ∧
    (s.wave.joins = [] → s.wave.fspill = [] → s.wave.jspill = [] → w.frags = s.wave.frags ∧ w.joins = [])

/-- Every crew and wave besides those in focus has another number. -/
def focusApart (s : State) : Prop :=
  s.active = true ∧ (∀ c ∈ s.dev.crews, c.uid ≠ s.crew.uid) ∧ ∀ w ∈ s.crew.waves, w.idx ≠ s.wave.idx

/-- R163 to R165, R188: EXIT ends the fragment; EXITS reads its card, and when the card may follow the crew ends the
fragment and launches the successor job, or joins the one the job has launched for this card; else it takes trap 0x0F. A successor of
no crews waits until the wave's earlier accesses have left nothing to do (R41).  That EXITS takes 0x07 and 0x05 on its card's
address is the model's choice (assumption 32). -/
def Obligations.Exits : Prop :=
  ∀ s a, focusApart s → (s.frag.trapMode = true ∨ ∀ o ∈ s.crew.ops, ∀ k, o.status ≠ .late k) →
    (Admitted .jobExit .control s → ∃ t, exec .jobExit s = .next t ∧ FragmentGone s t s.crew.succ ∧
      ∀ x, byteAt t.dev x = byteAt s.dev x) ∧
    (Admitted (.jobExits a) .control s →
      let addr := readS64 s (a.toNat - 0x80)
      (addr.toNat % 256 ≠ 0 → exec (.jobExits a) s = .next (takeTrap s 0x07 false)) ∧
      (addr.toNat % 256 = 0 → canonical addr = false → exec (.jobExits a) s = .next (takeTrap s 0x05 false)) ∧
      (cardPlace addr → ∀ d, fetchCard s.dev (fragAsker s) s.crew.ctx s.nfree addr = (.wait, d) →
        exec (.jobExits a) s = .next { s with dev := d, frag := { s.frag with status := .blocked .exits, resume := .fresh } }) ∧
      (cardPlace addr → ∀ d, fetchCard s.dev (fragAsker s) s.crew.ctx s.nfree addr = (.fault, d) →
        exec (.jobExits a) s = .next (takeTrap { s with dev := d } 0x03 false)) ∧
      (cardPlace addr → ∀ bs d, fetchCard s.dev (fragAsker s) s.crew.ctx s.nfree addr = (.bytes bs, d) →
        let u := { s with dev := d }
        (successorOk u addr (readCard bs) = false → exec (.jobExits a) s = .next (takeTrap u 0x0F false)) ∧
        (successorOk u addr (readCard bs) = true → cardZero (readCard bs) = true →
          pendingFor s.crew.ops s.wave.idx s.frag.lanes = true →
          exec (.jobExits a) s = .next { u with frag := { u.frag with status := .blocked .earlier, resume := .fresh } }) ∧
        (successorOk u addr (readCard bs) = true →
          (cardZero (readCard bs) = true → pendingFor s.crew.ops s.wave.idx s.frag.lanes = false) →
          ∀ j, findJob d s.crew.job = some j →
          (∀ e, j.exits.find? (fun e => e.1 == addr) = some e →
            ∃ t, exec (.jobExits a) s = .next t ∧ FragmentGone s t (some e) ∧ t.dev.jobs = d.jobs) ∧
          (j.exits.find? (fun e => e.1 == addr) = none →
            ∃ t id n, exec (.jobExits a) s = .next t ∧ FragmentGone s t (some (addr, id)) ∧
              t.dev.jobs = (updJob d s.crew.job (fun j => { j with exits := j.exits ++ [(addr, id)] })).jobs ++ [n] ∧
              n.id = id ∧ n.card = readCard bs ∧ n.ctx = s.crew.ctx ∧ n.queue = none))))

/-- R149 to R153, R157, R485: a card that reads and passes R149's checks becomes a job with the next id of its owner die, and,
unless it asks for nothing, its crews begin to wait: from a queue at the lower of its own priority and QPRIO, and its id
in QLASTID; from a launch with its id in the pair of the waiting wave, which goes on.  A queue's card that fails a check gets no id
and leaves QLASTID as it was: failing check 8 it stands in QERR with that number, else it is a Failed job that is to write its error
status, where it names an address; a misaligned address is dropped at its turn, with QERR.CARD and check 0 (the model's choice,
assumption 69), as is a card whose read faults.  In minimal mode no card is read. -/
def Obligations.CardsRead : Prop :=
  ∀ s die (k : Nat) addr bs d,
    let u := stow s
    let c := readCard bs
    let id := fun receiver : Nat => BitVec.ofNat 64 ((if cardZero c = true then receiver else dieOf (c.x0 + 48 * c.y0)) * 2 ^ 56 +
      (tabGet 0 d.seqs (if cardZero c = true then receiver else dieOf (c.x0 + 48 * c.y0)) + 1))
    let accepted := fun (t : State) (n : Job) receiver => t.dev.jobs = d.jobs ++ [n] ∧ n.id = id receiver ∧ n.card = c ∧
      n.state = (if cardZero c = true then .draining else .placing) ∧
      t.dev.waiting.length = d.waiting.length + (if cardZero c = true then 0 else c.w * c.h) ∧
      (∀ x ∈ t.dev.waiting.drop d.waiting.length, x.job = id receiver) ∧ ∀ a, byteAt t.dev a = byteAt s.dev a
    let rejected := fun (t : State) (ctx : Nat) (queue : Option Nat) (m : Nat) =>
      t.dev.waiting = d.waiting ∧ (∀ a, byteAt t.dev a = byteAt s.dev a) ∧
      (m = 8 ∨ c.doneAddr = 0#64 → t.dev.jobs = d.jobs) ∧
      (m ≠ 8 → c.doneAddr ≠ 0#64 → ∃ n, t.dev.jobs = d.jobs ++ [n] ∧ n.id = 0#64 ∧ n.card = c ∧ n.ctx = ctx ∧ n.queue = queue ∧
        n.state = .rejected m)
    let q := 64 * die + k
    let err := fun m : Nat => ((queueOf u.dev q).err &&& 0xFF#64) ||| 4#64 ||| BitVec.ofNat 64 (256 * m)
    let turn := { u.dev with rotation := tabSet 63 u.dev.rotation die k }
    (u.dev.plat.startup.minimal = true → exec (.cardRead die k) s = .next u) ∧
    (u.dev.plat.startup.minimal = false → k < 64 → die < 6 → nextQueue u.dev die = some q →
      (queueOf u.dev q).cards.head? = some addr →
      (addr.toNat % 256 ≠ 0 → ∃ t, exec (.cardRead die k) s = .next t ∧
        queueOf t.dev q = { queueOf u.dev q with err := err 0, cards := (queueOf u.dev q).cards.tail } ∧
        { t.dev with queues := [], rotation := [] } = { u.dev with queues := [], rotation := [] }) ∧
      (addr.toNat % 256 = 0 → ∀ slot, slotOfTag u.dev (queueOf u.dev q).ctag = some slot →
        let read := fetchCard turn (dieAsker die (.queue q)) slot s.nfree addr
        (read = (.fault, d) ∨ read = (.poison, d) → ∃ t, exec (.cardRead die k) s = .next t ∧ t.dev.jobs = d.jobs ∧
          queueOf t.dev q = { queueOf d q with err := ((queueOf d q).err &&& 0xFF#64) ||| 4#64, cards := (queueOf d q).cards.tail }) ∧
        (read = (.bytes bs, d) → cardCheck c (ctxOf d slot).tag = none →
          ∃ t n, exec (.cardRead die k) s = .next t ∧ accepted t n die ∧ n.ctx = slot ∧ n.queue = some q ∧
            n.prio = min c.prio (queueOf u.dev q).prio ∧ (queueOf t.dev q).lastId = id die ∧
            (queueOf t.dev q).cards = (queueOf u.dev q).cards.tail) ∧
        (read = (.bytes bs, d) → ∀ m, cardCheck c (ctxOf d slot).tag = some m →
          ∃ t, exec (.cardRead die k) s = .next t ∧ rejected t slot (some q) m ∧
            queueOf t.dev q = { queueOf u.dev q with
              err := if m = 8 then err 8 else (queueOf u.dev q).err, cards := (queueOf u.dev q).cards.tail }))) ∧
    (u.dev.plat.startup.minimal = false → ∀ l, u.dev.launches[k]? = some l → l.die = die → launchReady u.dev l = true → l.addr = addr →
      fetchCard u.dev (dieAsker die (.launch l.who)) l.ctx s.nfree addr = (.bytes bs, d) →
      (cardCheck c l.ctag = none → ∃ t n, exec (.cardRead die (64 + k)) s = .next t ∧ accepted t n die ∧ n.ctx = l.ctx ∧
        n.queue = none ∧ n.prio = c.prio ∧ (∀ x ∈ t.dev.launches, x.who ≠ l.who) ∧
        ∀ x w f, findCrew u.dev l.who.crew = some x → findWave x l.who.wave = some w → findFrag w l.who.frag = some f →
          ∃ x' w' f', findCrew t.dev l.who.crew = some x' ∧ findWave x' l.who.wave = some w' ∧
            findFrag w' l.who.frag = some f' ∧ f'.status = .ready ∧ f'.resume = .released ∧
            tabGet 0#32 w'.s l.dst = (id die).setWidth 32 ∧ tabGet 0#32 w'.s (l.dst + 1) = ((id die) >>> 32).setWidth 32) ∧
      (∀ m, cardCheck c l.ctag = some m → ∃ t, exec (.cardRead die (64 + k)) s = .next t ∧ rejected t l.ctx none m ∧
        ∀ x w f, findCrew u.dev l.who.crew = some x → findWave x l.who.wave = some w → findFrag w l.who.frag = some f →
          ∃ x' w' f', findCrew t.dev l.who.crew = some x' ∧ findWave x' l.who.wave = some w' ∧
            findFrag w' l.who.frag = some f' ∧ f'.status = .ready ∧
            tabGet 0#32 w'.s l.dst = 0#32 ∧ tabGet 0#32 w'.s (l.dst + 1) = 0#32))

/-- R152, R485: a card address written to a host queue waits in it; a full queue sets QERR.FULL, one not enabled
QERR.OFF, and drop it; a misaligned address waits like any other (the model's choice, assumption 69); in minimal mode, and for a
queue that is not there, nothing happens (assumption 57). -/
def queueWrites : Prop :=
  ∀ s q v,
    (s.dev.plat.startup.minimal = true ∨ 384 ≤ q → exec (.qlaunch q v) s = .next (stow s)) ∧
    (s.dev.plat.startup.minimal = false → q < 384 → ∃ t, exec (.qlaunch q v) s = .next t ∧
      let x := queueOf s.dev q
      queueOf t.dev q = (if x.en = false then { x with err := x.err ||| 2#64 }
        else if 256 ≤ x.cards.length then { x with err := x.err ||| 1#64 } else { x with cards := x.cards ++ [v] }) ∧
      (∀ r, r ≠ q → queueOf t.dev r = queueOf s.dev r) ∧ { t.dev with queues := [] } = { (stow s).dev with queues := [] })

/-- R90, R154: a waiting crew placed: each wave of the card with one fragment of all lanes at ENTRY, its registers, masks
and flags zero, its generators from RNDSEED, and its role; the allocations zero unless inherited. -/
def crewsPlaced : Prop :=
  ∀ s uid w j, (stow s).dev.waiting.find? (fun x => x.uid == uid) = some w → findJob (stow s).dev w.job = some j →
    predGone (stow s).dev w = true → mayPlace (stow s).dev w.core (.waiting w) = true →
    (∀ c ∈ (stow s).dev.crews, c.uid ≠ uid) →
    ∃ t c, exec (.crewPlace uid) s = .next t ∧ findCrew t.dev uid = some c ∧ (∀ x ∈ t.dev.waiting, x.uid ≠ uid) ∧
      c.state = .running ∧ c.core = w.core ∧ c.job = j.id ∧ c.index = w.index ∧ c.ctx = j.ctx ∧ c.prio = j.prio ∧
      c.vregs = j.card.vregs ∧ c.sregs = j.card.sregs ∧ c.ops = [] ∧ c.waves.length = j.card.waves ∧
      c.scratchSize = (j.card.scratch + 2047) / 2048 * 2048 ∧ c.tileSize = (j.card.tiles + 1023) / 1024 * 1024 ∧
      (w.scratch = none → c.scratch = [] ∧ c.tile = [] ∧ c.full = []) ∧
      (∀ x y z, w.scratch = some (x, y, z) → c.scratch = x ∧ c.full = y ∧ c.tile = z) ∧
      (∀ i < j.card.waves, ∃ v, findWave c i = some v ∧ v.v = [] ∧ v.s = [] ∧ v.m = [] ∧ v.f = [] ∧ v.flg = 0#32 ∧ v.joins = [] ∧
        v.role = (match j.card.roles.toNat / 4 ^ i % 4 with | 0 => .gen | 1 => .copy | 2 => .mat | _ => .vec) ∧
        (∃ f, v.frags = [f] ∧ f.lanes = BitVec.allOnes 96 ∧ f.exec = BitVec.allOnes 96 ∧ f.fmt = 0#32 ∧
          f.clause = j.card.entry ∧ f.parcel = 63 ∧ f.trapMode = false ∧ f.status = .ready) ∧
        ∀ l < 96, tabGet 0#32 v.rng l =
          (let g := slotWord s.dev j.ctx 0x300 ^^^ (BitVec.ofNat 32 (l + 1) * 0x9E3779B9#32) ^^^
            (BitVec.ofNat 32 w.index * 0x85EBCA6B#32) ^^^ (BitVec.ofNat 32 i <<< 28) ^^^ j.id.setWidth 32
           if g = 0#32 then 1#32 else g)) ∧
      ∀ a, byteAt t.dev a = byteAt s.dev a

/-- R154: a crew that has stood first on its core for 65,536 clocks holds back later ones. -/
def placementHeld : Prop :=
  ∀ s uid, ∃ t, exec (.placementHold uid) s = .next t ∧
    t.dev.waiting = (stow s).dev.waiting.map (fun w =>
      if w.uid = uid ∧ (∃ x, w.since = some x ∧ x + 65536 ≤ s.clk) then { w with hold := true } else w) ∧
    t.dev.crews = (stow s).dev.crews.map (fun c =>
      if c.uid = uid ∧ (∃ x, c.since = some x ∧ x + 65536 ≤ s.clk) then { c with hold := true } else c) ∧
    { t.dev with waiting := [], crews := [] } = { (stow s).dev with waiting := [], crews := [] }

/-- R34, R160, R163, R269: a wave without a fragment, all its flags zero, retires and counts as triggered; a wave that is
not over stays. -/
def wavesRetire : Prop :=
  ∀ s uid i c w, findCrew (stow s).dev uid = some c → findWave c i = some w → c.state ≠ .saved →
    let ended := w.frags = [] ∧ ∀ k < 12, flagOf w k = 0
    (¬ ended → exec (.waveRetire uid i) s = .next (stow s)) ∧
    (ended → ∃ t, exec (.waveRetire uid i) s = .next t ∧ (∀ a, byteAt t.dev a = byteAt s.dev a) ∧
      ((∀ x ∈ c.waves, x.idx = i) → findCrew t.dev uid = none) ∧
      ((∃ x ∈ c.waves, x.idx ≠ i) → ∃ c', findCrew t.dev uid = some c' ∧
        c'.waves = c.waves.filter (fun x => x.idx != i) ∧ (∀ x, x ∈ c'.trigged ↔ x = i ∨ x ∈ c.trigged) ∧
        c'.core = c.core ∧ c'.job = c.job ∧ (w.enrol = [] → c'.scratch = c.scratch)))

/-- R41, R150: a settled job writes its DONE word where its card names an address that its context may write, and is done,
or failed; an error status has bit 63 set. -/
def donesWritten : Prop :=
  ∀ s k j, (stow s).dev.jobs[k]? = some j →
    let ready := jobSettled (stow s).dev j = true ∧ ∀ m ∈ (stow s).dev.missing, Link.done k ∉ m.links
    let word := match j.state with
      | .rejected n => BitVec.ofNat 64 (0xFFFFFFFF + n * 2 ^ 40 + 2 ^ 48 + 2 ^ 63)
      | _ => match j.failedBy with
        | some (crew, cause) => BitVec.ofNat 64 (crew + j.used * 2 ^ 32 + cause * 2 ^ 40 + 2 * 2 ^ 48 + 2 ^ 63)
        | none => j.card.doneVal
    let last := match j.state with | .rejected _ => JobState.failed | _ => if j.failedBy.isSome then .failed else .done
    (¬ ready → exec (.doneWrite k) s = .next (stow s)) ∧
    (ready → j.card.doneAddr = 0#64 → ∃ t, exec (.doneWrite k) s = .next t ∧
      t.dev.jobs[k]? = some { j with state := last } ∧ ∀ a, byteAt t.dev a = byteAt s.dev a) ∧
    (ready → j.card.doneAddr ≠ 0#64 → ∀ pa key d,
      translate64 (stow s).dev (dieAsker j.die (.done k)) j.ctx s.nfree j.card.doneAddr.toNat wantWrite = (.ok pa key, d) → pa % 8 = 0 →
      linePoisoned s.dev (pa / 128) = false →
      ∃ t, exec (.doneWrite k) s = .next t ∧ t.dev.jobs[k]? = some { j with state := last } ∧
        ∀ a, byteAt t.dev a = if pa ≤ a ∧ a < pa + 8 then BitVec.ofNat 8 (word.toNat / 256 ^ (a - pa)) else byteAt s.dev a)

/-- The dispatch engine (R34, R41, R90, R150 to R154, R160, R163). -/
def Obligations.DispatchEngine : Prop := queueWrites ∧ crewsPlaced ∧ placementHeld ∧ wavesRetire ∧ donesWritten

/-! ### System instructions -/

/-- The control words of Crew and Fragment scope and what they hold (R107, R200, R340, R428). -/
def heldWords (s : State) : List (Nat × Word) :=
  let f := s.frag
  [(0x410, f.epc.setWidth 32), (0x411, (f.epc >>> 32).setWidth 32), (0x412, f.epar), (0x413, f.ecause),
   (0x414, f.eexec.setWidth 32), (0x415, (f.eexec >>> 32).setWidth 32), (0x416, (f.eexec >>> 64).setWidth 32),
   (0x417, f.efmt), (0x600, f.erecoff), (0x601, f.etrapv)] ++
  (List.range 8).map (fun k => (0x418 + k, tabGet 0#32 f.esave k)) ++
  (List.range 5).map (fun k => (0x310 + k, BitVec.ofNat 32 (tabGet 0 s.crew.mx k))) ++
  [(0x700, BitVec.ofNat 32 s.crew.chain.bbase), (0x701, BitVec.ofNat 32 s.crew.chain.bsz),
   (0x702, BitVec.ofNat 32 s.crew.chain.snap)]

/-- What control word n reads as in the fragment in focus: PREJH, write-only, as zero (R7, R338, R340). -/
def WordHolds (s : State) (n : Nat) (v : Word) : Prop :=
  (n, v) ∈ heldWords s ∨ isCtxWord n = true ∧ v = if n = 0x631 then 0#32 else slotWord s.dev s.crew.ctx n

/-- Nothing but the fragment's PC and scalar registers `but` differs. -/
def OnlyScalars (s t : State) (but : List Nat) : Prop :=
  GoesOn s t ∧ Kept s t ∧ SameScalars s t but ∧ SameLanes s t [] ∧ SameMasks s t [] ∧ SameGenerators s t ∧
    t.wave.flg = s.wave.flg

/-- R72: outside trap mode the instructions of SYS but TRAP and CTLRD are illegal, and have no other effect. -/
def sysOutside : Prop :=
  ∀ s a b w, s.frag.trapMode = false →
    ∀ i ∈ [Instr.sysCtlwr a b, .sysParkrd a b, .sysParkwr a b, .sysWatch w a, .sysTlbinv a, .sysHalt, .sysEret], Admitted i .control s →
      exec i s = .next (takeTrap s 0x08 false)

/-- R72, R338: CTLRD writes the control word to its register; a number that names no word, or outside trap mode one
that is not user-readable, is an illegal instruction. -/
def wordsRead338 : Prop :=
  ∀ s a b, Admitted (.sysCtlrd a b) .control s → let u := latchClk s [b]
    let n := (readSrc u b 0).toNat
    let mayRead := s.frag.trapMode = true ∨ isUserWord n = true
    (∀ v, mayRead → WordHolds s n v → ∃ t, exec (.sysCtlrd a b) s = .next t ∧ OnlyScalars s t [a.toNat - 0x80] ∧
      scalarReg t (a.toNat - 0x80) = v) ∧
    (¬ mayRead ∨ (∀ v, ¬ WordHolds s n v) → exec (.sysCtlrd a b) s = .next (takeTrap s 0x08 false))

/-- What word k of the context in a slot holds once word n is given x (R8, R260, R340). -/
def wordAfter (d : Dev) (slot n : Nat) (x : Word) (k : Nat) : Nat :=
  (if k = n then ctlMask n x else slotWord d slot k).toNat

/-- R260: word n given x leaves its window enabled with size 0, or over another enabled window. -/
def windowRefused (d : Dev) (slot n : Nat) (x : Word) : Prop :=
  let w := fun j k => wordAfter d slot n x (0x520 + 4 * j + k)
  let base := fun j => w j 0 / 65536 * 65536 + 2 ^ 32 * w j 1
  let size := fun j => w j 2 % 65536 * 65536
  let on := fun j => (w j 2).testBit 31 = true
  let i := (n - 0x520) / 4
  on i ∧ (size i = 0 ∨ ∃ j < 4, j ≠ i ∧ on j ∧ base i < base j + size j ∧ base j < base i + size i)

/-- R332, R340: word n given x leaves its watchpoint sound: a size of 2 to 30, an aligned base, and a MODE below 16. -/
def watchKept (d : Dev) (slot n : Nat) (x : Word) : Prop :=
  let w := fun k => wordAfter d slot n x (n / 4 * 4 + k)
  2 ≤ w 2 ∧ w 2 ≤ 30 ∧ (w 0 + 2 ^ 32 * w 1) % 2 ^ w 2 = 0 ∧ w 3 < 16

/-- R428: CHBSZ refuses the value. -/
def chbszRefused (s : State) (v : Nat) : Prop :=
  let h := s.crew.chain
  h.bound = false ∨ v % 128 ≠ 0 ∨ v < 128 ∨ 524288 < v ∨ s.crew.scratchSize < h.bbase + v ∨ v < h.cur + h.bytes

/-- R167, R260, R340, R428: CTLWR in trap mode to the words whose writes do more or are checked: a window's words, once the
combinations under way for the context are delivered; a watchpoint's words, one of them written; PREJH, which asks for the
pre-emption of a job's crews or of every crew of the context; CHBSZ and CHSNAP. -/
def wordsChecked : Prop :=
  ∀ s a b, Admitted (.sysCtlwr a b) .control s → s.frag.trapMode = true → let u := latchClk s [a, b]
    let n := (readSrc u b 0).toNat
    let x := readSrc u a 0
    let gone := pastParcels s.frag (curParcels s.frag) s.clk
    let refused := exec (.sysCtlwr a b) s = .next (takeTrap u 0x08 false)
    let sets := fun t : State => (∀ k, slotWord t.dev s.crew.ctx k = if k = n then ctlMask n x else slotWord s.dev s.crew.ctx k) ∧
      ∀ c k, c ≠ s.crew.ctx → slotWord t.dev c k = slotWord s.dev c k
    (0x520 ≤ n → n < 0x530 → n % 4 ≠ 3 →
      (windowRefused s.dev s.crew.ctx n x → refused) ∧
      (¬ windowRefused s.dev s.crew.ctx n x → (∃ h ∈ s.dev.hubs, s.crew.ctx ∈ h.slots ∧ keyWaits s.dev h.key = true) →
        exec (.sysCtlwr a b) s = .next { u with frag := { s.frag with status := .stalled } }) ∧
      (¬ windowRefused s.dev s.crew.ctx n x → (∀ h ∈ s.dev.hubs, s.crew.ctx ∈ h.slots → keyWaits s.dev h.key = false) →
        ∃ t, exec (.sysCtlwr a b) s = .next t ∧ sets t ∧ (∀ h ∈ t.dev.hubs, s.crew.ctx ∉ h.slots) ∧
          ((∀ h ∈ s.dev.hubs, s.crew.ctx ∉ h.slots) → ∀ p, byteAt t.dev p = byteAt s.dev p))) ∧
    (0x610 ≤ n → n < 0x620 →
      (¬ watchKept s.dev s.crew.ctx n x → refused) ∧
      (watchKept s.dev s.crew.ctx n x → ∃ t, exec (.sysCtlwr a b) s = .next t ∧ sets t ∧ ∀ p, byteAt t.dev p = byteAt s.dev p)) ∧
    (n = 0x631 → focusApart s →
      let job := x ++ slotWord s.dev s.crew.ctx 0x630
      let asked := fun c : Crew => if c.ctx = s.crew.ctx ∧ (job = 0#64 ∨ c.job = job) ∧ c.state = .running
        then { c with state := .requested, preq := some (s.clk + c.deadline), preqFor := none } else c
      ∃ t, exec (.sysCtlwr a b) s = .next t ∧ (∀ k, slotWord t.dev s.crew.ctx k = slotWord s.dev s.crew.ctx k) ∧
        t.dev.crews = s.dev.crews.map asked ∧ { t.crew with waves := [] } = { asked s.crew with waves := [] }) ∧
    (n = 0x701 →
      (chbszRefused s x.toNat → refused) ∧
      (¬ chbszRefused s x.toNat → exec (.sysCtlwr a b) s = .next { u with
        frag := gone, crew := { s.crew with chain := { s.crew.chain with bsz := x.toNat } } })) ∧
    (n = 0x702 → exec (.sysCtlwr a b) s = .next { u with
        frag := gone, crew := { s.crew with chain := { s.crew.chain with snap := x.toNat } } })

/-- R310, R338, R340: CTLWR in trap mode sets a word's fields, of the fragment, the crew or the context, and of that
word alone; words that are read-only or none are illegal. -/
def wordsWritten338 : Prop :=
  ∀ s a b, Admitted (.sysCtlwr a b) .control s → s.frag.trapMode = true → let u := latchClk s [a, b]
    let n := (readSrc u b 0).toNat
    let x := readSrc u a 0
    let gone := fun f : Frag => pastParcels f (curParcels s.frag) s.clk
    (n ∈ [0x413, 0x600, 0x601, 0x621, 0x622, 0x700] ∨ (∀ v, ¬ WordHolds s n v) → exec (.sysCtlwr a b) s = .next (takeTrap u 0x08 false)) ∧
    (n = 0x410 → exec (.sysCtlwr a b) s = .next { u with frag := gone { s.frag with epc := (s.frag.epc &&& ~~~0xFFFFFFFF#64) ||| (x &&& 0xFFFFFFFC#32).setWidth 64 } }) ∧
    (n = 0x411 → exec (.sysCtlwr a b) s = .next { u with frag := gone { s.frag with epc := (s.frag.epc &&& 0xFFFFFFFF#64) ||| (x.setWidth 64 <<< 32) } }) ∧
    (n = 0x412 → exec (.sysCtlwr a b) s = .next { u with frag := gone { s.frag with epar := x &&& 0x7F#32 } }) ∧
    (0x414 ≤ n → n ≤ 0x416 → ∃ t, exec (.sysCtlwr a b) s = .next t ∧ (∀ k < 96, t.frag.eexec.getLsbD k =
      if k / 32 = n - 0x414 then x.getLsbD (k % 32) else s.frag.eexec.getLsbD k) ∧
      { t.frag with eexec := 0#96 } = gone { s.frag with eexec := 0#96 } ∧ t.wave = u.wave ∧ t.crew = s.crew ∧ t.dev = s.dev) ∧
    (n = 0x417 → fmtLegal x = true → exec (.sysCtlwr a b) s = .next { u with frag := gone { s.frag with efmt := x } }) ∧
    (n = 0x417 → fmtLegal x = false → exec (.sysCtlwr a b) s = .next (takeTrap u 0x08 false)) ∧
    (0x418 ≤ n → n ≤ 0x41F → exec (.sysCtlwr a b) s = .next { u with frag := gone { s.frag with esave := tabSet 0#32 s.frag.esave (n - 0x418) x } }) ∧
    (0x310 ≤ n → n ≤ 0x314 → ∃ t, exec (.sysCtlwr a b) s = .next t ∧ t.frag = gone s.frag ∧ t.wave = u.wave ∧ t.dev = s.dev ∧
      (∀ k, tabGet 0 t.crew.mx k = if k = n - 0x310 then x.toNat else tabGet 0 s.crew.mx k) ∧
      { t.crew with mx := [] } = { s.crew with mx := [] }) ∧
    (isCtxWord n = true → isReadOnly n = false → isReservedWord n = false → ¬ (0x520 ≤ n ∧ n < 0x530) →
      ¬ (0x610 ≤ n ∧ n < 0x621) → n ≠ 0x631 →
      ∃ t, exec (.sysCtlwr a b) s = .next t ∧ (∀ k, slotWord t.dev s.crew.ctx k = if k = n then ctlMask n x else slotWord s.dev s.crew.ctx k) ∧
        (∀ c k, c ≠ s.crew.ctx → slotWord t.dev c k = slotWord s.dev c k) ∧ (∀ p, byteAt t.dev p = byteAt s.dev p)) ∧
    (n = 0x620 → ∃ t, exec (.sysCtlwr a b) s = .next t ∧ ∀ k, slotWord t.dev s.crew.ctx k =
      if k = n then slotWord s.dev s.crew.ctx n &&& ~~~ x else slotWord s.dev s.crew.ctx k)

/-- R339: PARKRD and PARKWR in trap mode read and write a word of the park area; an offset that is no multiple of 4 is
misaligned, one at or past its end a window bound. -/
def parkAccess : Prop :=
  ∀ s a b, s.frag.trapMode = true →
    (Admitted (.sysParkrd a b) .control s → let u := latchClk s [b]
      let o := (readSrc u b 0).toNat
      (o % 4 ≠ 0 → exec (.sysParkrd a b) s = .next (takeTrap u 0x07 false)) ∧
      (o % 4 = 0 → s.crew.parkSize ≤ o → exec (.sysParkrd a b) s = .next (takeTrap u 0x06 false)) ∧
      (o % 4 = 0 → o < s.crew.parkSize → ∃ t, exec (.sysParkrd a b) s = .next t ∧ OnlyScalars s t [a.toNat - 0x80] ∧
        scalarReg t (a.toNat - 0x80) = BitVec.ofNat 32 (parkNat s.crew o 4))) ∧
    (Admitted (.sysParkwr a b) .control s → let u := latchClk s [a]
      let o := (readS s (b.toNat - 0x80)).toNat
      let x := readSrc u a 0
      let owned := ∀ p, recordAt s.crew o = some p → recordOwned s.crew p = true
      (o % 4 ≠ 0 → exec (.sysParkwr a b) s = .next (takeTrap u 0x07 false)) ∧
      (o % 4 = 0 → s.crew.parkSize ≤ o → exec (.sysParkwr a b) s = .next (takeTrap u 0x06 false)) ∧
      (o % 4 = 0 → o < s.crew.parkSize → owned → ∃ t, exec (.sysParkwr a b) s = .next t ∧ GoesOn s t ∧ t.wave = u.wave ∧ t.dev = s.dev ∧
        (∀ k, parkByte t.crew k = if o ≤ k ∧ k < o + 4 then BitVec.ofNat 8 (x.toNat / 256 ^ (k - o)) else parkByte s.crew k) ∧
        (∀ p ∈ t.crew.ops, ∃ q ∈ s.crew.ops, p.id = q.id ∧ p.status = q.status ∧
          (q.recOff = none → (copyOf q).bind CopyOp.xoff = none → p = q)) ∧
        { t.crew with park := [], ops := [] } = { s.crew with park := [], ops := [] }))

/-- R339: WATCH in trap mode sets a watchpoint of the context from its quad, when it is sound; TLBINV removes the
translations of its range and blocks until the invalidation completes; HALT contains the crew with the cause in ECAUSE. -/
def watchInvalidateHalt : Prop :=
  ∀ s a w, s.frag.trapMode = true →
    (Admitted (.sysWatch w a) .control s →
      let q := fun k => readS s (a.toNat - 0x80 + k)
      let sound := 2 ≤ (q 2).toNat ∧ (q 2).toNat ≤ 30 ∧ (readS64 s (a.toNat - 0x80)).toNat % 2 ^ (q 2).toNat = 0 ∧ (q 3).toNat < 16
      (sound → ∃ t, exec (.sysWatch w a) s = .next t ∧ GoesOn s t ∧ t.wave = s.wave ∧ t.crew = s.crew ∧
        (∀ k < 4, slotWord t.dev s.crew.ctx (0x610 + 4 * w.toNat + k) = q k) ∧
        (∀ k, k < 0x610 + 4 * w.toNat ∨ 0x614 + 4 * w.toNat ≤ k → slotWord t.dev s.crew.ctx k = slotWord s.dev s.crew.ctx k) ∧
        ∀ p, byteAt t.dev p = byteAt s.dev p) ∧
      (¬ sound → exec (.sysWatch w a) s = .next (takeTrap s 0x08 false))) ∧
    (Admitted (.sysTlbinv a) .control s →
      let size := (readS s (a.toNat - 0x80 + 2)).toNat
      let lo := (readS64 s (a.toNat - 0x80)).toNat % 2 ^ 57
      let sound := 12 ≤ size ∧ size ≤ 57 ∧ readS s (a.toNat - 0x80 + 3) = 0#32
      (s.frag.resume = .released → exec (.sysTlbinv a) s = .next (advance s)) ∧
      (s.frag.resume ≠ .released → ¬ sound → exec (.sysTlbinv a) s = .next (takeTrap s 0x08 false)) ∧
      (s.frag.resume ≠ .released → sound → ∃ t, exec (.sysTlbinv a) s = .next t ∧
        t.frag.status = .blocked (.tlbinv s.dev.nextInv) ∧ (∃ i ∈ t.dev.invals, i.id = s.dev.nextInv ∧ i.who = .tlbinv (selfRef s)) ∧
        (∀ e ∈ t.dev.tlb, e ∈ s.dev.tlb ∧ ¬ (e.tag = s.crew.ctag ∧ e.base < lo + 2 ^ size ∧ lo < e.base + 2 ^ e.size)) ∧
        ∀ p, byteAt t.dev p = byteAt s.dev p)) ∧
    (Admitted .sysHalt .control s → exec .sysHalt s =
      .next { s with crew := { s.crew with contained := some (s.frag.ecause.toNat % 256) } })

/-- R72, R107, R167, R200, R260, R310, R313, R338 to R340, R428: the system instructions in trap mode and outside it. -/
def Obligations.SystemInstructions : Prop :=
  sysOutside ∧ wordsRead338 ∧ wordsWritten338 ∧ wordsChecked ∧ parkAccess ∧ watchInvalidateHalt

/-! ### Timers and pre-emption -/

/-- The fragment a name stands for. -/
def fragAt (d : Dev) (r : FragRef) (f : Frag) : Prop :=
  ∃ c w, findCrew d r.crew = some c ∧ findWave c r.wave = some w ∧ findFrag w r.frag = some f

/-- The device but for its crews. -/
def CrewsOnly (d e : Dev) : Prop := { e with crews := [] } = { d with crews := [] }

/-- The device but for its crews and the INVALs that wait at weight slots. -/
def CrewsAndInvals (d e : Dev) : Prop := { e with crews := [], slotInvals := [] } = { d with crews := [], slotInvals := [] }

/-- R197, R243, R267: a fragment Ready and without an issue for 1,024 clocks is aged; one whose SLEEP has run out goes on;
one whose BAR.WAITT has reached its limit goes on with that answer; any other stays as it is. -/
def timers : Prop :=
  ∀ s r f, fragAt (stow s).dev r f →
    (∃ t, exec (.fragmentAged r) s = .next t ∧ CrewsOnly s.dev t.dev ∧ fragAt t.dev r
      (if (f.status = .ready ∨ f.status = .stalled) ∧ max f.age f.issued + 1024 ≤ s.clk then { f with aged := true } else f)) ∧
    (∃ t, exec (.sleepExpire r) s = .next t ∧ CrewsOnly s.dev t.dev ∧
      (∀ n, f.status = .blocked (.sleep n) → n ≤ s.clk →
        fragAt t.dev r { f with status := .ready, resume := .released, age := s.clk }) ∧
      ((∀ n, f.status = .blocked (.sleep n) → s.clk < n) → fragAt t.dev r f)) ∧
    (∃ t, exec (.waittTimeout r) s = .next t ∧ CrewsOnly s.dev t.dev ∧
      (∀ o p n, f.status = .blocked (.barrierT o p n) → n ≤ s.clk →
        fragAt t.dev r { f with status := .ready, resume := .timedOut, age := s.clk }) ∧
      ((∀ o p n, f.status = .blocked (.barrierT o p n) → s.clk < n) → fragAt t.dev r f))

/-- R197, R243, R267: CTL.SLEEP, and the timers of fragments. -/
def Obligations.SleepAndTimers : Prop := sleep ∧ timers

/-- R168, R171: a request that has run out forces the save. -/
def deadlines : Prop :=
  ∀ s k c, findCrew (stow s).dev k = some c → ∃ t, exec (.preqExpire k) s = .next t ∧ CrewsOnly s.dev t.dev ∧
    (∀ x, x ≠ k → findCrew t.dev x = findCrew (stow s).dev x) ∧
    (∀ n, c.state = .requested → c.preq = some n → n ≤ s.clk → findCrew t.dev k = some { c with forced := true }) ∧
    (c.state ≠ .requested ∨ c.preq = none ∨ (∃ n, c.preq = some n ∧ s.clk < n) → findCrew t.dev k = some c)

/-- R171, R172, R203: a requested crew whose fragments have all yielded, or, where its save is forced, stopped, is saved:
what has neither taken its place nor stopped parks; its INVALs stay among its core's accesses to the slots (R362); a crew that is not
to be saved, or that has no fragment left (R178), stays.  Where a forced save stops a fragment is the model's choice for one that
waits behind its own access (assumption 64) and for one inside a clause it has not fetched (assumption 81), as it is that a load
issued from the slot list is dropped (assumption 52). -/
def crewsSaved : Prop :=
  ∀ s k c, findCrew (stow s).dev k = some c →
    (c.state = .running → pageBound (stow s).dev c = false → exec (.crewSave k) s = .next (stow s)) ∧
    (c.state = .requested → (∀ w ∈ c.waves, w.frags = []) → exec (.crewSave k) s = .next (stow s)) ∧
    (c.state = .requested → (∃ w ∈ c.waves, w.frags ≠ []) →
      (∀ w ∈ c.waves, ∀ f ∈ w.frags, countsYielded c w f = true ∨ c.forced = true ∧ stoppedForced c w f = true) →
      (c.ops = [] → ∃ t, exec (.crewSave k) s = .next t ∧ CrewsAndInvals s.dev t.dev ∧
        (∀ v ∈ s.dev.slotInvals, (if v.crew = some k then { v with crew := none } else v) ∈ t.dev.slotInvals) ∧
        (∀ x, x ≠ k → findCrew t.dev x = findCrew (stow s).dev x) ∧
        findCrew t.dev k = some { c with
          state := .saved, forced := false, preq := none, preqFor := none, opc := [], since := none, hold := false }) ∧
      (∀ y, savedCrew (stow s).dev c = some y → ∃ t, exec (.crewSave k) s = .next t ∧ CrewsAndInvals s.dev t.dev ∧
        findCrew t.dev k = some y ∧
        (∀ v ∈ s.dev.slotInvals, (if v.crew = some k then { v with crew := none } else v) ∈ t.dev.slotInvals) ∧
        y.state = .saved ∧ y.waves = c.waves ∧ y.scratch = c.scratch ∧
        y.ops.map Op.id = (c.ops.filter (fun o => !isReload o)).map Op.id ∧
        ∀ o ∈ y.ops, o.status = .inflight → (memOf o).isSome ∨ (∃ m, o.body = .mmao m) ∨ ∃ m, o.body = .mmat m))

/-- R38, R154, R172, R204, R364: a saved crew that may run again on a core of its die runs there: yielded fragments at
their next clauses, sleeps over, parked operations under way, the slot list's loads issued; where a handler rewrote a
live record of it, what that operation does is undefined and stays the crew's own (R3, R339; the outcomes are the model's choice:
assumption 63); a crew that may not run stays saved. -/
def crewsResumed : Prop :=
  ∀ s k cx cy x, findCrew (stow s).dev k = some x → cx < 48 → cy < 32 →
    (x.state ≠ .saved → exec (.crewResume k cx cy) s = .next (stow s)) ∧
    (x.state = .saved → mayResume (stow s).dev x (cx + 48 * cy) = false → (∀ c ∈ (stow s).dev.crews, c.uid = k → c = x) →
      ∃ t, exec (.crewResume k cx cy) s = .next t ∧ findCrew t.dev k = some x ∧ CrewsOnly s.dev t.dev) ∧
    (x.state = .saved → mayResume (stow s).dev x (cx + 48 * cy) = true →
      let rewritten := ∃ o ∈ x.ops, o.tampered = true ∧ ∃ n, o.status = .parked n
      -- a product that has not fetched, and a load of a slot, look afresh behind the slot list; what was parked goes on
      let again := fun o : Op =>
        let o1 := if (mmaoOf o).isSome ∨ (mmatOf o).isSome ∨ (wbufSlot o).isSome
          then { o with turn := s.nfree, memMark := s.dev.histSeq, scMark := x.shistSeq } else o
        if opParked o = true
          then { o1 with status := .inflight, memMark := s.dev.histSeq, scMark := x.shistSeq, follows := [], awaits := [], body := resumeBody o.body }
          else o1
      (rewritten → ∃ (t : State) (y : Crew), exec (.crewResume k cx cy) s = .next t ∧
        findCrew t.dev k = some y ∧ CrewsAndInvals s.dev t.dev ∧
        y.state = .running ∧ y.core = cx + 48 * cy ∧
        ∀ u, u ≠ k → findCrew t.dev u = findCrew (withdrawFor (stow s).dev s.clk k) u) ∧
      (¬ rewritten → (x.ops.Pairwise fun a b => a.id ≠ b.id) → ∃ (t : State) (y : Crew), exec (.crewResume k cx cy) s = .next t ∧
        findCrew t.dev k = some y ∧ CrewsAndInvals s.dev t.dev ∧
        t.dev.slotInvals = s.dev.slotInvals.map (fun v =>
          if v.crew = some k then { v with core := cx + 48 * cy, turn := s.nfree } else v) ∧
        y.state = .running ∧ y.core = cx + 48 * cy ∧ y.opc = [] ∧ y.scratch = x.scratch ∧ y.park = x.park ∧
        y.waves.length = x.waves.length ∧
        (∀ (i : Nat) (w : Wave), x.waves[i]? = some w → ∃ w' : Wave, y.waves[i]? = some w' ∧
          w'.frags = w.frags.map (fun f => if f.status = .yieldedJob then gotoClause f (nextClause f) s.clk
            else match f.status with
              | .blocked (.sleep _) => { f with status := .ready, resume := .released, age := s.clk }
              | _ => f) ∧
          { w' with slot := 0, frags := [] } = { w with slot := 0, frags := [] }) ∧
        y.ops.take x.ops.length = x.ops.map again ∧ (∀ o ∈ y.ops.drop x.ops.length, isReload o = true) ∧
        ((∀ p, 0x1000 ≤ p → p < 0x1200 → parkByte x p = 0#8) → y.ops = x.ops.map again ∧ y.contained = x.contained)))

/-- R3, R339: what PARKWR into a record no operation owns does beyond its bytes is undefined, and stays the crew's own: it
goes on, or is contained (the outcomes are the model's choice: assumption 63). -/
def orphansWritten : Prop :=
  ∀ s a b, Admitted (.sysParkwr a b) .control s → s.frag.trapMode = true → let u := latchClk s [a]
    let o := (readS s (b.toNat - 0x80)).toNat
    let x := readSrc u a 0
    o % 4 = 0 → o < s.crew.parkSize → (∃ p, recordAt s.crew o = some p ∧ recordOwned s.crew p = false) →
    ∃ t, exec (.sysParkwr a b) s = .next t ∧ GoesOn s t ∧ t.wave = u.wave ∧ t.dev = s.dev ∧
      (∀ k, parkByte t.crew k = if o ≤ k ∧ k < o + 4 then BitVec.ofNat 8 (x.toNat / 256 ^ (k - o)) else parkByte s.crew k) ∧
      (t.crew.contained = s.crew.contained ∨ t.crew.contained ≠ none) ∧
      { t.crew with park := [], contained := none } = { s.crew with park := [], contained := none }

/-- Pre-emption: the deadline, the save, the restore, and records that handlers rewrite. -/
def Obligations.Preemption : Prop := deadlines ∧ crewsSaved ∧ crewsResumed ∧ orphansWritten

/-! ### The fault engine -/

/-- The numbers at which the entries of a fault queue are kept: 32 bytes of entry e (R326). -/
def fqWord (e : FqEntry) : Nat :=
  e.va.toNat + 2 ^ 64 * (e.seq % 2 ^ 32) + 2 ^ 96 * (e.kind % 256) + 2 ^ 104 * (e.acc % 256) + 2 ^ 112 * (e.die % 256) +
    2 ^ 128 * e.pa.toNat

/-- R326, R492: nothing stops the next entry of the slot's queue: no error stands, there is room, and its line exists and
is sound. -/
def FqOpen (d : Dev) (slot : Nat) : Prop :=
  let c := ctxOf d slot
  let a := (c.fq.toNat / 4096 % 2 ^ 40) * 4096 + 32 * (c.fqTail.toNat % 2 ^ (c.fq.toNat % 16 + 4))
  c.held = [] ∧ c.fqErr = false ∧ (c.fqTail - c.fqHead).toNat < 2 ^ (c.fq.toNat % 16 + 4) ∧ paExists d a = true ∧
    linePoisoned d (a / 128) = false

/-- R326: entry e stands in the slot's queue in memory, the tail one further, and nothing else of memory differs. -/
def FqWritten (d d' : Dev) (slot : Nat) (e : FqEntry) : Prop :=
  let c := ctxOf d slot
  let a := (c.fq.toNat / 4096 % 2 ^ 40) * 4096 + 32 * (c.fqTail.toNat % 2 ^ (c.fq.toNat % 16 + 4))
  (ctxOf d' slot).fqTail = c.fqTail + 1 ∧ (ctxOf d' slot).held = [] ∧ .msix slot ∈ d'.out ∧
    ∀ p, byteAt d' p = if a ≤ p ∧ p < a + 32 then BitVec.ofNat 8 (fqWord e / 256 ^ (p - a)) else byteAt d p

/-- R323, R326: a batch that is due asks for each of its device-table pages in its context's fault queue, under the
context's next sequence numbers; a batch of one page writes its entry; pages of the host's tables whose context has
page requests on go to the host in one group (R320); a batch that is not due changes nothing. -/
def batches323 : Prop :=
  ∀ s die, let d := (stow s).dev
    let g := d.missing.filter (fun m => m.die == die && m.phase == .gathering)
    let due := 64 ≤ g.length ∨ ∃ m ∈ g, m.since + 256 ≤ s.clk
    (¬ due → exec (.salamanderBatch die) s = .next (stow s)) ∧
    (due → (∀ m ∈ g, m.host = false) → (∀ k, (ctxOf d k).fqSeq < 2 ^ 32) →
      ∃ t, exec (.salamanderBatch die) s = .next t ∧ t.dev.missing.length = d.missing.length ∧ t.dev.crews = d.crews ∧
        (∀ k, (ctxOf t.dev k).fqSeq = ((ctxOf d k).fqSeq + (g.filter (fun m => m.slot == k)).length) % 2 ^ 32) ∧
        (∀ (i : Nat) (m : Missing), d.missing[i]? = some m → ∃ p, t.dev.missing[i]? = some { m with phase := p } ∧
          (m ∉ g → p = m.phase) ∧ (m ∈ g → ∃ j < (g.filter (fun x => x.slot == m.slot)).length,
            p = .asked (((ctxOf d m.slot).fqSeq + j) % 2 ^ 32))) ∧
        (∀ m, g = [m] → FqOpen d m.slot → FqWritten d t.dev m.slot
          ⟨(BitVec.ofNat 57 (m.page * 4096)).signExtend 64, (ctxOf d m.slot).fqSeq, 1, m.acc, die, 0#64⟩)) ∧
    (due → ∀ slot i, let c := ctxOf d slot
      (∀ m ∈ g, m.host = true ∧ m.slot = slot) → c.prien = true → c.priStop = false → d.host.up = true →
      d.groups.length < d.host.pri → freeGroup d c.pasid = some i →
      ∃ t, exec (.salamanderBatch die) s = .next t ∧ t.dev.groups = d.groups ++ [(c.pasid, i)] ∧ t.dev.crews = d.crews ∧
        (∀ m ∈ g, { m with phase := .requested (512 * c.pasid + i) } ∈ t.dev.missing ∧
          ∃ last, OutMsg.pageRequest c.pasid m.page m.acc i last ∈ t.dev.out)) ∧
    (due → ∃ t, exec (.salamanderBatch die) s = .next t)

/-- R36, R320, R324: Salamander looks for a page that has been answered.  Present, it is no longer missing: its waiting fragments
begin again, and an operation whose last missing page it was resumes; one still absent is missing anew; a host page is asked of the
host afresh, and while the link is down nothing happens; one that such a request found arrives.  Nothing happens to a crew that waits
for another page, whatever its handlers wrote (R3). -/
def pageArrivals : Prop :=
  ∀ s die slot page, let d := (stow s).dev
    let event := exec (.pageArrive die slot page) s
    let arrives := fun m : Missing => ∃ t, event = .next t ∧ t.dev.missing = d.missing.filter (fun x => x != m) ∧
      (∀ a, byteAt t.dev a = byteAt d a) ∧
      (∀ u, (∀ id, .op u id ∉ m.links) → (∀ f, .frag f ∈ m.links → f.crew ≠ u) → findCrew t.dev u = findCrew d u) ∧
      (∀ f x, .frag f ∈ m.links → fragAt d f x →
        fragAt t.dev f { x with status := .ready, resume := .fresh, age := s.clk }) ∧
      ∀ u id c o n, .op u id ∈ m.links → (∀ x ∈ d.missing, x ≠ m → .op u id ∉ x.links) → findCrew d u = some c →
        c.state ≠ .saved → findOp c id = some o → o.status = .parked n → o.tampered = false →
        ∃ c', findCrew t.dev u = some c' ∧ findOp c' id = some { o with
          status := .inflight, memMark := d.histSeq, scMark := c.shistSeq, follows := [], awaits := [], body := resumeBody o.body }
    (answeredPage d die slot page .resolved = none → answeredPage d die slot page .found = none → event = .next (stow s)) ∧
    (answeredPage d die slot page .resolved = none → ∀ m, answeredPage d die slot page .found = some m → arrives m) ∧
    (∀ m, answeredPage d die slot page .resolved = some m →
      let found := (walk d die slot s.nfree (page * 4096)).out
      let asked := m.host = true ∧ (ctxOf d slot).pasiden = true ∧ d.host.ats = true
      (found = .absent → ∃ t, event = .next t ∧ t.dev.crews = d.crews ∧
        { m with phase := .gathering, since := s.clk, host := false } ∈ t.dev.missing) ∧
      (found ≠ .absent → (∀ rd wr ex, found = .host rd wr ex → ¬ asked) → arrives m) ∧
      (∀ rd wr ex, found = .host rd wr ex → asked →
        (d.host.up = false → event = .next (stow s)) ∧
        (d.host.up = true → ∃ t, event = .next t ∧ t.dev.crews = d.crews ∧ { m with phase := .looking } ∈ t.dev.missing ∧
          ∃ r ∈ t.dev.atsReqs, r.id = d.nextAts ∧ r.slot = slot ∧ r.page = page ∧ r.entry = (rd, wr, ex) ∧ r.stale = false ∧
            r.links = [.page die slot page] ∧ ∃ w x, .atsRequest d.nextAts (ctxOf d slot).pasid page w x ∈ t.dev.out)))

/-- R315 to R317, R320, R325, R457: a completion, its fields in the bits of assumption 18, ends its request: a stale one is asked for
again, else what the host and the KIND 2 entry both grant is cached for its range at the die that asked, and what is refused of what
was wanted is noted for each access that waits, or, of a predicted page, missing; where Salamander asked for a page anew, the page is
found, or missing again. -/
def atsAnswers : Prop :=
  ∀ s i v, let d := (stow s).dev
    (d.atsReqs.find? (fun r => r.id == i) = none → exec (.atsCompletion i v) s = .next (stow s)) ∧
    (∀ r, d.atsReqs.find? (fun r => r.id == i) = some r → (∀ x ∈ d.atsReqs, x.id < d.nextAts) →
      ∃ t, exec (.atsCompletion i v) s = .next t ∧ (∀ x ∈ t.dev.atsReqs, x.id ≠ i) ∧ t.dev.crews = d.crews ∧
        let bound := (ctxOf d r.slot).en = true ∧ (ctxOf d r.slot).tag = r.tag ∧ (ctxOf d r.slot).gen = r.gen
        let rd := v.getLsbD 0 && r.entry.1
        let wr := v.getLsbD 1 && r.entry.2.1
        let ex := v.getLsbD 2 && r.entry.2.2
        let size := 12 + v.toNat / 8 % 64
        let refused := (r.rd = true ∧ rd = false) ∨ (r.wr = true ∧ wr = false) ∨ (r.ex = true ∧ ex = false)
        (r.stale = true → t.dev.tlb = d.tlb ∧ (d.host.up = true ∨ ¬ bound → t.dev.missing = d.missing) ∧ (d.host.up = true → bound →
          ∃ x ∈ t.dev.atsReqs, x.slot = r.slot ∧ x.page = r.page ∧ x.rd = r.rd ∧ x.wr = r.wr ∧ x.ex = r.ex ∧ x.links = r.links)) ∧
        (r.stale = false → (rd || wr || ex) = true → (⟨1536 + r.die, r.tag, r.gen, r.page * 4096 / 2 ^ size * 2 ^ size, size,
          v.toNat / 4096 % 2 ^ 36 * 4096 / 2 ^ size * 2 ^ size, 0, rd, wr, ex, true⟩ : TlbEntry) ∈ t.dev.tlb) ∧
        (r.stale = false → (rd || wr || ex) = false → t.dev.tlb = d.tlb) ∧
        (r.stale = false → ¬ bound → t.dev.missing = d.missing ∧ t.dev.atsDenied = d.atsDenied) ∧
        (r.stale = false → bound → refused →
          (∀ k ∈ r.links, (∀ die slot page, k ≠ .page die slot page) →
            ∃ x ∈ t.dev.atsDenied, x.slot = r.slot ∧ x.link = k ∧ x.page = r.page) ∧
          ∀ k, r.pred = some k → ∃ x ∈ t.dev.missing, x.die = k ∧ x.page = r.page ∧ x.tag = r.tag) ∧
        (r.stale = false → bound → ∀ die slot page m, r.links = [.page die slot page] → r.pred = none →
          answeredPage d die slot page .looking = some m →
          let wanted := ∃ w ∈ m.wants, (w.testBit 0 = true → rd = true) ∧ (w.testBit 1 = true → wr = true) ∧ (w.testBit 2 = true → ex = true)
          (wanted → { m with phase := .found } ∈ t.dev.missing) ∧
          (¬ wanted → { m with phase := .gathering, since := s.clk, host := true } ∈ t.dev.missing)))

/-- R317, R318: the host's withdrawal of a range removes what is cached of it in every slot of its PASID, makes requests
under way stale, and completes when the accesses that use it are through; a PASID of no slot completes at once. -/
def atsWithdrawals : Prop :=
  ∀ s pasid addr size tag, let d := (stow s).dev
    let lo := addr.toNat % 2 ^ 57
    let slots := slotsOfPasid d pasid
    (slots = [] → ∃ t, exec (.atsInvalidation pasid addr size tag) s = .next t ∧
      { t.dev with atsReqs := [] } = { d with atsReqs := [], out := .invalidationCompletion tag :: d.out } ∧
      (∀ r ∈ t.dev.atsReqs, r.pasid = pasid → r.page * 4096 < lo + size → lo < r.page * 4096 + 4096 → r.stale = true)) ∧
    (slots ≠ [] → ∃ t, exec (.atsInvalidation pasid addr size tag) s = .next t ∧
      (∃ i ∈ t.dev.invals, i.id = d.nextInv ∧ i.who = .ats tag) ∧ t.dev.out = d.out ∧ (∀ a, byteAt t.dev a = byteAt d a) ∧
      (∀ e ∈ t.dev.tlb, e ∈ d.tlb ∧ ∀ k ∈ slots, ¬ (e.tag = (ctxOf d k).tag ∧ e.base < lo + size ∧ lo < e.base + 2 ^ e.size)) ∧
      (∀ r ∈ t.dev.atsReqs, r.pasid = pasid → r.page * 4096 < lo + size → lo < r.page * 4096 + 4096 → r.stale = true))

/-- R313, R318, R339: an invalidation whose accesses are through completes for the party that asked. -/
def invalidationsEnd : Prop :=
  ∀ s n, let d := (stow s).dev
    (d.invals.find? (fun x => x.id == n) = none → exec (.invalidationComplete n) s = .next (stow s)) ∧
    (∀ i, d.invals.find? (fun x => x.id == n) = some i →
      (invalClear d i = false → exec (.invalidationComplete n) s = .next (stow s)) ∧
      (invalClear d i = true → ∃ t, exec (.invalidationComplete n) s = .next t ∧ (∀ x ∈ t.dev.invals, x.id ≠ n) ∧
        (∀ slot, i.who = .cxinvc slot → (ctxOf t.dev slot).invBusy = false ∧ t.dev.crews = d.crews) ∧
        (∀ tag, i.who = .ats tag → t.dev.out = .invalidationCompletion tag :: d.out ∧ t.dev.crews = d.crews) ∧
        ∀ f x, i.who = .tlbinv f → fragAt d f x → fragAt t.dev f
          (if x.status = .blocked (.tlbinv n) then { x with status := .ready, resume := .released, age := s.clk } else x)))

/-- R320, R364: the answer to a page request group, by the codes 0, 1 and other (assumption 18): Success resolves its pages; Invalid
Request stops what waits for them with a permission trap, and contains the crew of a slot's reload with its cause; a Response Failure
contains the crews and stops page requests. -/
def groupAnswers : Prop :=
  ∀ s group code, let d := (stow s).dev
    let pasid := group / 512
    let mine := d.missing.filter (fun m => m.phase == .requested group)
    ((pasid, group % 512) ∉ d.groups → exec (.prgResponse group code) s = .next (stow s)) ∧
    ((pasid, group % 512) ∈ d.groups → ∃ t, exec (.prgResponse group code) s = .next t ∧
      (pasid, group % 512) ∉ t.dev.groups ∧
      (code = 0 → t.dev.missing = d.missing.map (fun m => if m.phase = .requested group then { m with phase := .resolved } else m) ∧
        t.dev.crews = d.crews) ∧
      (code = 1 → (∀ m ∈ mine, ∀ k ∈ m.links, ∃ u id, k = .op u id) →
        (∀ m ∈ t.dev.missing, m.phase ≠ .requested group) ∧
        ∀ m ∈ mine, ∀ u id c o, .op u id ∈ m.links → findCrew d u = some c → findOp c id = some o →
          ∃ c' o', findCrew t.dev u = some c' ∧ findOp c' id = some o' ∧
            (isReload o = false → o'.status = .late 0x02 ∨ o'.status = .late 0x03) ∧ (isReload o = true → c'.contained ≠ none)) ∧
      (2 ≤ code → (∀ m ∈ t.dev.missing, m.phase ≠ .requested group) ∧
        (∀ k ∈ slotsOfPasid t.dev pasid, (ctxOf t.dev k).priStop = true) ∧
        ∀ m ∈ mine, ∀ u id c, .op u id ∈ m.links → findCrew t.dev u = some c → c.contained = some 0x01))

/-- R327: system software's answer to a fault-queue entry: the page is looked for again, or, failed, contains the crews
that wait for it. -/
def queueAnswers : Prop :=
  ∀ s slot (v : BitVec 64), let d := (stow s).dev
    let asked := d.missing.find? (fun m => m.slot == slot && m.phase == .asked (v.toNat % 2 ^ 32))
    ((ctxOf d slot).en = false ∨ asked = none ∨ d.plat.startup.minimal = true ∨ 64 ≤ slot → exec (.cxfresp slot v) s = .next (stow s)) ∧
    (∀ m, (ctxOf d slot).en = true → asked = some m → d.plat.startup.minimal = false → slot < 64 → ∃ t, exec (.cxfresp slot v) s = .next t ∧
      (v.getLsbD 32 = false → { m with phase := .resolved } ∈ t.dev.missing ∧ m ∉ t.dev.missing ∧ t.dev.crews = d.crews) ∧
      (v.getLsbD 32 = true → m ∉ t.dev.missing ∧
        ∀ u id c, .op u id ∈ m.links → findCrew t.dev u = some c → c.contained = some 0x01))

/-- R311: the removal of a wrapped tag's entries, in the TLBs and the L1 caches, finishes. -/
def wrapsClear : Prop :=
  ∀ s tag, ∃ t, exec (.wrapClear tag) s = .next t ∧ t.dev.crews = (stow s).dev.crews ∧ tag ∉ t.dev.wraps ∧
    (∀ x, x ≠ tag → (x ∈ t.dev.wraps ↔ x ∈ s.dev.wraps)) ∧ (tag ∉ s.dev.wraps → t = stow s) ∧
    (tag ∈ s.dev.wraps → ∀ e, e ∈ t.dev.tlb ↔ e ∈ s.dev.tlb ∧ e.tag ≠ tag) ∧
    (tag ∈ s.dev.wraps → ∀ e ∈ t.dev.pc.l1, e.tag ≠ tag)

/-- The fault engine: batches, arrivals, the host's and system software's answers, invalidations (R311, R313, R315 to
R318, R320, R323 to R327). -/
def Obligations.FaultEngine : Prop :=
  batches323 ∧ pageArrivals ∧ atsAnswers ∧ atsWithdrawals ∧ invalidationsEnd ∧ groupAnswers ∧ queueAnswers ∧ wrapsClear

/-! ### Context registers -/

/-- R485: in minimal mode, and where there is no such slot, a write or read of a context slot's register does nothing (the model's
choice, assumption 57). -/
def slotsClosed : Prop :=
  ∀ s slot v, s.dev.plat.startup.minimal = true ∨ 64 ≤ slot →
    ∀ i ∈ [Instr.cxctl slot v, .cxfresp slot v, .cxinvc slot v, .cxpre slot v, .cxfq slot v, .cxfqhead slot v, .cxcwn slot v,
      .cxcwdRead slot, .cxcwdWrite slot v], exec i s = .next (stow s)

/-- A write to a slot's registers may take effect. -/
def SlotOpen (s : State) (slot : Nat) : Prop := s.dev.plat.startup.minimal = false ∧ slot < 64

/-- The device differs in the registers of one slot alone, which are now c. -/
def OnlySlot (d d' : Dev) (slot : Nat) (c : Context) : Prop :=
  ctxOf d' slot = c ∧ (∀ k, k ≠ slot → ctxOf d' k = ctxOf d k) ∧ { d' with contexts := [] } = { d with contexts := [] }

/-- R308 to R311: a write to CXCTL that would take a tag in use, change a live slot but for PRIEN, or change the tag or
the PASID of a bound slot, sets REFUSED and nothing else; any other sets the fields, and a slot newly bound takes the
tag's next generation and control words at their reset values.  Then its held fault-queue entries and its missing pages go and its
entries are numbered from 0 (the model's choice, assumptions 34 and 87), and no weight slot holds data of that tag and generation
(R16, R363). -/
def slotsBind : Prop :=
  ∀ s slot (v : BitVec 64), SlotOpen s slot → let d := (stow s).dev
    let c := ctxOf d slot
    let en := v.getLsbD 0
    let pasiden := v.getLsbD 1
    let tag := v.toNat / 16 % 4096
    let pasid := v.toNat / 2 ^ 20 % 2 ^ 20
    let taken := en = true ∧ ∃ e ∈ d.contexts, e.1 ≠ slot ∧ e.2.en = true ∧ e.2.tag = tag
    let busy := ctxLive d slot = true ∧ ¬ (en = c.en ∧ pasiden = c.pasiden ∧ tag = c.tag ∧ pasid = c.pasid)
    let moved := c.en = true ∧ en = true ∧ (tag ≠ c.tag ∨ pasid ≠ c.pasid)
    let fields : Context := { c with
      en := en, pasiden := pasiden, prien := v.getLsbD 2, tag := tag, pasid := pasid, refused := false, priStop := false }
    let last := tabGet 0 d.tagGen tag
    (taken ∨ busy ∨ moved → ∃ t, exec (.cxctl slot v) s = .next t ∧ OnlySlot d t.dev slot { c with refused := true }) ∧
    (¬ (taken ∨ busy ∨ moved) → ¬ (en = true ∧ c.en = false) →
      ∃ t, exec (.cxctl slot v) s = .next t ∧ OnlySlot d t.dev slot fields) ∧
    (¬ (taken ∨ busy ∨ moved) → en = true ∧ c.en = false →
      ∃ t, exec (.cxctl slot v) s = .next t ∧ t.dev.crews = d.crews ∧ (∀ a, byteAt t.dev a = byteAt d a) ∧
        ctxOf t.dev slot = { fields with gen := last % 16, words := [], oldTabs := [], fqSeq := 0, held := [] } ∧
        (∀ k, k ≠ slot → ctxOf t.dev k = ctxOf d k) ∧ tabGet 0 t.dev.tagGen tag = last % 16 + 1 ∧
        (last = 16 → tag ∈ t.dev.wraps) ∧ (∀ m ∈ t.dev.missing, m.slot ≠ slot) ∧
        ∀ e ∈ t.dev.slots, e.2.tag = tag → e.2.gen ≠ last % 16)

/-- R167, R308, R313: CXINVC begins a full invalidation of a range, or of all, unless one is under way or its size is
unsound; CXPRE requests the pre-emption of the context's crews, or of one job's. -/
def slotsCommand : Prop :=
  ∀ s slot (v : BitVec 64), SlotOpen s slot → let d := (stow s).dev
    let c := ctxOf d slot
    let all := v.getLsbD 6
    let size := if all then 57 else v.toNat % 64
    let lo := if all then 0 else c.inva.toNat % 2 ^ 57 / 4096 * 4096
    let begins := c.invBusy = false ∧ 12 ≤ size ∧ size ≤ 57
    (¬ begins → exec (.cxinvc slot v) s = .next (stow s)) ∧
    (begins → ∃ t, exec (.cxinvc slot v) s = .next t ∧ (ctxOf t.dev slot).invBusy = true ∧
      (∃ i ∈ t.dev.invals, i.id = d.nextInv ∧ i.who = .cxinvc slot) ∧ (∀ a, byteAt t.dev a = byteAt d a) ∧
      (∀ e ∈ t.dev.tlb, e ∈ d.tlb ∧ ¬ (e.tag = c.tag ∧ e.base < lo + 2 ^ size ∧ lo < e.base + 2 ^ e.size))) ∧
    (v.getLsbD 0 = false → exec (.cxpre slot v) s = .next (stow s)) ∧
    (v.getLsbD 0 = true → ∃ t, exec (.cxpre slot v) s = .next t ∧ CrewsOnly d t.dev ∧
      t.dev.crews = d.crews.map (fun x => if x.ctx = slot ∧ (c.prej = 0#64 ∨ x.job = c.prej) ∧ x.state = .running then
        { x with state := .requested, preq := some (s.clk + x.deadline), preqFor := none } else x))

/-- R326, R492: CXFQ sets the queue's base and size and clears its error; CXFQHEAD says what has been consumed, and an
entry held for want of room is then written. -/
def slotsQueue : Prop :=
  ∀ s slot (v : BitVec 64), SlotOpen s slot → let d := (stow s).dev
    let c := ctxOf d slot
    (c.held = [] → ∃ t, exec (.cxfq slot v) s = .next t ∧
      OnlySlot d t.dev slot { c with fq := v &&& 0x000FFFFFFFFFF00F#64, fqErr := false }) ∧
    (c.held = [] → ∃ t, exec (.cxfqhead slot v) s = .next t ∧ OnlySlot d t.dev slot { c with fqHead := v }) ∧
    (∀ e, c.held = [e] → let d1 := updCtx d slot (fun c => { c with fqHead := v, held := [] })
      FqOpen d1 slot → ∃ t, exec (.cxfqhead slot v) s = .next t ∧ FqWritten d1 t.dev slot e)

/-- R310, R338: CXCWN selects a control word, CXCWD reads and writes it as CTLRD and CTLWR do; a word that is none of
Context scope, one that may not be written, and a slot not bound set CWERR and change nothing else. -/
def slotsWords : Prop :=
  ∀ s slot (v : BitVec 64), SlotOpen s slot → let d := (stow s).dev
    let c := ctxOf d slot
    let n := c.cwn
    let error := fun e => OnlySlot d e slot { c with cwErr := true }
    let sets := fun t : State => (∀ k, slotWord t.dev slot k = if k = n then ctlMask n (v.setWidth 32) else slotWord d slot k) ∧
      ∀ k, k ≠ slot → ctxOf t.dev k = ctxOf d k
    (∃ t, exec (.cxcwn slot v) s = .next t ∧ OnlySlot d t.dev slot { c with cwn := v.toNat % 65536, cwErr := false }) ∧
    (c.en = true ∧ isCtxWord n = true → exec (.cxcwdRead slot) s = .next (stow s) ∧
      cxcwdValue d slot = if n = 0x631 then 0#64 else (slotWord d slot n).setWidth 64) ∧
    (¬ (c.en = true ∧ isCtxWord n = true) → cxcwdValue d slot = 0#64 ∧ (∃ t, exec (.cxcwdRead slot) s = .next t ∧ error t.dev) ∧
      ∃ t, exec (.cxcwdWrite slot v) s = .next t ∧ error t.dev) ∧
    (c.en = true ∧ isCtxWord n = true →
      (isReadOnly n = true → ∃ t, exec (.cxcwdWrite slot v) s = .next t ∧ error t.dev) ∧
      (n = 0x631 → ∃ t, exec (.cxcwdWrite slot v) s = .next t ∧ CrewsOnly d t.dev ∧
        let job := v.setWidth 32 ++ slotWord d slot 0x630
        t.dev.crews = d.crews.map (fun x => if x.ctx = slot ∧ (job = 0#64 ∨ x.job = job) ∧ x.state = .running then
          { x with state := .requested, preq := some (s.clk + x.deadline), preqFor := none } else x)) ∧
      (0x520 ≤ n → n < 0x530 → n % 4 ≠ 3 →
        (windowRefused d slot n (v.setWidth 32) → ∃ t, exec (.cxcwdWrite slot v) s = .next t ∧ error t.dev) ∧
        (¬ windowRefused d slot n (v.setWidth 32) → ∃ t, exec (.cxcwdWrite slot v) s = .next t ∧ sets t)) ∧
      (0x610 ≤ n → n < 0x620 →
        (¬ watchKept d slot n (v.setWidth 32) → ∃ t, exec (.cxcwdWrite slot v) s = .next t ∧ error t.dev) ∧
        (watchKept d slot n (v.setWidth 32) → ∃ t, exec (.cxcwdWrite slot v) s = .next t ∧ sets t)) ∧
      (n = 0x620 → ∃ t, exec (.cxcwdWrite slot v) s = .next t ∧ ∀ k, slotWord t.dev slot k =
        if k = n then slotWord d slot n &&& ~~~ (v.setWidth 32) else slotWord d slot k) ∧
      (isReadOnly n = false → isReservedWord n = false → ¬ (0x520 ≤ n ∧ n < 0x530) → ¬ (0x610 ≤ n ∧ n < 0x621) → n ≠ 0x631 →
        ∃ t, exec (.cxcwdWrite slot v) s = .next t ∧ t.dev.crews = d.crews ∧ (∀ a, byteAt t.dev a = byteAt d a) ∧ sets t))

/-- The registers of the context slots (R16, R167, R260, R308 to R311, R313, R326, R340, R485, R492). -/
def Obligations.ContextRegisters : Prop := slotsClosed ∧ slotsBind ∧ slotsCommand ∧ slotsQueue ∧ slotsWords

/-! ### The page cache and the ports -/

/-- Memory as it was. -/
def SameMemory (d d' : Dev) : Prop := ∀ a, byteAt d' a = byteAt d a

/-- The device differs in its page cache alone. -/
def CacheOnly (d d' : Dev) : Prop := { d' with pc := d.pc } = d

/-- R138, R139, R146, R335, R478: what is written from outside takes its place, but for bytes of class 0 in poison-marked
lines or in the reserved part of the private region, and in minimal mode all of class 0 (R485); the device holds none of the backing
lines, and watchpoints that match what was written are reported. -/
def outsideWrites : Prop :=
  ∀ s pa (bytes : List (BitVec 8)), let d := (stow s).dev
    let dropped := fun a => paClass a = 0 ∧ (d.plat.startup.minimal = true ∨ d.priv - d.plat.privres * 2 ^ 20 ≤ a)
    let len := ((List.range bytes.length).filter (fun i => ¬ dropped (pa + i))).length
    ∃ t, exec (.hostWrite pa bytes) s = .next t ∧ t.dev.crews = d.crews ∧
      ((∀ k < 64, (ctxOf d k).en = true → physHits d k pa len = []) →
        (∀ a, byteAt t.dev a = match if pa ≤ a then bytes[a - pa]? else none with
          | none => byteAt d a
          | some b => if dropped a ∨ (paClass a = 0 ∧ markedPoison (a / 128) d.poison = true) then byteAt d a else b) ∧
        ∀ a, pa ≤ a → a < pa + bytes.length → paClass (a / 128 * 128) ≠ 0 → l2Of t.dev.pc (a / 128) = none) ∧
      (0 < len → ∀ k < 64, (ctxOf d k).en = true → ∀ i ∈ physHits d k pa len,
        (slotWord t.dev k 0x620).getLsbD i = true)

/-- R463, R464: a snoop of a host line, or a pool's back-invalidation, that asks for data leaves a modified line shared
and written back, L2's copy the newer where it was modified there, so that a frame's goes; one that invalidates leaves it in no L1, L2
or frame; a current read changes nothing.  That the three have the kinds 0, 1 and 2 is the model's choice (assumption 19). -/
def snoopAnswers : Prop :=
  ∀ s line kind, let d := (stow s).dev
    let answered := fun t : State => CacheOnly d t.dev ∧
      (kind = 0 → l2Of t.dev.pc line = (if l2Of d.pc line = some .m then some .s else l2Of d.pc line) ∧
        (l2Of d.pc line = some .m → ∀ x ∈ t.dev.pc.l1, x.pline ≠ line) ∧
        (∀ q, q ≠ line / 32 → frameOf t.dev.pc q = frameOf d.pc q) ∧
        (∀ f, frameOf d.pc (line / 32) = some f → ∃ g, frameOf t.dev.pc (line / 32) = some g ∧ g.state = f.state ∧
          line % 32 ∉ g.dirty ∧ (∀ i, i ≠ line % 32 → (i ∈ g.dirty ↔ i ∈ f.dirty)) ∧
          frameTag g line = if l2Of d.pc line = some .m then tagAbsent else frameTag f line)) ∧
      (kind = 1 → l2Of t.dev.pc line = none ∧ (∀ x ∈ t.dev.pc.l1, x.pline ≠ line) ∧ ∀ f, frameOf t.dev.pc (line / 32) = some f →
        frameTag f line = tagAbsent ∧ line % 32 ∉ f.dirty) ∧
      ∀ x, x ≠ line → l2Of t.dev.pc x = l2Of d.pc x
    (paClass (line * 128) ≠ 1 ∨ 2 ≤ kind → exec (.snoop line kind) s = .next (stow s)) ∧
    (paClass (line * 128) = 1 → ∃ t, exec (.snoop line kind) s = .next t ∧ answered t) ∧
    (paClass (line * 128) ≠ 2 ∨ 2 ≤ kind → exec (.backInvalidation line kind) s = .next (stow s)) ∧
    (paClass (line * 128) = 2 → ∃ t, exec (.backInvalidation line kind) s = .next t ∧ answered t)

/-- R461, R476: when 2^DECAY clocks have passed every access counter halves; a region that still stands at PROMO, fills being
stopped nowhere, is promoted: its touched pages start to fill and its counter returns to zero; in minimal mode no counter runs. -/
def countersHalve : Prop :=
  ∀ s, let p := (stow s).dev.pc
    let q := { p with
      counters := p.counters.map (fun e => (e.1, e.2.1 / 2, e.2.2)), decayAt := p.decayAt + 2 ^ max 10 p.decay }
    (s.dev.plat.startup.minimal = true → exec .counterDecay s = .next (stow s)) ∧
    (s.dev.plat.startup.minimal = false → p.decayAt + 2 ^ max 10 p.decay ≤ s.clk → ∃ t, exec .counterDecay s = .next t ∧ CacheOnly (stow s).dev t.dev ∧
      t.dev.pc.decayAt = q.decayAt ∧ t.dev.pc.l2 = p.l2 ∧
      (p.promo = 0 ∨ (∀ e ∈ q.counters, e.2.1 < p.promo) → t.dev.pc = q) ∧
      (∀ region cnt mask, p.counters = [(region, cnt, mask)] → p.promo ≠ 0 → p.promo ≤ cnt / 2 →
        (∀ die, (pcDie p die).fillstop = false) → tabGet (0, 0) t.dev.pc.counters region = (0, 0) ∧
          ∀ i < 16, mask.testBit i = true → frameOf p (region * 16 + i) = none →
            cacheable (stow s).dev ((region * 16 + i) * 32) = true →
            frameOf t.dev.pc (region * 16 + i) = some ⟨frameDie (region * 16 + i), .filling, [], [], 0, []⟩)) ∧
    (s.clk < p.decayAt + 2 ^ max 10 p.decay → exec .counterDecay s = .next (stow s))

/-- R460, R462 to R464, R466, R467, R469, R476: a fill ends with its page Resident; with chunks to spare every line is stored under its
encoding's tag, by the KEY of the page's leaf, but those that L2 holds modified, that a snoop has taken or that may not be held.  A Resident page begins to drain; of a Draining one lines leave, dirty ones
for their backing, and with the last of them its frame goes and its chunks are free. -/
def framesFillAndDrain : Prop :=
  ∀ s page, let d := (stow s).dev
    ((∀ f, frameOf d.pc page = some f → f.state ≠ .filling) → exec (.frameFill page) s = .next (stow s)) ∧
    (∀ f, frameOf d.pc page = some f → f.state = .filling →
      ∃ t g, exec (.frameFill page) s = .next t ∧ CacheOnly d t.dev ∧ frameOf t.dev.pc page = some g ∧ g.state = .resident ∧
        g.die = f.die ∧ (∀ i ∈ g.dirty, i ∈ f.dirty) ∧ (pcDie t.dev.pc f.die).fills = (pcDie d.pc f.die).fills + 1 ∧
        (f.tags = [] → f.dirty = [] → f.chunks = 0 → (pcDie d.pc f.die).fillstop = false →
          (pcDie d.pc f.die).low + 8 < (pcDie d.pc f.die).free → ∀ i < 32,
            frameTag g (page * 32 + i) = if l2Of d.pc (page * 32 + i) = some .m ∨ i ∈ f.taken ∨ cacheable d (page * 32 + i) = false
              then tagAbsent else tagUnder d (page * 32 + i) (tabGet 0 d.pc.pageKey page))) ∧
    (∀ die f, frameOf d.pc page = some f →
      (f.die ≠ die ∨ f.state = .filling → exec (.frameDrain die page) s = .next (stow s)) ∧
      (f.die = die → f.state = .resident →
        ∃ t, exec (.frameDrain die page) s = .next t ∧ CacheOnly d t.dev ∧ t.dev.pc.l2 = d.pc.l2 ∧
          frameOf t.dev.pc page = some { f with state := .draining } ∧
          ∀ k, (pcDie t.dev.pc k).free = (pcDie d.pc k).free ∧ (pcDie t.dev.pc k).wb = (pcDie d.pc k).wb) ∧
      (f.die = die → f.state = .draining → chunksOf f.tags ≤ f.chunks →
        ∃ t, exec (.frameDrain die page) s = .next t ∧ CacheOnly d t.dev ∧ t.dev.pc.l2 = d.pc.l2 ∧
          (∀ g, frameOf t.dev.pc page = some g → g.state = .draining ∧ g.die = die ∧ (∀ i ∈ g.dirty, i ∈ f.dirty) ∧
            (∀ i < 32, frameTag g (32 * page + i) = frameTag f (32 * page + i) ∨ frameTag g (32 * page + i) = tagAbsent) ∧
            (pcDie t.dev.pc die).free + g.chunks = (pcDie d.pc die).free + f.chunks ∧
            (pcDie t.dev.pc die).wb = (pcDie d.pc die).wb + ((List.range 32).filter (fun i => i ∈ f.dirty ∧
              frameTag f (32 * page + i) ≠ tagAbsent ∧ frameTag g (32 * page + i) = tagAbsent)).length) ∧
          (frameOf t.dev.pc page = none → (pcDie t.dev.pc die).free = (pcDie d.pc die).free + f.chunks ∧
            (pcDie t.dev.pc die).wb = (pcDie d.pc die).wb + ((List.range 32).filter (fun i => i ∈ f.dirty ∧
              frameTag f (32 * page + i) ≠ tagAbsent)).length)))

/-- R460, R465, R470, R476: a clean line leaves L2; a modified one goes into its frame where the frame has room, or to its
backing, straight there where its page is Draining. -/
def linesLeaveL2 : Prop :=
  ∀ s line, let d := (stow s).dev
    (l2Of d.pc line = none → exec (.l2Evict line) s = .next (stow s)) ∧
    (l2Of d.pc line ≠ none → ∃ t, exec (.l2Evict line) s = .next t ∧ CacheOnly d t.dev ∧ l2Of t.dev.pc line = none ∧
      (∀ x, x ≠ line → l2Of t.dev.pc x = l2Of d.pc x) ∧
      (l2Of d.pc line ≠ some .m → t.dev.pc.frames = d.pc.frames ∧ t.dev.pc.dies = d.pc.dies) ∧
      (l2Of d.pc line = some .m → frameOf d.pc (line / 32) = none → t.dev.pc.frames = d.pc.frames ∧
        ∀ die, (pcDie t.dev.pc die).wb = (pcDie d.pc die).wb +
          if paClass (line * 128) ≠ 0 ∧ die = lineDie line then 1 else 0) ∧
      ∀ f, l2Of d.pc line = some .m → frameOf d.pc (line / 32) = some f → f.state ≠ .draining →
        chunksOf (tabSet tagAbsent f.tags (line % 32) (lineTag d line)) ≤ f.chunks + (pcDie d.pc f.die).free →
          ∃ g, frameOf t.dev.pc (line / 32) = some g ∧ frameTag g line = lineTag d line ∧ line % 32 ∈ g.dirty ∧
            g.state = f.state) ∧
    (∀ f, l2Of d.pc line = some .m → frameOf d.pc (line / 32) = some f → f.state = .draining →
      ∃ t g, exec (.l2Evict line) s = .next t ∧ frameOf t.dev.pc (line / 32) = some g ∧ g.state = .draining ∧
        frameTag g line = tagAbsent ∧ line % 32 ∉ g.dirty ∧ (pcDie t.dev.pc f.die).wb = (pcDie d.pc f.die).wb + 1)

/-- R145, R472: an uncorrectable line of HBM: private or modified it is poison; clean it is ABSENT. -/
def hbmFails : Prop :=
  ∀ s line, let d := (stow s).dev
    (paClass (line * 128) = 0 → ∃ t, exec (.hbmUncorrectable line) s = .next t ∧ linePoisoned t.dev line = true ∧
      t.dev.out = .msix 64 :: d.out ∧ SameMemory d t.dev ∧ t.dev.pc = d.pc) ∧
    (paClass (line * 128) ≠ 0 → (∀ f, frameOf d.pc (line / 32) = some f → frameTag f line = tagAbsent) →
      exec (.hbmUncorrectable line) s = .next (stow s)) ∧
    (∀ f, paClass (line * 128) ≠ 0 → frameOf d.pc (line / 32) = some f → frameTag f line ≠ tagAbsent →
      ∃ t g, exec (.hbmUncorrectable line) s = .next t ∧ SameMemory d t.dev ∧ frameOf t.dev.pc (line / 32) = some g ∧
        (line % 32 ∈ f.dirty → l2Of d.pc line ≠ some .m → linePoisoned t.dev line = true ∧ frameTag g line = tagPoison ∧ t.dev.out = .msix 64 :: d.out) ∧
        (line % 32 ∉ f.dirty ∨ l2Of d.pc line = some .m → frameTag g line = tagAbsent ∧ t.dev.poison = d.poison ∧ t.dev.out = d.out))

/-- R473: every line that an enabled decoder sends to the port reads as poison. -/
def PortPoisoned (d d' : Dev) (port : Nat) : Prop :=
  ∀ e line, e ∈ d.decs.map Prod.snd → e.en = true → e.ports.testBit port = true → paClass (line * 128) = 2 →
    let page := paOffset (line * 128) / 4096
    e.base ≤ page → page < e.base + e.size → decPort e page = port → linePoisoned d' line = true

/-- R473, R474, R482: a pool's, a port's and the host link's failure: what lies behind it reads as poison, and what the device held of
the host's lines, in a frame or modified in L2, does so still once the link is up again.  POOL_FAIL's arguments, a range of lines with
0 lines for all behind the port, are the model's choice (assumption 19). -/
def linksFail : Prop :=
  ∀ s port, let d := (stow s).dev
    (∀ base size, size ≠ 0 → base + size ≤ 2 ^ 41 → ∃ t, exec (.poolFail port base size) s = .next t ∧ SameMemory d t.dev ∧
      t.dev.crews = d.crews ∧ .msix 64 ∈ t.dev.out ∧ ∀ line, base ≤ line → line < base + size →
        linePoisoned t.dev (2 * 2 ^ 48 / 128 + line) = true) ∧
    (∀ base, ∃ t, exec (.poolFail port base 0) s = .next t ∧ SameMemory d t.dev ∧ PortPoisoned d t.dev port) ∧
    (8 ≤ port → exec (.portFail port) s = .next (stow s)) ∧
    (port < 8 → ∃ t, exec (.portFail port) s = .next t ∧ SameMemory d t.dev ∧ PortPoisoned d t.dev port ∧ .msix 64 ∈ t.dev.out ∧
      (∀ k, tabGet default t.dev.ports k = if k = port then { tabGet default d.ports k with fail := true, gen := 0 }
        else tabGet default d.ports k)) ∧
    (d.host.up = false → exec .hostLinkDown s = .next (stow s)) ∧
    (d.host.up = true → ∃ t, exec .hostLinkDown s = .next t ∧ SameMemory d t.dev ∧ t.dev.host = { d.host with up := false } ∧
      t.dev.out = .msix 64 :: d.out ∧ ∀ line, paClass (line * 128) = 1 → linePoisoned t.dev line = true ∧ l2Of t.dev.pc line = none ∧
        ((l2Of d.pc line = some .m ∨ ∃ f, frameOf d.pc (line / 32) = some f ∧ frameTag f line ≠ tagAbsent) →
          linePoisoned { t.dev with host := { t.dev.host with up := true } } line = true))

/-- R479, R481, R485: the host link trains: a link that has been up before sets RECOV, and page requests wait; in minimal
mode it is PCIe 4.0. -/
def hostLinkTrains : Prop :=
  ∀ s, let d := (stow s).dev
    (d.host.up = true → exec .hostLinkUp s = .next (stow s)) ∧
    (d.host.up = false → ∃ t, exec .hostLinkUp s = .next t ∧ t.dev.host.up = true ∧ 4 ≤ t.dev.host.gen ∧ t.dev.host.gen ≤ 6 ∧
      t.dev.host.cxl < 4 ∧ SameMemory d t.dev ∧ t.dev.host.recov = (d.host.recov || d.host.gen != 0) ∧
      (d.plat.startup.minimal = true → t.dev.host.gen = 4 ∧ t.dev.host.cxl = 0) ∧
      (d.host.gen = 0 → t.dev.contexts = d.contexts ∧ t.dev.out = d.out) ∧
      (d.host.gen ≠ 0 → t.dev.out = .msix 64 :: d.out ∧ ∀ e ∈ t.dev.contexts, e.2.priStop = true))

/-- R471, R475: the clear of a backing page whose backing answers leaves its lines zero and without poison; of no backing
page, or without an answer, it fails; watermarks that are unsound are refused. -/
def clearsAndMarks : Prop :=
  ∀ s (v : BitVec 64), s.dev.plat.startup.minimal = false → let d := (stow s).dev
    let page := v.toNat / 4096 % 2 ^ 40
    let backed := paClass (page * 4096) = 1 ∨ paClass (page * 4096) = 2
    (d.pc.clrPage ≠ none → exec (.pcclr v) s = .next (stow s)) ∧
    (d.pc.clrPage = none → ¬ backed → ∃ t, exec (.pcclr v) s = .next t ∧ t.dev = { d with pc := { d.pc with clrFail := true } }) ∧
    (d.pc.clrPage = none → backed → ∃ t, exec (.pcclr v) s = .next t ∧ t.dev.pc.clrPage = some page ∧ t.dev.pc.clrFail = false ∧
      ∀ a, byteAt t.dev a = if a / 4096 = page ∧ a / 128 % 32 ∉ t.dev.pc.clrLeft then 0#8 else byteAt d a) ∧
    (d.pc.clrPage = none → exec .pcclrDone s = .next (stow s)) ∧
    (∀ p, d.pc.clrPage = some p → (∀ i ∈ d.pc.clrLeft, i < 32) → ∃ t, exec .pcclrDone s = .next t ∧ t.dev.pc.clrPage = none ∧
      t.dev.pc.clrFail = !(backingAnswers d p) ∧
      (∀ a, byteAt t.dev a = if backingAnswers d p = true ∧ a / 4096 = p ∧ a / 128 % 32 ∈ d.pc.clrLeft then 0#8 else byteAt d a) ∧
      (backingAnswers d p = true → ∀ i ∈ d.pc.clrLeft, linePoisoned t.dev (p * 32 + i) = false)) ∧
    (∀ die, let low := v.toNat % 2 ^ 32
      let high := v.toNat / 2 ^ 32
      (6 ≤ die → exec (.pcmark die v) s = .next (stow s)) ∧
      (die < 6 → low < 2048 ∨ high ≤ low → ∃ t, exec (.pcmark die v) s = .next t ∧ CacheOnly d t.dev ∧
        pcDie t.dev.pc die = { pcDie d.pc die with refused := true }) ∧
      (die < 6 → 2048 ≤ low → low < high → ∃ t, exec (.pcmark die v) s = .next t ∧ CacheOnly d t.dev ∧
        (pcDie t.dev.pc die).low = low ∧ (pcDie t.dev.pc die).high = high ∧ (pcDie t.dev.pc die).refused = false ∧
        (pcDie t.dev.pc die).fillstop = (if (pcDie d.pc die).free ≤ low then true
          else if high < (pcDie d.pc die).free then false else (pcDie d.pc die).fillstop)))

/-- Writes from outside, snoops, and the page cache (R138, R139, R335, R461 to R471, R475, R478). -/
def Obligations.CachesAndWrites : Prop :=
  outsideWrites ∧ snoopAnswers ∧ countersHalve ∧ framesFillAndDrain ∧ linesLeaveL2 ∧ clearsAndMarks

/-- Failures of HBM, pools, ports and the host link (R145, R472 to R474, R479, R481, R482). -/
def Obligations.FailuresPoison : Prop := hbmFails ∧ linksFail ∧ hostLinkTrains

/-! ### The die controllers -/

/-- R484, R485: the reason for minimal mode that the failure of step k gives; steps 5 and 6 fail a port, not the start. -/
def failReason : List (Nat × Nat) := [(1, 0x01), (2, 0x02), (3, 0x03), (4, 0x05)]

/-- R485: minimal mode for a reason, vector 65 sent, the host port PCIe at up to 4.0, and nothing else of memory or the
crews. -/
def EntersMinimal (d d' : Dev) (reason : Nat) : Prop :=
  d'.plat.startup.minimal = true ∧ d'.plat.startup.reason = reason ∧ .msix 65 ∈ d'.out ∧ SameMemory d d' ∧ d'.crews = d.crews ∧
  d'.host.cxl = 0 ∧ d'.host.gen = if d.host.up = true then 4 else d.host.gen

/-- R484, R485: start-up: a step is done when all six dies' controllers have taken it, and the sixth makes the device
READY; a failure, a die without an answer for 2^28 clocks, or a fourth start without READY ends it in minimal mode.  Step 4
installs the standard routines (R292).  That each step's outcome and the split of step 2 come from outside is the model's choice
(assumption 46). -/
def startsUp : Prop :=
  ∀ s die ok, let d := (stow s).dev
    let x := d.plat.startup
    let k := x.step + 1
    let open' := x.ready = false ∧ x.minimal = false ∧ die < 6 ∧ die ∉ x.reported
    let last := ∀ i < 6, i = die ∨ i ∈ x.reported
    (¬ open' → exec (.startupStep die ok) s = .next (stow s) ∧ exec (.startupTimeout die) s = .next (stow s)) ∧
    (open' → s.clk < x.since + 2 ^ 28 → exec (.startupTimeout die) s = .next (stow s)) ∧
    (open' → x.since + 2 ^ 28 ≤ s.clk → ∃ t, exec (.startupTimeout die) s = .next t ∧ EntersMinimal d t.dev 0x04 ∧
      t.dev.plat.startup.fscnt = if x.step = 0 then min 7 (x.fscnt + 1) else x.fscnt) ∧
    (∀ r, open' → ok = false → (k, r) ∈ failReason → ∃ t, exec (.startupStep die ok) s = .next t ∧ EntersMinimal d t.dev r ∧
      t.dev.plat.startup.fscnt = if k = 1 then min 7 (x.fscnt + 1) else x.fscnt) ∧
    (open' → ok = true ∨ 5 ≤ k → ¬ last → ∃ t, exec (.startupStep die ok) s = .next t ∧
      t.dev = { d with plat := { d.plat with startup := { x with reported := x.reported ++ [die] } } }) ∧
    (open' → ok = true ∨ 5 ≤ k → last → ∃ t, exec (.startupStep die ok) s = .next t ∧ t.dev.plat.startup.step = k ∧
      t.dev.plat.startup.reported = [] ∧ t.dev.plat.startup.ready = (k == 6) ∧ .msix 65 ∈ t.dev.out ∧ SameMemory d t.dev ∧
      (k = 1 → t.dev.plat.startup.fscnt = min 7 (x.fscnt + 1) ∧ t.dev.plat.startup.minimal = decide (3 ≤ x.fscnt) ∧
        (3 ≤ x.fscnt → t.dev.plat.startup.reason = 0x06)) ∧
      (k ≠ 1 → t.dev.plat.startup.minimal = false) ∧ (k = 6 → t.dev.plat.startup.fscnt = 0) ∧
      (k = 2 → ∃ g, t.dev.priv = 12 * g * 2 ^ 30 ∧ 1 ≤ g ∧ g ≤ 32 ∧
        ∀ die < 6, (pcDie t.dev.pc die).free = (768 - 12 * g) * 2 ^ 30 / 6 / 512) ∧ (k ≠ 2 → t.dev.priv = d.priv) ∧
      (k = 4 → ∀ n, 1 ≤ n → n ≤ 5 → (n, Config.standardImage n) ∈ t.dev.plat.sec.routines) ∧
      (k ≠ 4 → t.dev.plat.sec.routines = d.plat.sec.routines))

/-- R488: a line that was written under one key reads as its ciphertext under another: the bytes as they were written, where
that is the key they were written under, and else bytes that the manual does not give (the model's reading: assumption 42). -/
def Rekeyed (d d' : Dev) (line : Nat) (old new : List DWord) : Prop :=
  let made := ((d.sealed.find? (fun e => e.1 == line)).map Prod.snd).getD (old, bytesAt d (128 * line) 128)
  ∀ i < 128,
    (made.1 = new → ∀ b, made.2[i]? = some b → byteAt d' (128 * line + i) = b) ∧
    (made.1 ≠ new → byteAt d' (128 * line + i) = Config.rekey made.1 new line made.2 i)

/-- R488: every backing line written under an index that names a key of the list is rekeyed to none, and no other changes. -/
def KeysForgotten (d d' : Dev) : Prop :=
  (∀ a, paClass a ≠ 0 → (∀ e ∈ d.lineKey, e.1 = a / 128 → ∀ x ∈ d.plat.sec.keys, x.1 ≠ e.2) → byteAt d' a = byteAt d a) ∧
  ((d.lineKey.map Prod.fst).Nodup → (d.plat.sec.keys.map Prod.fst).Nodup → ∀ x ∈ d.plat.sec.keys, ∀ line,
    (line, x.1) ∈ d.lineKey → paClass (128 * line) ≠ 0 → Rekeyed d d' line x.2 [])

/-- R484, R485: RESET leaves the machine as right after reset but for host and pool memory and what is not volatile:
FSCNT, and firmware staged now runs; keys and routines are gone.  FSCLR clears FSCNT when 1 is written.  What a reset keeps
and clears is the model's reading (assumption 56). -/
def resets : Prop :=
  (∀ s, ∃ t, exec .reset s = .next t ∧ t.active = false ∧ t.clk = 0 ∧ t.dev.crews = [] ∧ t.dev.jobs = [] ∧
    t.dev.contexts = [] ∧ t.dev.tlb = [] ∧ t.dev.missing = [] ∧ t.dev.pc = PCache.reset ∧ t.dev.plat.power = Plat.reset.power ∧
    t.dev.host.up = false ∧ t.dev.plat.startup = { Plat.reset.startup with fscnt := s.dev.plat.startup.fscnt } ∧
    t.dev.plat.sec.firmware = s.dev.plat.sec.staged.getD s.dev.plat.sec.firmware ∧ t.dev.plat.sec.keys = [] ∧
    t.dev.plat.sec.routines = [] ∧ (∀ a, paClass a = 0 → byteAt t.dev a = 0#8) ∧ KeysForgotten s.dev t.dev) ∧
  ∀ s v, exec (.fsclr v) s = .next (if v = 1#64 ∧ s.dev.plat.startup.fscnt ≠ 0 then
    { stow s with dev := { (stow s).dev with
        plat := { (stow s).dev.plat with startup := { s.dev.plat.startup with fscnt := 0 } }
        out := .msix 65 :: (stow s).dev.out } } else stow s)

/-- The device differs in the security block alone, which is now x. -/
def OnlySecurity (d d' : Dev) (x : Security) : Prop := d' = { d with plat := { d.plat with sec := x } }

/-- R486: RTLOAD and FWLOAD begin the load of a signed image unless one is under way; its end installs a routine or
stages firmware that passes, and else sets FAIL.  That a second load is ignored and how an image is checked are the model's
choices (assumptions 20 and 43). -/
def imagesLoad : Prop :=
  ∀ s (v : BitVec 64), let d := (stow s).dev
    let x := d.plat.sec
    let pa := 2 ^ 48 + v.toNat % 2 ^ 48
    (x.loading ≠ none ∨ d.plat.startup.minimal = true → exec (.rtload v) s = .next (stow s)) ∧
    (x.loading = none → d.plat.startup.minimal = false →
      ∃ t, exec (.rtload v) s = .next t ∧ OnlySecurity d t.dev { x with loading := some (.routine, pa) }) ∧
    (x.loading ≠ none → exec (.fwload v) s = .next (stow s)) ∧
    (x.loading = none → ∃ t, exec (.fwload v) s = .next t ∧ OnlySecurity d t.dev { x with loading := some (.firmware, pa) }) ∧
    (x.loading = none → exec .imageLoadDone s = .next (stow s)) ∧
    (∀ a, x.loading = some (.routine, a) → ∃ t, exec .imageLoadDone s = .next t ∧
      let h := bytesAt d a 64
      let number := natLE ((h.drop 4).take 4)
      let size := natLE ((h.drop 8).take 4)
      let good := rangePoisoned d a 64 = false ∧ 64 ≤ number ∧ size ≤ 262144 ∧ rangePoisoned d a size = false ∧
        Config.imageGood 0 (bytesAt d a size) = true
      (good → OnlySecurity d t.dev { x with
        loading := none, fail := false, routines := tabInsert x.routines number (bytesAt d a size) }) ∧
      (¬ good → OnlySecurity d t.dev { x with loading := none, fail := true })) ∧
    (∀ a, x.loading = some (.firmware, a) → ∃ t, exec .imageLoadDone s = .next t ∧
      let good := rangePoisoned d a firmwareSize = false ∧ Config.imageGood 1 (bytesAt d a firmwareSize) = true
      (good → OnlySecurity d t.dev { x with loading := none, fail := false, staged := some (bytesAt d a firmwareSize) }) ∧
      (¬ good → OnlySecurity d t.dev { x with loading := none, fail := true }))

/-- R487, R488: ATTEST reads its nonce and writes the report behind it, but for lines that are poison; KEYCTL begins a key's
installation, the lines held under the index leaving L2 and the frames, and the device completes it, the lines that were written under
the index reading as their ciphertext under the new key.  The report's words and a line's key are the model's reading
(assumptions 44, 45 and 50). -/
def keysAndReports : Prop :=
  ∀ s (v : BitVec 64), let d := (stow s).dev
    let x := d.plat.sec
    let pa := 2 ^ 48 + v.toNat % 2 ^ 48
    (d.plat.startup.minimal = true → exec (.attest v) s = .next (stow s) ∧ exec (.keyctl v) s = .next (stow s)) ∧
    (d.plat.startup.minimal = false →
      (rangePoisoned d pa 32 = true → exec (.attest v) s = .next (stow s)) ∧
      (rangePoisoned d pa 32 = false → ∃ t r, exec (.attest v) s = .next t ∧
        r = Config.attestReport (bytesAt d pa 32) (measured d) ∧ t.dev.crews = d.crews ∧
        ∀ a, byteAt t.dev a = match if pa + 32 ≤ a ∧ linePoisoned d (a / 128) = false then r[a - (pa + 32)]? else none with
          | some b => b
          | none => byteAt d a) ∧
      (let k := v.toNat % 128
       let go := v.getLsbD 7 = true ∧ k ≠ 0 ∧ x.keyBusy = none
       (¬ go → exec (.keyctl v) s = .next (stow s)) ∧
       (go → ∃ t, exec (.keyctl v) s = .next t ∧ SameMemory d t.dev ∧ t.dev.crews = d.crews ∧
         t.dev.plat.sec = { x with keyBusy := some (k, (List.range 8).map (fun i => tabGet 0#64 x.keydata i)) } ∧
         ∀ line, (line, k) ∈ d.lineKey ∨ (line, k) ∈ d.pc.fillKey → l2Of t.dev.pc line = none ∧
           ∀ f, frameOf t.dev.pc (line / 32) = some f → frameTag f line = tagAbsent))) ∧
    (x.keyBusy = none ∨ d.plat.startup.minimal = true → exec .keyInstall s = .next (stow s)) ∧
    (∀ k key, x.keyBusy = some (k, key) → d.plat.startup.minimal = false → ∃ t, exec .keyInstall s = .next t ∧ t.dev.plat.sec.keyBusy = none ∧
      tabGet [] t.dev.plat.sec.keys k = key ∧ (∀ j, j ≠ k → tabGet [] t.dev.plat.sec.keys j = tabGet [] x.keys j) ∧
      t.dev.lineKey = d.lineKey ∧
      (∀ a, (∀ e ∈ d.lineKey, e.1 = a / 128 → e.2 ≠ k ∨ paClass a = 0) → byteAt t.dev a = byteAt d a) ∧
      ((d.lineKey.map Prod.fst).Nodup → ∀ line, (line, k) ∈ d.lineKey → paClass (128 * line) ≠ 0 →
        Rekeyed d t.dev line (tabGet [] x.keys k) key))

/-- R483: a write to a word of a pool decoder: one that would change a decoder in use by a live context, or enable an
unsound or overlapping one, sets REFUSED; any other takes effect and clears it. -/
def decodersWrite : Prop :=
  ∀ s i (v : BitVec 64), let d := (stow s).dev
    let old := tabGet default d.decs (i / 2)
    let e : PoolDec := if i % 2 = 0 then { old with en := v.getLsbD 0, base := v.toNat / 4096 % 2 ^ 36 }
      else { old with size := v.toNat % 2 ^ 36, ports := v.toNat / 2 ^ 36 % 256 }
    let used := old.en = true ∧ ∃ k < 64, ctxLive d k = true
    let unsound := e.en = true ∧ (e.ports = 0 ∨ e.size = 0 ∨
      ∃ x ∈ d.decs, x.1 ≠ i / 2 ∧ x.2.en = true ∧ e.base < x.2.base + x.2.size ∧ x.2.base < e.base + e.size)
    (d.plat.startup.minimal = true ∨ 32 ≤ i → exec (.pooldec i v) s = .next (stow s)) ∧
    (d.plat.startup.minimal = false → i < 32 → used ∨ unsound →
      ∃ t, exec (.pooldec i v) s = .next t ∧ t.dev = { d with decRefused := true }) ∧
    (d.plat.startup.minimal = false → i < 32 → ¬ (used ∨ unsound) → ∃ t, exec (.pooldec i v) s = .next t ∧
      t.dev.decRefused = false ∧ tabGet default t.dev.decs (i / 2) = e ∧
      (∀ k, k ≠ i / 2 → tabGet default t.dev.decs k = tabGet default d.decs k) ∧
      { t.dev with decs := [], decRefused := false } = { d with decs := [], decRefused := false })

/-- R489, R490: PWRLIM takes 300 to 2800; a draw over the limit lowers islands one step and signals vector 66, or, with
every island at its lowest and every quad asked before gated, asks a quad's crews to save; at nine tenths of the limit gated quads come back.  That PWRLIM refuses a value with bits above
11 is the model's choice (assumption 71). -/
def powerKept : Prop :=
  ∀ s (v : BitVec 64) draw, let d := (stow s).dev
    let p := d.plat.power
    let sound := d.plat.startup.minimal = false ∧ 300 ≤ v.toNat ∧ v.toNat ≤ 2800
    (¬ sound → exec (.pwrlim v) s = .next (stow s)) ∧
    (sound → ∃ t, exec (.pwrlim v) s = .next t ∧ t.dev = { d with plat := { d.plat with power := { p with limit := v.toNat } } }) ∧
    ∃ t, exec (.powerCheck draw) s = .next t ∧ SameMemory d t.dev ∧ t.dev.plat.power.now = draw % 4096 ∧
      t.dev.plat.power.limit = p.limit ∧
      (p.limit < draw % 4096 → lowerable p s.clk ≠ [] → t.dev.crews = d.crews ∧ t.dev.out = .msix 66 :: d.out ∧
        ∃ ls : List Nat, ls ≠ [] ∧ (∀ q ∈ ls, q ∈ lowerable p s.clk) ∧
          ∀ x, tabGet 0 t.dev.plat.power.steps x = tabGet 0 p.steps x + if x ∈ ls then 1 else 0) ∧
      (p.limit < draw % 4096 → (∀ q ∈ quads, 9 ≤ tabGet 0 p.steps q) → (∃ q ∈ p.asked, q ∉ p.gated) →
        t.dev.crews = d.crews ∧ t.dev.plat.power.asked = p.asked ∧ t.dev.out = d.out) ∧
      (p.limit < draw % 4096 → (∀ q ∈ quads, 9 ≤ tabGet 0 p.steps q) → (∃ q ∈ quads, q ∉ p.asked) →
        (∀ q ∈ p.asked, q ∈ p.gated) → ∃ q ∈ quads, q ∉ p.asked ∧ q ∈ t.dev.plat.power.asked ∧
          ∀ c ∈ t.dev.crews, quadOf c.core = q → c.state = .requested ∨ c.state = .saved) ∧
      (draw % 4096 ≤ p.limit → t.dev.crews = d.crews ∧ t.dev.out = d.out ∧
        (10 * (draw % 4096) ≤ 9 * p.limit → t.dev.plat.power.gated = [] ∧ t.dev.plat.power.asked = []) ∧
        ∀ e ∈ t.dev.plat.power.steps, ∃ e' ∈ p.steps, e'.1 = e.1 ∧ (e.2 = e'.2 ∨ e.2 = e'.2 - 1))

/-- R477: a write at the offset of a register whose writing is an event of its own is that event. -/
def registersDispatch : Prop :=
  ∀ s (v : BitVec 64), let at' := fun a => exec (.registerWrite a v) s
    at' 0x18 = exec (.fsclr v) s ∧ at' 0xB00000 = exec (.rtload v) s ∧ at' 0xB00010 = exec (.fwload v) s ∧
    at' 0xB00020 = exec (.attest v) s ∧ at' 0xB00140 = exec (.keyctl v) s ∧ at' 0xC00000 = exec (.pwrlim v) s ∧
    at' 0x900010 = exec (.pcclr v) s ∧
    (∀ q k, q < 6 → k < 64 → at' (0x100000 + 0x100000 * q + 0x40 * k) = exec (.qlaunch (64 * q + k) v) s) ∧
    (∀ n < 64, let b := 0x800000 + 0x80 * n
      at' b = exec (.cxctl n v) s ∧ at' (b + 0x18) = exec (.cxfq n v) s ∧ at' (b + 0x20) = exec (.cxfqhead n v) s ∧
      at' (b + 0x30) = exec (.cxfresp n v) s ∧ at' (b + 0x40) = exec (.cxinvc n v) s ∧ at' (b + 0x50) = exec (.cxpre n v) s ∧
      at' (b + 0x58) = exec (.cxcwn n v) s ∧ at' (b + 0x60) = exec (.cxcwdWrite n v) s) ∧
    (∀ die < 6, at' (0x901008 + 0x40 * die) = exec (.pcmark die v) s) ∧
    ∀ i < 32, at' (0xA00100 + 8 * i) = exec (.pooldec i v) s

/-- R152, R308, R471, R477, R482, R485, R488: a plain register takes its fields; what it reads as afterwards says so.  An
offset that names no register ignores the write, and so does, in minimal mode, all but HOSTLINK, FSCLR and FWLOAD (assumption 57). -/
def registersWrite : Prop :=
  ∀ s (v : BitVec 64), let d := (stow s).dev
    (∀ a, regAt a = .other → exec (.registerWrite a v) s = .next (stow s)) ∧
    (d.plat.startup.minimal = true → ∀ a, a ≠ 0x10 → a ≠ 0x18 → a ≠ 0xB00010 → exec (.registerWrite a v) s = .next (stow s)) ∧
    (∃ t, exec (.registerWrite 0x10 v) s = .next t ∧
      t.dev = { d with host := { d.host with recov := d.host.recov && !v.getLsbD 11 } }) ∧
    (d.plat.startup.minimal = false →
      (∀ q k, q < 6 → k < 64 → ∃ t, exec (.registerWrite (0x100008 + 0x100000 * q + 0x40 * k) v) s = .next t ∧
        t.dev.crews = d.crews ∧ queueOf t.dev (64 * q + k) = { queueOf d (64 * q + k) with
          en := v.getLsbD 0, prio := v.toNat / 2 % 8, ctag := v.toNat / 16 % 4096 }) ∧
      (∀ q k, q < 6 → k < 64 → ∃ t, exec (.registerWrite (0x100020 + 0x100000 * q + 0x40 * k) v) s = .next t ∧
        t.dev.crews = d.crews ∧ queueOf t.dev (64 * q + k) = { queueOf d (64 * q + k) with
          err := (queueOf d (64 * q + k)).err &&& ~~~(v &&& 15#64) }) ∧
      (∀ n < 64, ∃ t u w, exec (.registerWrite (0x800008 + 0x80 * n) v) s = .next t ∧
        OnlySlot d t.dev n { ctxOf d n with root := v &&& 0x000FFFFFFFFFF000#64 } ∧
        exec (.registerWrite (0x800038 + 0x80 * n) v) s = .next u ∧ OnlySlot d u.dev n { ctxOf d n with inva := v } ∧
        exec (.registerWrite (0x800048 + 0x80 * n) v) s = .next w ∧ OnlySlot d w.dev n { ctxOf d n with prej := v }) ∧
      (∃ t, exec (.registerWrite 0x900000 v) s = .next t ∧ t.dev = { d with pc := { d.pc with
        nocmp := v.getLsbD 0, promo := v.toNat / 256 % 256, decay := v.toNat / 65536 % 32 } }) ∧
      (∀ die < 6, ∃ t, exec (.registerWrite (0x901010 + 0x40 * die) v) s = .next t ∧ CacheOnly d t.dev ∧
        pcDie t.dev.pc die = { pcDie d.pc die with wbraw := (pcDie d.pc die).wbraw && !v.getLsbD 3 }) ∧
      (∀ p < 8, ∃ t, exec (.registerWrite (0xA00000 + 8 * p) v) s = .next t ∧ t.dev.decs = d.decs ∧
        tabGet default t.dev.ports p = { tabGet default d.ports p with fail := (tabGet default d.ports p).fail && !v.getLsbD 3 }) ∧
      (∀ k < 8, ∃ t, exec (.registerWrite (0xB00100 + 8 * k) v) s = .next t ∧ tabGet 0#64 t.dev.plat.sec.keydata k = v ∧
        ∀ j, j ≠ k → tabGet 0#64 t.dev.plat.sec.keydata j = tabGet 0#64 d.plat.sec.keydata j))

/-- Start-up, reset and power (R484, R485, R489, R490), with the model's choices of assumptions 46, 56 and 71. -/
def Obligations.StartUpAndPower : Prop := startsUp ∧ resets ∧ powerKept

/-- Signed images, attestation, keys, pool decoders and the registers (R477, R483, R486 to R488), with the model's choices of
assumptions 20, 42 to 45, 50 and 57. -/
def Obligations.HostRegisters : Prop := imagesLoad ∧ keysAndReports ∧ decodersWrite ∧ registersDispatch ∧ registersWrite

/-! ### Instructions turned away -/

/-- R194: the class of a program's instruction, by its destination where that decides it; LIT belongs to the instruction it
prefixes, and what begins a clause or is a step of the device has none. -/
def classOf (i : Instr) : Option RoleClass :=
  let byDest := fun d : BitVec 8 => if d.toNat < 0x80 then RoleClass.laneArith else .control
  match i with
  | .movCompact _ _ | .addI32Compact _ _ | .subI32Compact _ _ | .andCompact _ _ | .orCompact _ _ | .xorCompact _ _
  | .shlCompact _ _ | .shrN32Compact _ _ | .addF32Compact _ _ | .subF32Compact _ _ | .mulF32Compact _ _
  | .maxF32Compact _ _ | .minF32Compact _ _ | .addF16x2Compact _ _ | .mulF16x2Compact _ _ | .shrI32Compact _ _
  | .shfl _ _ _ | .wrlane _ _ _ | .wscan _ _ _ | .ctlReord _ _ _ => some .laneArith
  | .addI32 d _ _ | .subI32 d _ _ | .mulI32 d _ _ | .mulhiI32 d _ _ | .mulhiN32 d _ _ | .madI32 d _ _ | .minI32 d _ _
  | .maxI32 d _ _ | .minN32 d _ _ | .maxN32 d _ _ | .and d _ _ | .or d _ _ | .xor d _ _ | .andn d _ _ | .shl d _ _
  | .shrN32 d _ _ | .shrI32 d _ _ | .rot d _ _ | .bfx d _ _ | .bfi d _ _ | .bitu d _ _ | .addI64 d _ _
  | .subI64 d _ _ | .madN64N32 d _ _ | .mov64 d _ | .addF32 d _ _ | .subF32 d _ _ | .mulF32 d _ _ | .fmaF32 d _ _
  | .minF32 d _ _ | .maxF32 d _ _ | .addF16x2 d _ _ | .mulF16x2 d _ _ | .fmaF16x2 d _ _ | .addBf16x2 d _ _
  | .fmaBf16x2 d _ _ | .maxF16x2 d _ _ | .funF32 d _ _ | .cvt d _ _ | .cvtp d _ _ | .qnt d _ _ | .dqn d _ _
  | .sel d _ _ | .rdlane d _ _ | .wred d _ _ | .dot4I8 d _ _ | .dot4N8 d _ _ | .dot8I4 d _ _ | .dot4F8 d _ _
  | .dot8F4 d _ _ | .dot2F16 d _ _ | .dot2Bf16 d _ _ | .sclx d _ | .movi d _ | .movhi d _ | .addi d _ | .andi d _
  | .ori d _ => some (byDest d)
  | .ld _ _ _ _ | .st _ _ _ _ | .lds _ _ _ _ | .sts _ _ _ _ | .ldc _ _ _ _ | .stp _ _ _ _ | .atom _ _ _ _
  | .red _ _ _ _ | .atoms _ _ _ _ => some .laneMem
  | .cpyLin _ _ | .cpyTile _ _ | .cpyGather _ _ | .cpyScatter _ _ | .cpyXform _ _ | .cpyFill _ _ | .cbatchSeal _
  | .cbatchWait _ | .cbatchTest _ _ => some .copy
  | .mmao _ _ _ _ | .mmat _ _ _ | .wbufLoad _ _ | .wbufMcast _ _ | .wbufInval _ | .wbufQuery _ _ | .tsmovToreg _ _ _
  | .tsmovFromreg _ _ _ | .tsmovTomem _ _ | .tsmovFrommem _ _ | .tdefView _ _ _ | .tdefConst _ _ | .top _ _ _ _
  | .tmap _ _ _ _ | .tdemStore _ _ _ | .tdemForce _ _ | .tdemDrop _ | .tdemQuery _ _ | .tdemDiscard _ | .chBind _ _
  | .chBond _ _ | .chMode _ _ | .chStep _ | .chRun _ _ | .chEnv _ | .chQuery _ | .chReset => some .matrix
  | .traceClosest _ _ _ | .traceAny _ _ _ | .traceQuery _ | .smpBil _ _ | .smpPt _ _ | .smpGather4 _ _ _ => some .traversal
  | .ldu _ _ _ _ | .stu _ _ _ _ | .ldrec _ _ _ _ | .cmpI32 _ _ _ _ | .cmpN32 _ _ _ _ | .cmpF32 _ _ _ _
  | .test _ _ _ _ | .mop _ _ _ _ | .mmov _ _ _ _ | .bra _ | .brany _ _ | .brall _ _ | .brs _ _ | .joinat _ _
  | .call _ | .ctlJmpr _ | .ctlSleep _ | .barInit _ _ | .barArrive _ _ | .barExpect _ _ | .barArrivex _ _
  | .barWait _ _ | .barWaitt _ _ _ | .barTest _ _ _ | .barEnroll _ | .barDrop _ | .barInval _ | .pbarArrive _ _
  | .pbarWait _ _ | .pbarTest _ _ _ | .fenceOpc | .fenceIfetch | .fenceAsync | .jobLaunch _ _ | .jobNext _ | .jobTrig
  | .jobDepwait _ | .jobExit | .jobExits _ | .jobYield | .jobYieldonBar _ _ | .jobYieldonFlg _ _ | .sysTrap _
  | .sysEret | .sysCtlrd _ _ | .sysCtlwr _ _ | .sysParkrd _ _ | .sysParkwr _ _ | .sysWatch _ _ | .sysTlbinv _
  | .sysHalt => some .control
  | .lit _ | .clauseBegin | .fragmentAged _ | .sleepExpire _ | .waittTimeout _ | .loadComplete _ _
  | .storeComplete _ _ | .fullEmptyRetest _ _ | .hubFlush _ | .qlaunch _ _ | .cardRead _ _ | .crewPlace _
  | .placementHold _ | .preqExpire _ | .crewSave _ | .crewResume _ _ _ | .waveRetire _ _ | .doneWrite _
  | .copyUnit _ _ _ | .copyComplete _ _ | .getin _ _ | .putout _ _ | .endRoutine _ _ | .args _ _ | .routineFault _ _
  | .wbufComplete _ _ | .mmaoComplete _ _ | .mmatComplete _ _ | .tsmovComplete _ _ | .materialise _ _
  | .demandBlock _ _ _ | .tdemComplete _ _ | .chainStep _ | .chainComplete _ _ | .traceComplete _ _
  | .smpComplete _ _ | .salamanderBatch _ | .pageArrive _ _ _ | .atsCompletion _ _ | .atsInvalidation _ _ _ _
  | .invalidationComplete _ | .prgResponse _ _ | .wrapClear _ | .cxctl _ _ | .cxfresp _ _ | .cxinvc _ _ | .cxpre _ _
  | .cxfq _ _ | .cxcwn _ _ | .cxcwdRead _ | .cxcwdWrite _ _ | .hostWrite _ _ | .snoop _ _ | .backInvalidation _ _
  | .counterDecay | .frameFill _ | .frameDrain _ _ | .l2Evict _ | .hbmUncorrectable _ | .poolFail _ _ _
  | .hostLinkDown | .hostLinkUp | .pcclr _ | .pcclrDone | .pcmark _ _ | .keyctl _ | .keyInstall | .pooldec _ _
  | .rtload _ | .fwload _ | .imageLoadDone | .attest _ | .fsclr _ | .reset | .startupStep _ _ | .startupTimeout _
  | .portFail _ | .pwrlim _ | .powerCheck _ | .registerWrite _ _ | .cxfqhead _ _ | .tracePark _ _ | .smpPark _ _ => none

/-- R67, R195: every instruction of a program that breaks R67 is illegal, before all else; outside trap mode one that its
wave's role does not allow is a role violation; neither has any effect of its own. -/
def Obligations.TurnedAway : Prop :=
  ∀ s i k, classOf i = some k →
    (legalHere s i = false → exec i s = .next (takeTrap s 0x08 false)) ∧
    (legalHere s i = true → s.frag.trapMode = false → roleAllows s.wave.role k = false →
      exec i s = .next (takeTrap s 0x10 false))

/-! ### Decoding -/

/-- Words written out from the encodings of R53 to R73, and the instructions they stand for. -/
def sampleWords : List (Nat × Instr) :=
  [(0x03020101, .addI32 1 2 3), (0xC184803B, .maxF32 0x80 0x84 0xC1), (0x04050629, .bitu 6 5 4), (0x0081054B, .mov64 5 0x81),
   (0x8001FE71, .movi 0xFE 0x8001), (0x00048057, .shfl 0x80 4 0), (0x00001081, .bra 1), (0xFFFFF287, .brs 2 0xFFFFF)] ++
  [(0x0D8204A1, .ld 4 0x82 5 1), (0x190305AD, .atom 5 3 9 1), (0x856236B9, .barTest 3 0x62 0x85), (0x000002BD, .fenceAsync),
   (0x008431C1, .cpyTile 3 0x84), (0x8540C2C9, .mmao 2 12 0x40 0x85), (0x008010CD, .wbufLoad 1 0x80), (0x088430CF, .tsmovToreg 3 0x84 8)] ++
  [(0x0C2081D3, .top 1 2 2 3), (0x848820D7, .tdemStore 2 0x88 0x84), (0x858404D9, .chRun 0x84 0x85), (0x108810DD, .traceClosest 1 0x88 0x10),
   (0x048822DF, .smpGather4 2 0x88 4), (0x828417E1, .jobYieldonFlg 0x84 0x82), (0x858302E9, .sysCtlrd 0x83 0x85), (0xABCDEFFF, .lit 0xABCDEF)]

/-- Words of the tables decode to the instructions they stand for (R53 to R73). -/
def Obligations.DecodeWords : Prop :=
  (∀ p ∈ sampleWords, decode (split32 (BitVec.ofNat 32 p.1)) = .ok (p.2, [])) ∧
  decode [0x0C40#16] = .ok (.movCompact 2 3, []) ∧ decode [0xFFFE#16] = .ok (.shrI32Compact 31 63, [])

/-- R53 to R73: an encoded instruction decodes to itself whatever follows, and every decoded word is its instruction's
encoding: no bit is dropped and none is free. -/
def Obligations.DecodeEncode : Prop :=
  (∀ i rest, encode i ≠ [] → decode (encode i ++ rest) = .ok (i, rest)) ∧
  ∀ ps i rest, decode ps = .ok (i, rest) → encode i ≠ [] ∧ ps = encode i ++ rest

/-! ### The machine as a whole -/

/-- R44, R49, R59, R67: where nothing is named beforehand, a step of a fragment in focus inside its clause executes the
instruction that its parcels decode to, or takes the illegal-instruction trap where they decode to none; at a clause's
header it begins the clause.  Then the state is settled: clocks have passed, and steps have been counted. -/
def stepRunsDecoded : Prop :=
  ∀ s, s.agenda = [] → s.active = true →
    let after := fun o : Host.Outcome State Fault Refusal => match o with
      | .next t => .next (settle t)
      | .fault e => .fault e
      | .refused r => .refused r
    (s.frag.parcel = 63 → step s = after (exec .clauseBegin s)) ∧
    (s.frag.parcel ≠ 63 → s.frag.latched = true →
      (∀ i rest, decode (s.frag.body.drop s.frag.parcel) = .ok (i, rest) → step s = after (exec i s)) ∧
      (∀ e, decode (s.frag.body.drop s.frag.parcel) = .error e → step s = .next (settle (takeTrap s 0x08 false)))) ∧
    ∀ t, (settle t).clk = t.clk + 1 + Config.clocks t.nfree ∧ (settle t).nfree = t.nfree + 1 ∧ (settle t).agenda = t.agenda

/-- A step of the device named beforehand is that row's (the model's choice of order: assumption 3). -/
def stepRunsNamed : Prop :=
  ∀ s i rest, s.agenda = .event i :: rest → isDeviceRow i = true →
    ∃ t, exec i { s with agenda := rest } = .next t ∧ step s = .next (settle t)

/-- R44, R49, R59, R67: what a step executes. -/
def Obligations.StepRuns : Prop := stepRunsDecoded ∧ stepRunsNamed

/-- R200, R340, R471, R489: what reset leaves: no crew, job or binding, and the control words, PWRLIM, PCMARK and PCSTAT at
the values the manual gives.  That STARTST reads 0, with STEP 0 and FSCNT 0 before step 1 (R484), is the model's choice (assumption
20), and so is the 0 of the pool decoders' words, to which R483 gives no reset value (assumption 90). -/
def Obligations.ResetState : Prop :=
  let d := State.reset.dev
  d.crews = [] ∧ d.jobs = [] ∧ d.waiting = [] ∧ (∀ k, (ctxOf d k).en = false) ∧ (∀ q, (queueOf d q).en = false) ∧
  (∀ slot, slotWord d slot 0x300 = 0#32 ∧ slotWord d slot 0x301 = 0#32 ∧ slotWord d slot 0x400 = 0#32 ∧ slotWord d slot 0x401 = 0#32 ∧
    slotWord d slot 0x500 = 0#32 ∧ slotWord d slot 0x501 = 0#32 ∧ slotWord d slot 0x502 = 0#32) ∧
  regRead d 0xC00000 = 2800#64 ∧ regRead d 0x0 = 0#64 ∧
  (∀ die, die < 6 → regRead d (0x901008 + 0x40 * die) = BitVec.ofNat 64 (65536 + 131072 * 2 ^ 32) ∧
    regRead d (0x901010 + 0x40 * die) = 0#64) ∧
  (∀ i, i < 32 → regRead d (0xA00100 + 8 * i) = 0#64)

/-- R42, R191, R192: no crew stands contained, and no fragment of a crew that runs waits for what has come about. -/
def Settled (s : State) : Prop :=
  let d := (stow s).dev
  (∀ c ∈ d.crews, c.contained = none) ∧
  ∀ c ∈ d.crews, c.state ≠ .saved → ∀ w ∈ c.waves, ∀ f ∈ w.frags, wakeFrag d s.clk c w f = f

/-- Settled holds right after reset. -/
def Obligations.ResetSettled : Prop := Settled State.reset

/-- R42, R191, R192: every step leaves a settled state. -/
def Obligations.StepSettles : Prop := ∀ s t, Settled s → step s = .next t → Settled t

/-- Memory has its canonical form right after reset, and every step keeps it: equal memories are equal data. -/
def Obligations.MemoryCanonical : Prop :=
  Memory.wf State.reset.dev.mem = true ∧
  ∀ s t, Memory.wf s.dev.mem = true → step s = .next t → Memory.wf t.dev.mem = true

end Statements
end

