-- ==== Sys2Proof/Laws/Cache.lean ====
section
/-! SUPPORT. What an access to a line of memory through the caches can change: the page cache, and nothing else (R461,
R463 to R465); and what a cache of translations holds after a new one (R313). -/

namespace Sys2Proof.Machine

theorem makeRoomFor_pc (d : Dev) (n line : Nat) : ∃ p, makeRoomFor d n line = { d with pc := p } := by
  simp only [makeRoomFor]
  split
  · exact ⟨d.pc, rfl⟩
  · split <;> exact ⟨_, rfl⟩

theorem missLine_pc (d : Dev) (n line : Nat) (own counted : Bool) : ∃ p, missLine d n line own counted = { d with pc := p } := by
  obtain ⟨p, hp⟩ := makeRoomFor_pc d n line
  simp only [missLine, hp]
  split <;> exact ⟨_, rfl⟩

theorem hitLine_pc (d : Dev) (line : Nat) (own : Bool) : ∃ p, hitLine d line own = { d with pc := p } := by
  simp only [hitLine]
  split
  · exact ⟨_, rfl⟩
  · exact ⟨d.pc, rfl⟩

/-- An access to a line changes the page cache alone. -/
theorem touchLine_pc (d : Dev) (n line : Nat) (own : Bool) (key : Nat) : ∃ p, touchLine d n line own key = { d with pc := p } := by
  have h : ∃ p, (if paClass (line * 128) != 0 then { d with pc := noteKey d.pc line key } else d) = { d with pc := p } := by
    split
    · exact ⟨_, rfl⟩
    · exact ⟨d.pc, rfl⟩
  obtain ⟨p, hp⟩ := h
  obtain ⟨q, hq⟩ := missLine_pc { d with pc := p } n line own (paClass (line * 128) != 0)
  obtain ⟨r, hr⟩ := hitLine_pc { d with pc := p } line own
  simp only [touchLine, hp]
  split
  · split <;> exact ⟨_, rfl⟩
  · split
    · exact ⟨_, rfl⟩
    · exact ⟨_, hq⟩
    all_goals
      split
      · exact ⟨_, hr⟩
      · exact ⟨_, hq⟩

/-- Accesses to lines change the page cache alone. -/
theorem touchAll_pc (n key : Nat) (own : Bool) (lines : List Nat) :
    ∀ d : Dev, ∃ p, lines.foldl (fun d l => touchLine d n l own key) d = { d with pc := p } := by
  induction lines with
  | nil => exact fun d => ⟨d.pc, rfl⟩
  | cons l ls ih =>
    intro d
    obtain ⟨p, hp⟩ := touchLine_pc d n l own key
    obtain ⟨q, hq⟩ := ih { d with pc := p }
    exact ⟨q, by rw [List.foldl_cons, hp, hq]⟩

theorem touchLines_pc (d : Dev) (n key : Nat) (lines : List Nat) : ∃ p, touchLines d n key lines = { d with pc := p } :=
  touchAll_pc n key false lines d

theorem ownLines_pc (d : Dev) (n key : Nat) (lines : List Nat) : ∃ p, ownLines d n key lines = { d with pc := p } :=
  touchAll_pc n key true lines d

theorem cacheRoom_subset {α : Type} [DecidableEq α] (n ways cap : Nat) (mine : α → Bool) (l : List α) :
    ∀ x ∈ cacheRoom n ways cap mine l, x ∈ l := by
  intro x hx
  simp only [cacheRoom] at hx
  split at hx
  · exact hx
  · split at hx
    · exact (List.mem_filter.mp hx).1
    · exact hx

/-- A TLB holds what it held, as far as it has room, and the new entry. -/
theorem keepTlb_mem {n : Nat} {l : List TlbEntry} {e x : TlbEntry} (h : x ∈ keepTlb n l e) : x ∈ l ∨ x = e := by
  simp only [keepTlb] at h
  split at h
  · exact .inl h
  · rcases List.mem_cons.mp h with h | h
    · exact .inr h
    · exact .inl (cacheRoom_subset _ _ _ _ _ _ h)

theorem keepWalk_mem {n : Nat} {l : List WalkEntry} {e x : WalkEntry} (h : x ∈ keepWalk n l e) : x ∈ l ∨ x = e := by
  simp only [keepWalk] at h
  split at h
  · exact .inl h
  · rcases List.mem_cons.mp h with h | h
    · exact .inr h
    · exact .inl (cacheRoom_subset _ _ _ _ _ _ h)

theorem foldl_keep {α : Type} {keep : List α → α → List α} (hk : ∀ {l e x}, x ∈ keep l e → x ∈ l ∨ x = e) {x : α} :
    ∀ (es l : List α), x ∈ es.foldl keep l → x ∈ l ∨ x ∈ es := by
  intro es
  induction es with
  | nil => exact fun l h => .inl h
  | cons e es ih =>
    intro l h
    rcases ih _ h with h | h
    · rcases hk h with h | h
      · exact .inl h
      · exact .inr (h ▸ List.mem_cons_self)
    · exact .inr (List.mem_cons_of_mem _ h)

/-- After what was learnt the TLBs and walk caches hold what they held, or what was learnt; an entry learnt stands under
the asker's core or its die. -/
theorem learn_mem (d : Dev) (who : Asker) (n : Nat) (es : List TlbEntry) (ws : List WalkEntry) :
    (∀ x ∈ (learn d who n es ws).tlb, x ∈ d.tlb ∨ ∃ e ∈ es, ∃ p, x = { e with place := p }) ∧
    ∀ x ∈ (learn d who n es ws).walks, x ∈ d.walks ∨ x ∈ ws := by
  refine ⟨fun x hx => ?_, fun x hx => foldl_keep keepWalk_mem _ _ hx⟩
  rcases foldl_keep keepTlb_mem _ _ hx with h | h
  · exact .inl h
  · obtain ⟨e, he, h⟩ := List.mem_flatMap.mp h
    refine .inr ⟨e, he, ?_⟩
    simp only [List.mem_cons] at h
    rcases h with h | h
    · exact ⟨_, h⟩
    · split at h
      · exact ⟨_, List.mem_singleton.mp h⟩
      · exact absurd h List.not_mem_nil

end Sys2Proof.Machine
end

