-- ==== Sys2Proof/Laws/Decode.lean ====
section
/-! SUPPORT. What each packed form gives back when a field is read from it, and the decoder on the two parcels of a
32-bit word: the facts a proof that decoding undoes encoding rests on. -/

namespace Sys2Proof

theorem extract_append_low {a b : Nat} (x : BitVec a) (y : BitVec b) (s l : Nat) (h : s + l ≤ b) :
    (x ++ y).extractLsb' s l = y.extractLsb' s l := by
  apply BitVec.eq_of_getLsbD_eq
  intro i hi
  simp [BitVec.getLsbD_append, hi]
  omega

theorem extract_append_high {a b : Nat} (x : BitVec a) (y : BitVec b) (s l : Nat) (h : b ≤ s) :
    (x ++ y).extractLsb' s l = x.extractLsb' (s - b) l := by
  apply BitVec.eq_of_getLsbD_eq
  intro i hi
  have : ¬ (s + i < b) := by omega
  simp [BitVec.getLsbD_append, hi, this]
  congr 1
  omega

@[simp] theorem extract_whole {a : Nat} (x : BitVec a) : x.extractLsb' 0 a = x := by
  apply BitVec.eq_of_getLsbD_eq
  intro i hi
  simp [hi]

theorem cat53_low (x y s l) (h : s + l ≤ 3) : (cat53 x y).extractLsb' s l = y.extractLsb' s l :=
  extract_append_low x y s l h
theorem cat53_high (x y s l) (h : 3 ≤ s) : (cat53 x y).extractLsb' s l = x.extractLsb' (s - 3) l :=
  extract_append_high x y s l h
theorem cat44_low (x y s l) (h : s + l ≤ 4) : (cat44 x y).extractLsb' s l = y.extractLsb' s l :=
  extract_append_low x y s l h
theorem cat44_high (x y s l) (h : 4 ≤ s) : (cat44 x y).extractLsb' s l = x.extractLsb' (s - 4) l :=
  extract_append_high x y s l h
theorem cat13_low (x y s l) (h : s + l ≤ 3) : (cat13 x y).extractLsb' s l = y.extractLsb' s l :=
  extract_append_low x y s l h
theorem cat13_high (x y s l) (h : 3 ≤ s) : (cat13 x y).extractLsb' s l = x.extractLsb' (s - 3) l :=
  extract_append_high x y s l h
theorem cat31_low (x y s l) (h : s + l ≤ 1) : (cat31 x y).extractLsb' s l = y.extractLsb' s l :=
  extract_append_low x y s l h
theorem cat31_high (x y s l) (h : 1 ≤ s) : (cat31 x y).extractLsb' s l = x.extractLsb' (s - 1) l :=
  extract_append_high x y s l h
theorem cat22_low (x y s l) (h : s + l ≤ 2) : (cat22 x y).extractLsb' s l = y.extractLsb' s l :=
  extract_append_low x y s l h
theorem cat22_high (x y s l) (h : 2 ≤ s) : (cat22 x y).extractLsb' s l = x.extractLsb' (s - 2) l :=
  extract_append_high x y s l h
theorem cat314_low (x y z s l) (h : s + l ≤ 4) : (cat314 x y z).extractLsb' s l = z.extractLsb' s l :=
  (extract_append_low x _ s l (by omega)).trans (extract_append_low y z s l h)
theorem cat314_mid (x y z s l) (h : 4 ≤ s) (h' : s + l ≤ 5) :
    (cat314 x y z).extractLsb' s l = y.extractLsb' (s - 4) l :=
  (extract_append_low x _ s l (by omega)).trans (extract_append_high y z s l h)
theorem cat314_high (x y z s l) (h : 5 ≤ s) : (cat314 x y z).extractLsb' s l = x.extractLsb' (s - 5) l :=
  extract_append_high x _ s l h
theorem cat233_low (x y z s l) (h : s + l ≤ 3) : (cat233 x y z).extractLsb' s l = z.extractLsb' s l :=
  (extract_append_low x _ s l (by omega)).trans (extract_append_low y z s l h)
theorem cat233_mid (x y z s l) (h : 3 ≤ s) (h' : s + l ≤ 6) :
    (cat233 x y z).extractLsb' s l = y.extractLsb' (s - 3) l :=
  (extract_append_low x _ s l (by omega)).trans (extract_append_high y z s l h)
theorem cat233_high (x y z s l) (h : 6 ≤ s) : (cat233 x y z).extractLsb' s l = x.extractLsb' (s - 6) l :=
  extract_append_high x _ s l h

theorem pack4_0 (b a d lo s l) (h : s + l ≤ 8) : (pack4 b a d lo).extractLsb' s l = lo.extractLsb' s l :=
  (extract_append_low (b ++ a) _ s l (by omega)).trans (extract_append_low d lo s l h)
theorem pack4_1 (b a d lo s l) (h : 8 ≤ s) (h' : s + l ≤ 16) :
    (pack4 b a d lo).extractLsb' s l = d.extractLsb' (s - 8) l :=
  (extract_append_low (b ++ a) _ s l (by omega)).trans (extract_append_high d lo s l h)
theorem pack4_2 (b a d lo s l) (h : 16 ≤ s) (h' : s + l ≤ 24) :
    (pack4 b a d lo).extractLsb' s l = a.extractLsb' (s - 16) l :=
  (extract_append_high (b ++ a) _ s l (by omega)).trans (extract_append_low b a (s - 16) l (by omega))
theorem pack4_3 (b a d lo s l) (h : 24 ≤ s) : (pack4 b a d lo).extractLsb' s l = b.extractLsb' (s - 24) l :=
  (extract_append_high (b ++ a) _ s l (by omega)).trans
    ((extract_append_high b a (s - 16) l (by omega)).trans (by congr 1))
theorem packFI_0 (i d lo s l) (h : s + l ≤ 8) : (packFI i d lo).extractLsb' s l = lo.extractLsb' s l :=
  (extract_append_low i _ s l (by omega)).trans (extract_append_low d lo s l h)
theorem packFI_1 (i d lo s l) (h : 8 ≤ s) (h' : s + l ≤ 16) :
    (packFI i d lo).extractLsb' s l = d.extractLsb' (s - 8) l :=
  (extract_append_low i _ s l (by omega)).trans (extract_append_high d lo s l h)
theorem packFI_2 (i d lo s l) (h : 16 ≤ s) : (packFI i d lo).extractLsb' s l = i.extractLsb' (s - 16) l :=
  extract_append_high i _ s l h
theorem packFB_0 (o m lo s l) (h : s + l ≤ 8) : (packFB o m lo).extractLsb' s l = lo.extractLsb' s l :=
  (extract_append_low o _ s l (by omega)).trans (extract_append_low m lo s l h)
theorem packFB_1 (o m lo s l) (h : 8 ≤ s) (h' : s + l ≤ 12) :
    (packFB o m lo).extractLsb' s l = m.extractLsb' (s - 8) l :=
  (extract_append_low o _ s l (by omega)).trans (extract_append_high m lo s l h)
theorem packFB_2 (o m lo s l) (h : 12 ≤ s) : (packFB o m lo).extractLsb' s l = o.extractLsb' (s - 12) l :=
  extract_append_high o _ s l h
theorem packFT_0 (p b a d lo s l) (h : s + l ≤ 8) : (packFT p b a d lo).extractLsb' s l = lo.extractLsb' s l :=
  (extract_append_low (p ++ b) _ s l (by omega)).trans
    ((extract_append_low a _ s l (by omega)).trans (extract_append_low d lo s l h))
theorem packFT_1 (p b a d lo s l) (h : 8 ≤ s) (h' : s + l ≤ 14) :
    (packFT p b a d lo).extractLsb' s l = d.extractLsb' (s - 8) l :=
  (extract_append_low (p ++ b) _ s l (by omega)).trans
    ((extract_append_low a _ s l (by omega)).trans (extract_append_high d lo s l h))
theorem packFT_2 (p b a d lo s l) (h : 14 ≤ s) (h' : s + l ≤ 20) :
    (packFT p b a d lo).extractLsb' s l = a.extractLsb' (s - 14) l :=
  (extract_append_low (p ++ b) _ s l (by omega)).trans (extract_append_high a _ s l h)
theorem packFT_3 (p b a d lo s l) (h : 20 ≤ s) (h' : s + l ≤ 26) :
    (packFT p b a d lo).extractLsb' s l = b.extractLsb' (s - 20) l :=
  (extract_append_high (p ++ b) _ s l (by omega)).trans (extract_append_low p b (s - 20) l (by omega))
theorem packFT_4 (p b a d lo s l) (h : 26 ≤ s) :
    (packFT p b a d lo).extractLsb' s l = p.extractLsb' (s - 26) l :=
  (extract_append_high (p ++ b) _ s l (by omega)).trans
    ((extract_append_high p b (s - 20) l (by omega)).trans (by congr 1))
theorem packLIT_0 (w lo s l) (h : s + l ≤ 8) : (packLIT w lo).extractLsb' s l = lo.extractLsb' s l :=
  extract_append_low w lo s l h
theorem packLIT_1 (w lo s l) (h : 8 ≤ s) : (packLIT w lo).extractLsb' s l = w.extractLsb' (s - 8) l :=
  extract_append_high w lo s l h
theorem packC_1 (s d op) : (packC s d op).extractLsb' 1 4 = op :=
  (extract_append_low s _ 1 4 (by omega)).trans ((extract_append_low d _ 1 4 (by omega)).trans
    ((extract_append_high op 0#1 1 4 (by omega)).trans (extract_whole op)))
theorem packC_5 (s d op) : (packC s d op).extractLsb' 5 5 = d :=
  (extract_append_low s _ 5 5 (by omega)).trans
    ((extract_append_high d _ 5 5 (by omega)).trans (extract_whole d))
theorem packC_10 (s d op) : (packC s d op).extractLsb' 10 6 = s :=
  (extract_append_high s _ 10 6 (by omega)).trans (extract_whole s)
theorem packC_bit0 (s d op) : (packC s d op).getLsbD 0 = false := by
  have h : (packC s d op).extractLsb' 0 1 = 0#1 :=
    (extract_append_low s _ 0 1 (by omega)).trans ((extract_append_low d _ 0 1 (by omega)).trans
      ((extract_append_low op 0#1 0 1 (by omega)).trans (extract_whole _)))
  have := congrArg (fun x => x.getLsbD 0) h
  simpa using this

theorem split32_join (w : BitVec 32) : (w.extractLsb' 16 16 ++ w.extractLsb' 0 16 : BitVec 32) = w := by
  apply BitVec.eq_of_getLsbD_eq
  intro i hi
  rw [BitVec.getLsbD_append]
  split
  · rename_i h
    simp [h]
  · rename_i h
    simp only [BitVec.getLsbD_extractLsb']
    rw [show 16 + (i - 16) = i by omega]
    simp
    omega

/-- Decoding the two parcels of a word whose bit 0 is set decodes the word. -/
theorem decode_split32 (w : BitVec 32) (i : Instr) (h0 : w.extractLsb' 0 1 = 1#1) (h : decode32 w = .ok i) :
    decode (split32 w) = .ok (i, []) := by
  have hb : w.getLsbD 0 = true := by
    have := congrArg (fun x => x.getLsbD 0) h0
    simpa using this
  have hj := split32_join w
  simp only [decode, split32]
  rw [if_pos (by simpa using hb)]
  rw [show (BitVec.extractLsb' 16 16 w ++ BitVec.extractLsb' 0 16 w : BitVec 32) = w from hj, h]

/-- A 32-bit word decodes by its low byte and its SUB bits. -/
theorem decode32_of (w : BitVec 32) (lo sub : Nat) (i : Instr) (h1 : (w.extractLsb' 0 8).toNat = lo)
    (h2 : (w.extractLsb' 8 4).toNat = sub) (h : decodeMaj lo sub w = .ok i) : decode32 w = .ok i := by
  rw [decode32, h1, h2, h]

/-- A compact parcel decodes by its OP4 bits. -/
theorem decode_packC (s d op) : decode [packC s d op] = .ok (decode16 (packC s d op), []) := by
  simp only [decode, packC_bit0, Bool.false_eq_true, if_false]

end Sys2Proof
end

