-- ==== Sys2Proof/Laws/State.lean ====
section
/-! SUPPORT. What each named update of the focused fragment, wave and crew leaves as it was, one lemma for each field. -/

namespace Sys2Proof.Machine

variable (s : State)

/-! ### writeLanes -/

@[simp] theorem writeLanes_dev (r : Nat) (ls : List Nat) (f : Nat → Word) : (writeLanes s r ls f).dev = s.dev := rfl
@[simp] theorem writeLanes_active (r : Nat) (ls : List Nat) (f : Nat → Word) : (writeLanes s r ls f).active = s.active := rfl
@[simp] theorem writeLanes_agenda (r : Nat) (ls : List Nat) (f : Nat → Word) : (writeLanes s r ls f).agenda = s.agenda := rfl
@[simp] theorem writeLanes_clk (r : Nat) (ls : List Nat) (f : Nat → Word) : (writeLanes s r ls f).clk = s.clk := rfl
@[simp] theorem writeLanes_nfree (r : Nat) (ls : List Nat) (f : Nat → Word) : (writeLanes s r ls f).nfree = s.nfree := rfl
@[simp] theorem writeLanes_frag (r : Nat) (ls : List Nat) (f : Nat → Word) : (writeLanes s r ls f).frag = s.frag := rfl
@[simp] theorem writeLanes_wave_idx (r : Nat) (ls : List Nat) (f : Nat → Word) : (writeLanes s r ls f).wave.idx = s.wave.idx := rfl
@[simp] theorem writeLanes_wave_slot (r : Nat) (ls : List Nat) (f : Nat → Word) : (writeLanes s r ls f).wave.slot = s.wave.slot := rfl
@[simp] theorem writeLanes_wave_role (r : Nat) (ls : List Nat) (f : Nat → Word) : (writeLanes s r ls f).wave.role = s.wave.role := rfl
@[simp] theorem writeLanes_wave_rng (r : Nat) (ls : List Nat) (f : Nat → Word) : (writeLanes s r ls f).wave.rng = s.wave.rng := rfl
@[simp] theorem writeLanes_wave_s (r : Nat) (ls : List Nat) (f : Nat → Word) : (writeLanes s r ls f).wave.s = s.wave.s := rfl
@[simp] theorem writeLanes_wave_m (r : Nat) (ls : List Nat) (f : Nat → Word) : (writeLanes s r ls f).wave.m = s.wave.m := rfl
@[simp] theorem writeLanes_wave_flg (r : Nat) (ls : List Nat) (f : Nat → Word) : (writeLanes s r ls f).wave.flg = s.wave.flg := rfl
@[simp] theorem writeLanes_wave_f (r : Nat) (ls : List Nat) (f : Nat → Word) : (writeLanes s r ls f).wave.f = s.wave.f := rfl
@[simp] theorem writeLanes_wave_clkHi (r : Nat) (ls : List Nat) (f : Nat → Word) : (writeLanes s r ls f).wave.clkHi = s.wave.clkHi := rfl
@[simp] theorem writeLanes_wave_frags (r : Nat) (ls : List Nat) (f : Nat → Word) : (writeLanes s r ls f).wave.frags = s.wave.frags := rfl
@[simp] theorem writeLanes_wave_joins (r : Nat) (ls : List Nat) (f : Nat → Word) : (writeLanes s r ls f).wave.joins = s.wave.joins := rfl
@[simp] theorem writeLanes_wave_nextJoin (r : Nat) (ls : List Nat) (f : Nat → Word) : (writeLanes s r ls f).wave.nextJoin = s.wave.nextJoin := rfl
@[simp] theorem writeLanes_wave_fspill (r : Nat) (ls : List Nat) (f : Nat → Word) : (writeLanes s r ls f).wave.fspill = s.wave.fspill := rfl
@[simp] theorem writeLanes_wave_jspill (r : Nat) (ls : List Nat) (f : Nat → Word) : (writeLanes s r ls f).wave.jspill = s.wave.jspill := rfl
@[simp] theorem writeLanes_wave_enrol (r : Nat) (ls : List Nat) (f : Nat → Word) : (writeLanes s r ls f).wave.enrol = s.wave.enrol := rfl
@[simp] theorem writeLanes_wave_nb (r : Nat) (ls : List Nat) (f : Nat → Word) : (writeLanes s r ls f).wave.nb = s.wave.nb := rfl
@[simp] theorem writeLanes_wave_unsealed (r : Nat) (ls : List Nat) (f : Nat → Word) : (writeLanes s r ls f).wave.unsealed = s.wave.unsealed := rfl
@[simp] theorem writeLanes_wave_batches (r : Nat) (ls : List Nat) (f : Nat → Word) : (writeLanes s r ls f).wave.batches = s.wave.batches := rfl
@[simp] theorem writeLanes_wave_fetchMark (r : Nat) (ls : List Nat) (f : Nat → Word) : (writeLanes s r ls f).wave.fetchMark = s.wave.fetchMark := rfl
@[simp] theorem writeLanes_crew_uid (r : Nat) (ls : List Nat) (f : Nat → Word) : (writeLanes s r ls f).crew.uid = s.crew.uid := rfl
@[simp] theorem writeLanes_crew_state (r : Nat) (ls : List Nat) (f : Nat → Word) : (writeLanes s r ls f).crew.state = s.crew.state := rfl
@[simp] theorem writeLanes_crew_forced (r : Nat) (ls : List Nat) (f : Nat → Word) : (writeLanes s r ls f).crew.forced = s.crew.forced := rfl
@[simp] theorem writeLanes_crew_prio (r : Nat) (ls : List Nat) (f : Nat → Word) : (writeLanes s r ls f).crew.prio = s.crew.prio := rfl
@[simp] theorem writeLanes_crew_ctag (r : Nat) (ls : List Nat) (f : Nat → Word) : (writeLanes s r ls f).crew.ctag = s.crew.ctag := rfl
@[simp] theorem writeLanes_crew_gen (r : Nat) (ls : List Nat) (f : Nat → Word) : (writeLanes s r ls f).crew.gen = s.crew.gen := rfl
@[simp] theorem writeLanes_crew_scratchSize (r : Nat) (ls : List Nat) (f : Nat → Word) : (writeLanes s r ls f).crew.scratchSize = s.crew.scratchSize := rfl
@[simp] theorem writeLanes_crew_tileSize (r : Nat) (ls : List Nat) (f : Nat → Word) : (writeLanes s r ls f).crew.tileSize = s.crew.tileSize := rfl
@[simp] theorem writeLanes_crew_thunkMax (r : Nat) (ls : List Nat) (f : Nat → Word) : (writeLanes s r ls f).crew.thunkMax = s.crew.thunkMax := rfl
@[simp] theorem writeLanes_crew_deadline (r : Nat) (ls : List Nat) (f : Nat → Word) : (writeLanes s r ls f).crew.deadline = s.crew.deadline := rfl
@[simp] theorem writeLanes_crew_waveCount (r : Nat) (ls : List Nat) (f : Nat → Word) : (writeLanes s r ls f).crew.waveCount = s.crew.waveCount := rfl
@[simp] theorem writeLanes_crew_placedAt (r : Nat) (ls : List Nat) (f : Nat → Word) : (writeLanes s r ls f).crew.placedAt = s.crew.placedAt := rfl
@[simp] theorem writeLanes_crew_preqFor (r : Nat) (ls : List Nat) (f : Nat → Word) : (writeLanes s r ls f).crew.preqFor = s.crew.preqFor := rfl
@[simp] theorem writeLanes_crew_taken (r : Nat) (ls : List Nat) (f : Nat → Word) : (writeLanes s r ls f).crew.taken = s.crew.taken := rfl
@[simp] theorem writeLanes_crew_trigged (r : Nat) (ls : List Nat) (f : Nat → Word) : (writeLanes s r ls f).crew.trigged = s.crew.trigged := rfl
@[simp] theorem writeLanes_crew_since (r : Nat) (ls : List Nat) (f : Nat → Word) : (writeLanes s r ls f).crew.since = s.crew.since := rfl
@[simp] theorem writeLanes_crew_hold (r : Nat) (ls : List Nat) (f : Nat → Word) : (writeLanes s r ls f).crew.hold = s.crew.hold := rfl
@[simp] theorem writeLanes_crew_succ (r : Nat) (ls : List Nat) (f : Nat → Word) : (writeLanes s r ls f).crew.succ = s.crew.succ := rfl
@[simp] theorem writeLanes_crew_scratch (r : Nat) (ls : List Nat) (f : Nat → Word) : (writeLanes s r ls f).crew.scratch = s.crew.scratch := rfl
@[simp] theorem writeLanes_crew_opc (r : Nat) (ls : List Nat) (f : Nat → Word) : (writeLanes s r ls f).crew.opc = s.crew.opc := rfl
@[simp] theorem writeLanes_crew_opcGen (r : Nat) (ls : List Nat) (f : Nat → Word) : (writeLanes s r ls f).crew.opcGen = s.crew.opcGen := rfl
@[simp] theorem writeLanes_crew_shist (r : Nat) (ls : List Nat) (f : Nat → Word) : (writeLanes s r ls f).crew.shist = s.crew.shist := rfl
@[simp] theorem writeLanes_crew_shistSeq (r : Nat) (ls : List Nat) (f : Nat → Word) : (writeLanes s r ls f).crew.shistSeq = s.crew.shistSeq := rfl
@[simp] theorem writeLanes_crew_full (r : Nat) (ls : List Nat) (f : Nat → Word) : (writeLanes s r ls f).crew.full = s.crew.full := rfl
@[simp] theorem writeLanes_crew_tile (r : Nat) (ls : List Nat) (f : Nat → Word) : (writeLanes s r ls f).crew.tile = s.crew.tile := rfl
@[simp] theorem writeLanes_crew_mx (r : Nat) (ls : List Nat) (f : Nat → Word) : (writeLanes s r ls f).crew.mx = s.crew.mx := rfl
@[simp] theorem writeLanes_crew_job (r : Nat) (ls : List Nat) (f : Nat → Word) : (writeLanes s r ls f).crew.job = s.crew.job := rfl
@[simp] theorem writeLanes_crew_index (r : Nat) (ls : List Nat) (f : Nat → Word) : (writeLanes s r ls f).crew.index = s.crew.index := rfl
@[simp] theorem writeLanes_crew_cx (r : Nat) (ls : List Nat) (f : Nat → Word) : (writeLanes s r ls f).crew.cx = s.crew.cx := rfl
@[simp] theorem writeLanes_crew_cy (r : Nat) (ls : List Nat) (f : Nat → Word) : (writeLanes s r ls f).crew.cy = s.crew.cy := rfl
@[simp] theorem writeLanes_crew_core (r : Nat) (ls : List Nat) (f : Nat → Word) : (writeLanes s r ls f).crew.core = s.crew.core := rfl
@[simp] theorem writeLanes_crew_ctx (r : Nat) (ls : List Nat) (f : Nat → Word) : (writeLanes s r ls f).crew.ctx = s.crew.ctx := rfl
@[simp] theorem writeLanes_crew_vregs (r : Nat) (ls : List Nat) (f : Nat → Word) : (writeLanes s r ls f).crew.vregs = s.crew.vregs := rfl
@[simp] theorem writeLanes_crew_sregs (r : Nat) (ls : List Nat) (f : Nat → Word) : (writeLanes s r ls f).crew.sregs = s.crew.sregs := rfl
@[simp] theorem writeLanes_crew_preq (r : Nat) (ls : List Nat) (f : Nat → Word) : (writeLanes s r ls f).crew.preq = s.crew.preq := rfl
@[simp] theorem writeLanes_crew_contained (r : Nat) (ls : List Nat) (f : Nat → Word) : (writeLanes s r ls f).crew.contained = s.crew.contained := rfl
@[simp] theorem writeLanes_crew_waves (r : Nat) (ls : List Nat) (f : Nat → Word) : (writeLanes s r ls f).crew.waves = s.crew.waves := rfl
@[simp] theorem writeLanes_crew_nextOp (r : Nat) (ls : List Nat) (f : Nat → Word) : (writeLanes s r ls f).crew.nextOp = s.crew.nextOp := rfl
@[simp] theorem writeLanes_crew_recSeq (r : Nat) (ls : List Nat) (f : Nat → Word) : (writeLanes s r ls f).crew.recSeq = s.crew.recSeq := rfl
@[simp] theorem writeLanes_crew_parkSize (r : Nat) (ls : List Nat) (f : Nat → Word) : (writeLanes s r ls f).crew.parkSize = s.crew.parkSize := rfl
@[simp] theorem writeLanes_crew_park (r : Nat) (ls : List Nat) (f : Nat → Word) : (writeLanes s r ls f).crew.park = s.crew.park := rfl
@[simp] theorem writeLanes_crew_allocs (r : Nat) (ls : List Nat) (f : Nat → Word) : (writeLanes s r ls f).crew.allocs = s.crew.allocs := rfl
@[simp] theorem writeLanes_crew_chain (r : Nat) (ls : List Nat) (f : Nat → Word) : (writeLanes s r ls f).crew.chain = s.crew.chain := rfl
@[simp] theorem writeLanes_crew_chainQ (r : Nat) (ls : List Nat) (f : Nat → Word) : (writeLanes s r ls f).crew.chainQ = s.crew.chainQ := rfl
@[simp] theorem writeLanes_crew_tiles (r : Nat) (ls : List Nat) (f : Nat → Word) : (writeLanes s r ls f).crew.tiles = s.crew.tiles := rfl

/-! ### writeS -/

@[simp] theorem writeS_dev (r : Nat) (x : Word) : (writeS s r x).dev = s.dev := rfl
@[simp] theorem writeS_active (r : Nat) (x : Word) : (writeS s r x).active = s.active := rfl
@[simp] theorem writeS_agenda (r : Nat) (x : Word) : (writeS s r x).agenda = s.agenda := rfl
@[simp] theorem writeS_clk (r : Nat) (x : Word) : (writeS s r x).clk = s.clk := rfl
@[simp] theorem writeS_nfree (r : Nat) (x : Word) : (writeS s r x).nfree = s.nfree := rfl
@[simp] theorem writeS_frag (r : Nat) (x : Word) : (writeS s r x).frag = s.frag := rfl
@[simp] theorem writeS_wave_idx (r : Nat) (x : Word) : (writeS s r x).wave.idx = s.wave.idx := rfl
@[simp] theorem writeS_wave_slot (r : Nat) (x : Word) : (writeS s r x).wave.slot = s.wave.slot := rfl
@[simp] theorem writeS_wave_role (r : Nat) (x : Word) : (writeS s r x).wave.role = s.wave.role := rfl
@[simp] theorem writeS_wave_v (r : Nat) (x : Word) : (writeS s r x).wave.v = s.wave.v := rfl
@[simp] theorem writeS_wave_rng (r : Nat) (x : Word) : (writeS s r x).wave.rng = s.wave.rng := rfl
@[simp] theorem writeS_wave_m (r : Nat) (x : Word) : (writeS s r x).wave.m = s.wave.m := rfl
@[simp] theorem writeS_wave_flg (r : Nat) (x : Word) : (writeS s r x).wave.flg = s.wave.flg := rfl
@[simp] theorem writeS_wave_f (r : Nat) (x : Word) : (writeS s r x).wave.f = s.wave.f := rfl
@[simp] theorem writeS_wave_clkHi (r : Nat) (x : Word) : (writeS s r x).wave.clkHi = s.wave.clkHi := rfl
@[simp] theorem writeS_wave_frags (r : Nat) (x : Word) : (writeS s r x).wave.frags = s.wave.frags := rfl
@[simp] theorem writeS_wave_joins (r : Nat) (x : Word) : (writeS s r x).wave.joins = s.wave.joins := rfl
@[simp] theorem writeS_wave_nextJoin (r : Nat) (x : Word) : (writeS s r x).wave.nextJoin = s.wave.nextJoin := rfl
@[simp] theorem writeS_wave_fspill (r : Nat) (x : Word) : (writeS s r x).wave.fspill = s.wave.fspill := rfl
@[simp] theorem writeS_wave_jspill (r : Nat) (x : Word) : (writeS s r x).wave.jspill = s.wave.jspill := rfl
@[simp] theorem writeS_wave_enrol (r : Nat) (x : Word) : (writeS s r x).wave.enrol = s.wave.enrol := rfl
@[simp] theorem writeS_wave_nb (r : Nat) (x : Word) : (writeS s r x).wave.nb = s.wave.nb := rfl
@[simp] theorem writeS_wave_unsealed (r : Nat) (x : Word) : (writeS s r x).wave.unsealed = s.wave.unsealed := rfl
@[simp] theorem writeS_wave_batches (r : Nat) (x : Word) : (writeS s r x).wave.batches = s.wave.batches := rfl
@[simp] theorem writeS_wave_fetchMark (r : Nat) (x : Word) : (writeS s r x).wave.fetchMark = s.wave.fetchMark := rfl
@[simp] theorem writeS_crew_uid (r : Nat) (x : Word) : (writeS s r x).crew.uid = s.crew.uid := rfl
@[simp] theorem writeS_crew_state (r : Nat) (x : Word) : (writeS s r x).crew.state = s.crew.state := rfl
@[simp] theorem writeS_crew_forced (r : Nat) (x : Word) : (writeS s r x).crew.forced = s.crew.forced := rfl
@[simp] theorem writeS_crew_prio (r : Nat) (x : Word) : (writeS s r x).crew.prio = s.crew.prio := rfl
@[simp] theorem writeS_crew_ctag (r : Nat) (x : Word) : (writeS s r x).crew.ctag = s.crew.ctag := rfl
@[simp] theorem writeS_crew_gen (r : Nat) (x : Word) : (writeS s r x).crew.gen = s.crew.gen := rfl
@[simp] theorem writeS_crew_scratchSize (r : Nat) (x : Word) : (writeS s r x).crew.scratchSize = s.crew.scratchSize := rfl
@[simp] theorem writeS_crew_tileSize (r : Nat) (x : Word) : (writeS s r x).crew.tileSize = s.crew.tileSize := rfl
@[simp] theorem writeS_crew_thunkMax (r : Nat) (x : Word) : (writeS s r x).crew.thunkMax = s.crew.thunkMax := rfl
@[simp] theorem writeS_crew_deadline (r : Nat) (x : Word) : (writeS s r x).crew.deadline = s.crew.deadline := rfl
@[simp] theorem writeS_crew_waveCount (r : Nat) (x : Word) : (writeS s r x).crew.waveCount = s.crew.waveCount := rfl
@[simp] theorem writeS_crew_placedAt (r : Nat) (x : Word) : (writeS s r x).crew.placedAt = s.crew.placedAt := rfl
@[simp] theorem writeS_crew_preqFor (r : Nat) (x : Word) : (writeS s r x).crew.preqFor = s.crew.preqFor := rfl
@[simp] theorem writeS_crew_taken (r : Nat) (x : Word) : (writeS s r x).crew.taken = s.crew.taken := rfl
@[simp] theorem writeS_crew_trigged (r : Nat) (x : Word) : (writeS s r x).crew.trigged = s.crew.trigged := rfl
@[simp] theorem writeS_crew_since (r : Nat) (x : Word) : (writeS s r x).crew.since = s.crew.since := rfl
@[simp] theorem writeS_crew_hold (r : Nat) (x : Word) : (writeS s r x).crew.hold = s.crew.hold := rfl
@[simp] theorem writeS_crew_succ (r : Nat) (x : Word) : (writeS s r x).crew.succ = s.crew.succ := rfl
@[simp] theorem writeS_crew_scratch (r : Nat) (x : Word) : (writeS s r x).crew.scratch = s.crew.scratch := rfl
@[simp] theorem writeS_crew_opc (r : Nat) (x : Word) : (writeS s r x).crew.opc = s.crew.opc := rfl
@[simp] theorem writeS_crew_opcGen (r : Nat) (x : Word) : (writeS s r x).crew.opcGen = s.crew.opcGen := rfl
@[simp] theorem writeS_crew_shist (r : Nat) (x : Word) : (writeS s r x).crew.shist = s.crew.shist := rfl
@[simp] theorem writeS_crew_shistSeq (r : Nat) (x : Word) : (writeS s r x).crew.shistSeq = s.crew.shistSeq := rfl
@[simp] theorem writeS_crew_full (r : Nat) (x : Word) : (writeS s r x).crew.full = s.crew.full := rfl
@[simp] theorem writeS_crew_tile (r : Nat) (x : Word) : (writeS s r x).crew.tile = s.crew.tile := rfl
@[simp] theorem writeS_crew_mx (r : Nat) (x : Word) : (writeS s r x).crew.mx = s.crew.mx := rfl
@[simp] theorem writeS_crew_job (r : Nat) (x : Word) : (writeS s r x).crew.job = s.crew.job := rfl
@[simp] theorem writeS_crew_index (r : Nat) (x : Word) : (writeS s r x).crew.index = s.crew.index := rfl
@[simp] theorem writeS_crew_cx (r : Nat) (x : Word) : (writeS s r x).crew.cx = s.crew.cx := rfl
@[simp] theorem writeS_crew_cy (r : Nat) (x : Word) : (writeS s r x).crew.cy = s.crew.cy := rfl
@[simp] theorem writeS_crew_core (r : Nat) (x : Word) : (writeS s r x).crew.core = s.crew.core := rfl
@[simp] theorem writeS_crew_ctx (r : Nat) (x : Word) : (writeS s r x).crew.ctx = s.crew.ctx := rfl
@[simp] theorem writeS_crew_vregs (r : Nat) (x : Word) : (writeS s r x).crew.vregs = s.crew.vregs := rfl
@[simp] theorem writeS_crew_sregs (r : Nat) (x : Word) : (writeS s r x).crew.sregs = s.crew.sregs := rfl
@[simp] theorem writeS_crew_preq (r : Nat) (x : Word) : (writeS s r x).crew.preq = s.crew.preq := rfl
@[simp] theorem writeS_crew_contained (r : Nat) (x : Word) : (writeS s r x).crew.contained = s.crew.contained := rfl
@[simp] theorem writeS_crew_waves (r : Nat) (x : Word) : (writeS s r x).crew.waves = s.crew.waves := rfl
@[simp] theorem writeS_crew_nextOp (r : Nat) (x : Word) : (writeS s r x).crew.nextOp = s.crew.nextOp := rfl
@[simp] theorem writeS_crew_recSeq (r : Nat) (x : Word) : (writeS s r x).crew.recSeq = s.crew.recSeq := rfl
@[simp] theorem writeS_crew_parkSize (r : Nat) (x : Word) : (writeS s r x).crew.parkSize = s.crew.parkSize := rfl
@[simp] theorem writeS_crew_park (r : Nat) (x : Word) : (writeS s r x).crew.park = s.crew.park := rfl
@[simp] theorem writeS_crew_allocs (r : Nat) (x : Word) : (writeS s r x).crew.allocs = s.crew.allocs := rfl
@[simp] theorem writeS_crew_chain (r : Nat) (x : Word) : (writeS s r x).crew.chain = s.crew.chain := rfl
@[simp] theorem writeS_crew_chainQ (r : Nat) (x : Word) : (writeS s r x).crew.chainQ = s.crew.chainQ := rfl
@[simp] theorem writeS_crew_tiles (r : Nat) (x : Word) : (writeS s r x).crew.tiles = s.crew.tiles := rfl

/-! ### writeM -/

@[simp] theorem writeM_dev (k : Nat) (x : Lanes) : (writeM s k x).dev = s.dev := rfl
@[simp] theorem writeM_active (k : Nat) (x : Lanes) : (writeM s k x).active = s.active := rfl
@[simp] theorem writeM_agenda (k : Nat) (x : Lanes) : (writeM s k x).agenda = s.agenda := rfl
@[simp] theorem writeM_clk (k : Nat) (x : Lanes) : (writeM s k x).clk = s.clk := rfl
@[simp] theorem writeM_nfree (k : Nat) (x : Lanes) : (writeM s k x).nfree = s.nfree := rfl
@[simp] theorem writeM_crew (k : Nat) (x : Lanes) : (writeM s k x).crew = s.crew := rfl
@[simp] theorem writeM_frag (k : Nat) (x : Lanes) : (writeM s k x).frag = s.frag := rfl
@[simp] theorem writeM_wave_idx (k : Nat) (x : Lanes) : (writeM s k x).wave.idx = s.wave.idx := rfl
@[simp] theorem writeM_wave_slot (k : Nat) (x : Lanes) : (writeM s k x).wave.slot = s.wave.slot := rfl
@[simp] theorem writeM_wave_role (k : Nat) (x : Lanes) : (writeM s k x).wave.role = s.wave.role := rfl
@[simp] theorem writeM_wave_v (k : Nat) (x : Lanes) : (writeM s k x).wave.v = s.wave.v := rfl
@[simp] theorem writeM_wave_rng (k : Nat) (x : Lanes) : (writeM s k x).wave.rng = s.wave.rng := rfl
@[simp] theorem writeM_wave_s (k : Nat) (x : Lanes) : (writeM s k x).wave.s = s.wave.s := rfl
@[simp] theorem writeM_wave_flg (k : Nat) (x : Lanes) : (writeM s k x).wave.flg = s.wave.flg := rfl
@[simp] theorem writeM_wave_f (k : Nat) (x : Lanes) : (writeM s k x).wave.f = s.wave.f := rfl
@[simp] theorem writeM_wave_clkHi (k : Nat) (x : Lanes) : (writeM s k x).wave.clkHi = s.wave.clkHi := rfl
@[simp] theorem writeM_wave_frags (k : Nat) (x : Lanes) : (writeM s k x).wave.frags = s.wave.frags := rfl
@[simp] theorem writeM_wave_joins (k : Nat) (x : Lanes) : (writeM s k x).wave.joins = s.wave.joins := rfl
@[simp] theorem writeM_wave_nextJoin (k : Nat) (x : Lanes) : (writeM s k x).wave.nextJoin = s.wave.nextJoin := rfl
@[simp] theorem writeM_wave_fspill (k : Nat) (x : Lanes) : (writeM s k x).wave.fspill = s.wave.fspill := rfl
@[simp] theorem writeM_wave_jspill (k : Nat) (x : Lanes) : (writeM s k x).wave.jspill = s.wave.jspill := rfl
@[simp] theorem writeM_wave_enrol (k : Nat) (x : Lanes) : (writeM s k x).wave.enrol = s.wave.enrol := rfl
@[simp] theorem writeM_wave_nb (k : Nat) (x : Lanes) : (writeM s k x).wave.nb = s.wave.nb := rfl
@[simp] theorem writeM_wave_unsealed (k : Nat) (x : Lanes) : (writeM s k x).wave.unsealed = s.wave.unsealed := rfl
@[simp] theorem writeM_wave_batches (k : Nat) (x : Lanes) : (writeM s k x).wave.batches = s.wave.batches := rfl
@[simp] theorem writeM_wave_fetchMark (k : Nat) (x : Lanes) : (writeM s k x).wave.fetchMark = s.wave.fetchMark := rfl

/-! ### writeExec -/

@[simp] theorem writeExec_dev (x : Lanes) : (writeExec s x).dev = s.dev := rfl
@[simp] theorem writeExec_active (x : Lanes) : (writeExec s x).active = s.active := rfl
@[simp] theorem writeExec_agenda (x : Lanes) : (writeExec s x).agenda = s.agenda := rfl
@[simp] theorem writeExec_clk (x : Lanes) : (writeExec s x).clk = s.clk := rfl
@[simp] theorem writeExec_nfree (x : Lanes) : (writeExec s x).nfree = s.nfree := rfl
@[simp] theorem writeExec_wave (x : Lanes) : (writeExec s x).wave = s.wave := rfl
@[simp] theorem writeExec_crew (x : Lanes) : (writeExec s x).crew = s.crew := rfl
@[simp] theorem writeExec_frag_id (x : Lanes) : (writeExec s x).frag.id = s.frag.id := rfl
@[simp] theorem writeExec_frag_lanes (x : Lanes) : (writeExec s x).frag.lanes = s.frag.lanes := rfl
@[simp] theorem writeExec_frag_fmt (x : Lanes) : (writeExec s x).frag.fmt = s.frag.fmt := rfl
@[simp] theorem writeExec_frag_clause (x : Lanes) : (writeExec s x).frag.clause = s.frag.clause := rfl
@[simp] theorem writeExec_frag_parcel (x : Lanes) : (writeExec s x).frag.parcel = s.frag.parcel := rfl
@[simp] theorem writeExec_frag_latched (x : Lanes) : (writeExec s x).frag.latched = s.frag.latched := rfl
@[simp] theorem writeExec_frag_hdr (x : Lanes) : (writeExec s x).frag.hdr = s.frag.hdr := rfl
@[simp] theorem writeExec_frag_body (x : Lanes) : (writeExec s x).frag.body = s.frag.body := rfl
@[simp] theorem writeExec_frag_lit (x : Lanes) : (writeExec s x).frag.lit = s.frag.lit := rfl
@[simp] theorem writeExec_frag_after (x : Lanes) : (writeExec s x).frag.after = s.frag.after := rfl
@[simp] theorem writeExec_frag_join (x : Lanes) : (writeExec s x).frag.join = s.frag.join := rfl
@[simp] theorem writeExec_frag_status (x : Lanes) : (writeExec s x).frag.status = s.frag.status := rfl
@[simp] theorem writeExec_frag_resume (x : Lanes) : (writeExec s x).frag.resume = s.frag.resume := rfl
@[simp] theorem writeExec_frag_age (x : Lanes) : (writeExec s x).frag.age = s.frag.age := rfl
@[simp] theorem writeExec_frag_issued (x : Lanes) : (writeExec s x).frag.issued = s.frag.issued := rfl
@[simp] theorem writeExec_frag_aged (x : Lanes) : (writeExec s x).frag.aged = s.frag.aged := rfl
@[simp] theorem writeExec_frag_back (x : Lanes) : (writeExec s x).frag.back = s.frag.back := rfl
@[simp] theorem writeExec_frag_trapMode (x : Lanes) : (writeExec s x).frag.trapMode = s.frag.trapMode := rfl
@[simp] theorem writeExec_frag_epc (x : Lanes) : (writeExec s x).frag.epc = s.frag.epc := rfl
@[simp] theorem writeExec_frag_epar (x : Lanes) : (writeExec s x).frag.epar = s.frag.epar := rfl
@[simp] theorem writeExec_frag_ecause (x : Lanes) : (writeExec s x).frag.ecause = s.frag.ecause := rfl
@[simp] theorem writeExec_frag_eexec (x : Lanes) : (writeExec s x).frag.eexec = s.frag.eexec := rfl
@[simp] theorem writeExec_frag_efmt (x : Lanes) : (writeExec s x).frag.efmt = s.frag.efmt := rfl
@[simp] theorem writeExec_frag_esave (x : Lanes) : (writeExec s x).frag.esave = s.frag.esave := rfl
@[simp] theorem writeExec_frag_erecoff (x : Lanes) : (writeExec s x).frag.erecoff = s.frag.erecoff := rfl
@[simp] theorem writeExec_frag_etrapv (x : Lanes) : (writeExec s x).frag.etrapv = s.frag.etrapv := rfl
@[simp] theorem writeExec_frag_cont (x : Lanes) : (writeExec s x).frag.cont = s.frag.cont := rfl
@[simp] theorem writeExec_frag_oneShot (x : Lanes) : (writeExec s x).frag.oneShot = s.frag.oneShot := rfl

/-! ### commitFlags -/

@[simp] theorem commitFlags_dev (fl : Flags) : (commitFlags s fl).dev = s.dev := rfl
@[simp] theorem commitFlags_active (fl : Flags) : (commitFlags s fl).active = s.active := rfl
@[simp] theorem commitFlags_agenda (fl : Flags) : (commitFlags s fl).agenda = s.agenda := rfl
@[simp] theorem commitFlags_clk (fl : Flags) : (commitFlags s fl).clk = s.clk := rfl
@[simp] theorem commitFlags_nfree (fl : Flags) : (commitFlags s fl).nfree = s.nfree := rfl
@[simp] theorem commitFlags_crew (fl : Flags) : (commitFlags s fl).crew = s.crew := rfl
@[simp] theorem commitFlags_frag (fl : Flags) : (commitFlags s fl).frag = s.frag := rfl
@[simp] theorem commitFlags_wave_idx (fl : Flags) : (commitFlags s fl).wave.idx = s.wave.idx := rfl
@[simp] theorem commitFlags_wave_slot (fl : Flags) : (commitFlags s fl).wave.slot = s.wave.slot := rfl
@[simp] theorem commitFlags_wave_role (fl : Flags) : (commitFlags s fl).wave.role = s.wave.role := rfl
@[simp] theorem commitFlags_wave_v (fl : Flags) : (commitFlags s fl).wave.v = s.wave.v := rfl
@[simp] theorem commitFlags_wave_rng (fl : Flags) : (commitFlags s fl).wave.rng = s.wave.rng := rfl
@[simp] theorem commitFlags_wave_s (fl : Flags) : (commitFlags s fl).wave.s = s.wave.s := rfl
@[simp] theorem commitFlags_wave_m (fl : Flags) : (commitFlags s fl).wave.m = s.wave.m := rfl
@[simp] theorem commitFlags_wave_f (fl : Flags) : (commitFlags s fl).wave.f = s.wave.f := rfl
@[simp] theorem commitFlags_wave_clkHi (fl : Flags) : (commitFlags s fl).wave.clkHi = s.wave.clkHi := rfl
@[simp] theorem commitFlags_wave_frags (fl : Flags) : (commitFlags s fl).wave.frags = s.wave.frags := rfl
@[simp] theorem commitFlags_wave_joins (fl : Flags) : (commitFlags s fl).wave.joins = s.wave.joins := rfl
@[simp] theorem commitFlags_wave_nextJoin (fl : Flags) : (commitFlags s fl).wave.nextJoin = s.wave.nextJoin := rfl
@[simp] theorem commitFlags_wave_fspill (fl : Flags) : (commitFlags s fl).wave.fspill = s.wave.fspill := rfl
@[simp] theorem commitFlags_wave_jspill (fl : Flags) : (commitFlags s fl).wave.jspill = s.wave.jspill := rfl
@[simp] theorem commitFlags_wave_enrol (fl : Flags) : (commitFlags s fl).wave.enrol = s.wave.enrol := rfl
@[simp] theorem commitFlags_wave_nb (fl : Flags) : (commitFlags s fl).wave.nb = s.wave.nb := rfl
@[simp] theorem commitFlags_wave_unsealed (fl : Flags) : (commitFlags s fl).wave.unsealed = s.wave.unsealed := rfl
@[simp] theorem commitFlags_wave_batches (fl : Flags) : (commitFlags s fl).wave.batches = s.wave.batches := rfl
@[simp] theorem commitFlags_wave_fetchMark (fl : Flags) : (commitFlags s fl).wave.fetchMark = s.wave.fetchMark := rfl

/-! ### setRng -/

@[simp] theorem setRng_dev (ls : List (Nat × Word)) : (setRng s ls).dev = s.dev := rfl
@[simp] theorem setRng_active (ls : List (Nat × Word)) : (setRng s ls).active = s.active := rfl
@[simp] theorem setRng_agenda (ls : List (Nat × Word)) : (setRng s ls).agenda = s.agenda := rfl
@[simp] theorem setRng_clk (ls : List (Nat × Word)) : (setRng s ls).clk = s.clk := rfl
@[simp] theorem setRng_nfree (ls : List (Nat × Word)) : (setRng s ls).nfree = s.nfree := rfl
@[simp] theorem setRng_crew (ls : List (Nat × Word)) : (setRng s ls).crew = s.crew := rfl
@[simp] theorem setRng_frag (ls : List (Nat × Word)) : (setRng s ls).frag = s.frag := rfl
@[simp] theorem setRng_wave_idx (ls : List (Nat × Word)) : (setRng s ls).wave.idx = s.wave.idx := rfl
@[simp] theorem setRng_wave_slot (ls : List (Nat × Word)) : (setRng s ls).wave.slot = s.wave.slot := rfl
@[simp] theorem setRng_wave_role (ls : List (Nat × Word)) : (setRng s ls).wave.role = s.wave.role := rfl
@[simp] theorem setRng_wave_v (ls : List (Nat × Word)) : (setRng s ls).wave.v = s.wave.v := rfl
@[simp] theorem setRng_wave_s (ls : List (Nat × Word)) : (setRng s ls).wave.s = s.wave.s := rfl
@[simp] theorem setRng_wave_m (ls : List (Nat × Word)) : (setRng s ls).wave.m = s.wave.m := rfl
@[simp] theorem setRng_wave_flg (ls : List (Nat × Word)) : (setRng s ls).wave.flg = s.wave.flg := rfl
@[simp] theorem setRng_wave_f (ls : List (Nat × Word)) : (setRng s ls).wave.f = s.wave.f := rfl
@[simp] theorem setRng_wave_clkHi (ls : List (Nat × Word)) : (setRng s ls).wave.clkHi = s.wave.clkHi := rfl
@[simp] theorem setRng_wave_frags (ls : List (Nat × Word)) : (setRng s ls).wave.frags = s.wave.frags := rfl
@[simp] theorem setRng_wave_joins (ls : List (Nat × Word)) : (setRng s ls).wave.joins = s.wave.joins := rfl
@[simp] theorem setRng_wave_nextJoin (ls : List (Nat × Word)) : (setRng s ls).wave.nextJoin = s.wave.nextJoin := rfl
@[simp] theorem setRng_wave_fspill (ls : List (Nat × Word)) : (setRng s ls).wave.fspill = s.wave.fspill := rfl
@[simp] theorem setRng_wave_jspill (ls : List (Nat × Word)) : (setRng s ls).wave.jspill = s.wave.jspill := rfl
@[simp] theorem setRng_wave_enrol (ls : List (Nat × Word)) : (setRng s ls).wave.enrol = s.wave.enrol := rfl
@[simp] theorem setRng_wave_nb (ls : List (Nat × Word)) : (setRng s ls).wave.nb = s.wave.nb := rfl
@[simp] theorem setRng_wave_unsealed (ls : List (Nat × Word)) : (setRng s ls).wave.unsealed = s.wave.unsealed := rfl
@[simp] theorem setRng_wave_batches (ls : List (Nat × Word)) : (setRng s ls).wave.batches = s.wave.batches := rfl
@[simp] theorem setRng_wave_fetchMark (ls : List (Nat × Word)) : (setRng s ls).wave.fetchMark = s.wave.fetchMark := rfl

/-! ### advance -/

@[simp] theorem advance_dev : (advance s).dev = s.dev := rfl
@[simp] theorem advance_active : (advance s).active = s.active := rfl
@[simp] theorem advance_agenda : (advance s).agenda = s.agenda := rfl
@[simp] theorem advance_clk : (advance s).clk = s.clk := rfl
@[simp] theorem advance_nfree : (advance s).nfree = s.nfree := rfl
@[simp] theorem advance_wave : (advance s).wave = s.wave := rfl
@[simp] theorem advance_crew : (advance s).crew = s.crew := rfl

/-! ### jump -/

@[simp] theorem jump_dev (a : DWord) : (jump s a).dev = s.dev := rfl
@[simp] theorem jump_active (a : DWord) : (jump s a).active = s.active := rfl
@[simp] theorem jump_agenda (a : DWord) : (jump s a).agenda = s.agenda := rfl
@[simp] theorem jump_clk (a : DWord) : (jump s a).clk = s.clk := rfl
@[simp] theorem jump_nfree (a : DWord) : (jump s a).nfree = s.nfree := rfl
@[simp] theorem jump_wave (a : DWord) : (jump s a).wave = s.wave := rfl
@[simp] theorem jump_crew (a : DWord) : (jump s a).crew = s.crew := rfl

/-! ### The fragment after its instruction -/

@[simp] theorem advance_frag : (advance s).frag = pastParcels s.frag (curParcels s.frag) s.clk := rfl
@[simp] theorem jump_frag (a : DWord) : (jump s a).frag = gotoClause s.frag a s.clk := rfl

@[simp] theorem gotoClause_id (f : Frag) (a : DWord) (clk : Nat) : (gotoClause f a clk).id = f.id := rfl
@[simp] theorem gotoClause_lanes (f : Frag) (a : DWord) (clk : Nat) : (gotoClause f a clk).lanes = f.lanes := rfl
@[simp] theorem gotoClause_exec (f : Frag) (a : DWord) (clk : Nat) : (gotoClause f a clk).exec = f.exec := rfl
@[simp] theorem gotoClause_fmt (f : Frag) (a : DWord) (clk : Nat) : (gotoClause f a clk).fmt = f.fmt := rfl
@[simp] theorem gotoClause_hdr (f : Frag) (a : DWord) (clk : Nat) : (gotoClause f a clk).hdr = f.hdr := rfl
@[simp] theorem gotoClause_body (f : Frag) (a : DWord) (clk : Nat) : (gotoClause f a clk).body = f.body := rfl
@[simp] theorem gotoClause_join (f : Frag) (a : DWord) (clk : Nat) : (gotoClause f a clk).join = f.join := rfl
@[simp] theorem gotoClause_trapMode (f : Frag) (a : DWord) (clk : Nat) : (gotoClause f a clk).trapMode = f.trapMode := rfl
@[simp] theorem gotoClause_epc (f : Frag) (a : DWord) (clk : Nat) : (gotoClause f a clk).epc = f.epc := rfl
@[simp] theorem gotoClause_epar (f : Frag) (a : DWord) (clk : Nat) : (gotoClause f a clk).epar = f.epar := rfl
@[simp] theorem gotoClause_ecause (f : Frag) (a : DWord) (clk : Nat) : (gotoClause f a clk).ecause = f.ecause := rfl
@[simp] theorem gotoClause_eexec (f : Frag) (a : DWord) (clk : Nat) : (gotoClause f a clk).eexec = f.eexec := rfl
@[simp] theorem gotoClause_efmt (f : Frag) (a : DWord) (clk : Nat) : (gotoClause f a clk).efmt = f.efmt := rfl
@[simp] theorem gotoClause_esave (f : Frag) (a : DWord) (clk : Nat) : (gotoClause f a clk).esave = f.esave := rfl
@[simp] theorem gotoClause_erecoff (f : Frag) (a : DWord) (clk : Nat) : (gotoClause f a clk).erecoff = f.erecoff := rfl
@[simp] theorem gotoClause_etrapv (f : Frag) (a : DWord) (clk : Nat) : (gotoClause f a clk).etrapv = f.etrapv := rfl
@[simp] theorem gotoClause_cont (f : Frag) (a : DWord) (clk : Nat) : (gotoClause f a clk).cont = f.cont := rfl
@[simp] theorem pastParcels_id (f : Frag) (n clk : Nat) : (pastParcels f n clk).id = f.id := by
  unfold pastParcels; split <;> rfl
@[simp] theorem pastParcels_lanes (f : Frag) (n clk : Nat) : (pastParcels f n clk).lanes = f.lanes := by
  unfold pastParcels; split <;> rfl
@[simp] theorem pastParcels_exec (f : Frag) (n clk : Nat) : (pastParcels f n clk).exec = f.exec := by
  unfold pastParcels; split <;> rfl
@[simp] theorem pastParcels_fmt (f : Frag) (n clk : Nat) : (pastParcels f n clk).fmt = f.fmt := by
  unfold pastParcels; split <;> rfl
@[simp] theorem pastParcels_hdr (f : Frag) (n clk : Nat) : (pastParcels f n clk).hdr = f.hdr := by
  unfold pastParcels; split <;> rfl
@[simp] theorem pastParcels_body (f : Frag) (n clk : Nat) : (pastParcels f n clk).body = f.body := by
  unfold pastParcels; split <;> rfl
@[simp] theorem pastParcels_join (f : Frag) (n clk : Nat) : (pastParcels f n clk).join = f.join := by
  unfold pastParcels; split <;> rfl
@[simp] theorem pastParcels_trapMode (f : Frag) (n clk : Nat) : (pastParcels f n clk).trapMode = f.trapMode := by
  unfold pastParcels; split <;> rfl
@[simp] theorem pastParcels_epc (f : Frag) (n clk : Nat) : (pastParcels f n clk).epc = f.epc := by
  unfold pastParcels; split <;> rfl
@[simp] theorem pastParcels_epar (f : Frag) (n clk : Nat) : (pastParcels f n clk).epar = f.epar := by
  unfold pastParcels; split <;> rfl
@[simp] theorem pastParcels_ecause (f : Frag) (n clk : Nat) : (pastParcels f n clk).ecause = f.ecause := by
  unfold pastParcels; split <;> rfl
@[simp] theorem pastParcels_eexec (f : Frag) (n clk : Nat) : (pastParcels f n clk).eexec = f.eexec := by
  unfold pastParcels; split <;> rfl
@[simp] theorem pastParcels_efmt (f : Frag) (n clk : Nat) : (pastParcels f n clk).efmt = f.efmt := by
  unfold pastParcels; split <;> rfl
@[simp] theorem pastParcels_esave (f : Frag) (n clk : Nat) : (pastParcels f n clk).esave = f.esave := by
  unfold pastParcels; split <;> rfl
@[simp] theorem pastParcels_erecoff (f : Frag) (n clk : Nat) : (pastParcels f n clk).erecoff = f.erecoff := by
  unfold pastParcels; split <;> rfl
@[simp] theorem pastParcels_etrapv (f : Frag) (n clk : Nat) : (pastParcels f n clk).etrapv = f.etrapv := by
  unfold pastParcels; split <;> rfl
@[simp] theorem pastParcels_cont (f : Frag) (n clk : Nat) : (pastParcels f n clk).cont = f.cont := by
  unfold pastParcels; split <;> rfl

@[simp] theorem gotoClause_clause (f : Frag) (a : DWord) (clk : Nat) : (gotoClause f a clk).clause = a := rfl
@[simp] theorem gotoClause_parcel (f : Frag) (a : DWord) (clk : Nat) : (gotoClause f a clk).parcel = 63 := rfl
@[simp] theorem gotoClause_status (f : Frag) (a : DWord) (clk : Nat) : (gotoClause f a clk).status = .ready := rfl
@[simp] theorem gotoClause_lit (f : Frag) (a : DWord) (clk : Nat) : (gotoClause f a clk).lit = none := rfl
@[simp] theorem pastParcels_lit (f : Frag) (n clk : Nat) : (pastParcels f n clk).lit = none := by
  unfold pastParcels; split <;> rfl
@[simp] theorem pastParcels_status (f : Frag) (n clk : Nat) : (pastParcels f n clk).status = .ready := by
  unfold pastParcels; split <;> rfl

/-! ### latchClk -/

@[simp] theorem latchClk_dev (cs : List (BitVec 8)) : (latchClk s cs).dev = s.dev := by
  unfold latchClk; split <;> rfl
@[simp] theorem latchClk_active (cs : List (BitVec 8)) : (latchClk s cs).active = s.active := by
  unfold latchClk; split <;> rfl
@[simp] theorem latchClk_agenda (cs : List (BitVec 8)) : (latchClk s cs).agenda = s.agenda := by
  unfold latchClk; split <;> rfl
@[simp] theorem latchClk_clk (cs : List (BitVec 8)) : (latchClk s cs).clk = s.clk := by
  unfold latchClk; split <;> rfl
@[simp] theorem latchClk_nfree (cs : List (BitVec 8)) : (latchClk s cs).nfree = s.nfree := by
  unfold latchClk; split <;> rfl
@[simp] theorem latchClk_crew (cs : List (BitVec 8)) : (latchClk s cs).crew = s.crew := by
  unfold latchClk; split <;> rfl
@[simp] theorem latchClk_frag (cs : List (BitVec 8)) : (latchClk s cs).frag = s.frag := by
  unfold latchClk; split <;> rfl
@[simp] theorem latchClk_wave_idx (cs : List (BitVec 8)) : (latchClk s cs).wave.idx = s.wave.idx := by
  unfold latchClk; split <;> rfl
@[simp] theorem latchClk_wave_slot (cs : List (BitVec 8)) : (latchClk s cs).wave.slot = s.wave.slot := by
  unfold latchClk; split <;> rfl
@[simp] theorem latchClk_wave_role (cs : List (BitVec 8)) : (latchClk s cs).wave.role = s.wave.role := by
  unfold latchClk; split <;> rfl
@[simp] theorem latchClk_wave_v (cs : List (BitVec 8)) : (latchClk s cs).wave.v = s.wave.v := by
  unfold latchClk; split <;> rfl
@[simp] theorem latchClk_wave_rng (cs : List (BitVec 8)) : (latchClk s cs).wave.rng = s.wave.rng := by
  unfold latchClk; split <;> rfl
@[simp] theorem latchClk_wave_s (cs : List (BitVec 8)) : (latchClk s cs).wave.s = s.wave.s := by
  unfold latchClk; split <;> rfl
@[simp] theorem latchClk_wave_m (cs : List (BitVec 8)) : (latchClk s cs).wave.m = s.wave.m := by
  unfold latchClk; split <;> rfl
@[simp] theorem latchClk_wave_flg (cs : List (BitVec 8)) : (latchClk s cs).wave.flg = s.wave.flg := by
  unfold latchClk; split <;> rfl
@[simp] theorem latchClk_wave_f (cs : List (BitVec 8)) : (latchClk s cs).wave.f = s.wave.f := by
  unfold latchClk; split <;> rfl
@[simp] theorem latchClk_wave_frags (cs : List (BitVec 8)) : (latchClk s cs).wave.frags = s.wave.frags := by
  unfold latchClk; split <;> rfl
@[simp] theorem latchClk_wave_joins (cs : List (BitVec 8)) : (latchClk s cs).wave.joins = s.wave.joins := by
  unfold latchClk; split <;> rfl
@[simp] theorem latchClk_wave_nextJoin (cs : List (BitVec 8)) : (latchClk s cs).wave.nextJoin = s.wave.nextJoin := by
  unfold latchClk; split <;> rfl
@[simp] theorem latchClk_wave_fspill (cs : List (BitVec 8)) : (latchClk s cs).wave.fspill = s.wave.fspill := by
  unfold latchClk; split <;> rfl
@[simp] theorem latchClk_wave_jspill (cs : List (BitVec 8)) : (latchClk s cs).wave.jspill = s.wave.jspill := by
  unfold latchClk; split <;> rfl
@[simp] theorem latchClk_wave_enrol (cs : List (BitVec 8)) : (latchClk s cs).wave.enrol = s.wave.enrol := by
  unfold latchClk; split <;> rfl
@[simp] theorem latchClk_wave_nb (cs : List (BitVec 8)) : (latchClk s cs).wave.nb = s.wave.nb := by
  unfold latchClk; split <;> rfl
@[simp] theorem latchClk_wave_unsealed (cs : List (BitVec 8)) : (latchClk s cs).wave.unsealed = s.wave.unsealed := by
  unfold latchClk; split <;> rfl
@[simp] theorem latchClk_wave_batches (cs : List (BitVec 8)) : (latchClk s cs).wave.batches = s.wave.batches := by
  unfold latchClk; split <;> rfl
@[simp] theorem latchClk_wave_fetchMark (cs : List (BitVec 8)) : (latchClk s cs).wave.fetchMark = s.wave.fetchMark := by
  unfold latchClk; split <;> rfl

@[simp] theorem latchClk_nil : latchClk s [] = s := rfl

end Sys2Proof.Machine
end

