-- ==== Sys2Proof/Laws/Tab.lean ====
section
/-! SUPPORT. Sparse tables: what a read gives after a write, that a write leaves every other key alone, and that the
canonical form is kept. -/

namespace Sys2Proof.Machine

variable {α : Type}

theorem tabGet_tabDel_same (d : α) (t : Tab α) (k : Nat) : tabGet d (tabDel t k) k = d := by
  induction t with
  | nil => rfl
  | cons p rest ih =>
    obtain ⟨j, v⟩ := p
    simp only [tabDel]
    split
    · exact ih
    · rename_i h; simp [tabGet, h, ih]

theorem tabGet_tabDel_other (d : α) (t : Tab α) {k j : Nat} (h : j ≠ k) :
    tabGet d (tabDel t k) j = tabGet d t j := by
  induction t with
  | nil => rfl
  | cons p rest ih =>
    obtain ⟨i, v⟩ := p
    simp only [tabDel]
    split
    · rename_i e; subst e; simp [tabGet, Ne.symm h, ih]
    · simp [tabGet, ih]

theorem tabGet_tabInsert_same (d : α) (t : Tab α) (k : Nat) (v : α) : tabGet d (tabInsert t k v) k = v := by
  induction t with
  | nil => simp [tabInsert, tabGet]
  | cons p rest ih =>
    obtain ⟨j, w⟩ := p
    simp only [tabInsert]
    split
    · simp [tabGet]
    · split
      · simp [tabGet]
      · rename_i h; simp [tabGet, Ne.symm h, ih]

theorem tabGet_tabInsert_other (d : α) (t : Tab α) {k j : Nat} (v : α) (h : j ≠ k) :
    tabGet d (tabInsert t k v) j = tabGet d t j := by
  induction t with
  | nil => simp [tabInsert, tabGet, Ne.symm h]
  | cons p rest ih =>
    obtain ⟨i, w⟩ := p
    simp only [tabInsert]
    split
    · simp [tabGet, Ne.symm h]
    · split
      · rename_i e; subst e; simp [tabGet, Ne.symm h]
      · simp [tabGet, ih]

variable [DecidableEq α]

/-- A read after a write to the same key gives the value written. -/
@[simp] theorem tabGet_tabSet_same (d : α) (t : Tab α) (k : Nat) (v : α) : tabGet d (tabSet d t k v) k = v := by
  unfold tabSet
  split
  · rename_i h; rw [tabGet_tabDel_same, h]
  · exact tabGet_tabInsert_same d t k v

/-- A write leaves every other key alone. -/
theorem tabGet_tabSet_other (d : α) (t : Tab α) {k j : Nat} (v : α) (h : j ≠ k) :
    tabGet d (tabSet d t k v) j = tabGet d t j := by
  unfold tabSet
  split
  · exact tabGet_tabDel_other d t h
  · exact tabGet_tabInsert_other d t v h

theorem tabGet_tabSet (d : α) (t : Tab α) (k j : Nat) (v : α) :
    tabGet d (tabSet d t k v) j = if j = k then v else tabGet d t j := by
  split
  · rename_i h; subst h; simp
  · rename_i h; exact tabGet_tabSet_other d t v h

/-! ### The canonical form -/

/-- The canonical form as a sorted list of entries that differ from the default. -/
theorem tabWf_iff (d : α) (t : Tab α) :
    tabWf d t = true ↔ t.Pairwise (fun p q => p.1 < q.1) ∧ ∀ p ∈ t, p.2 ≠ d := by
  induction t with
  | nil => simp [tabWf]
  | cons p rest ih =>
    obtain ⟨j, v⟩ := p
    cases rest with
    | nil => simp [tabWf]
    | cons q more =>
      obtain ⟨k, w⟩ := q
      simp only [tabWf, Bool.and_eq_true, decide_eq_true_eq, ih]
      constructor
      · rintro ⟨⟨hv, hjk⟩, hp, hd⟩
        refine ⟨List.pairwise_cons.2 ⟨?_, hp⟩, ?_⟩
        · intro r hr
          rcases List.mem_cons.1 hr with rfl | hr
          · exact hjk
          · exact Nat.lt_trans hjk ((List.pairwise_cons.1 hp).1 r hr)
        · intro r hr
          rcases List.mem_cons.1 hr with rfl | hr
          · exact hv
          · exact hd r hr
      · rintro ⟨hp, hd⟩
        have := List.pairwise_cons.1 hp
        exact ⟨⟨hd (j, v) (by simp), this.1 (k, w) (by simp)⟩, this.2, fun r hr => hd r (List.mem_cons_of_mem _ hr)⟩

omit [DecidableEq α] in
theorem tabDel_eq_filter (t : Tab α) (k : Nat) : tabDel t k = t.filter (fun p => decide (p.1 ≠ k)) := by
  induction t with
  | nil => rfl
  | cons p rest ih =>
    obtain ⟨j, v⟩ := p
    simp only [tabDel, List.filter_cons]
    split
    · rename_i h; simp [h, ih]
    · rename_i h; simp [h, ih]

/-- Dropping entries keeps the canonical form. -/
theorem tabWf_filter (d : α) (t : Tab α) (p : Nat × α → Bool) (h : tabWf d t = true) : tabWf d (t.filter p) = true := by
  rw [tabWf_iff] at *
  exact ⟨h.1.filter p, fun q hq => h.2 q (List.mem_of_mem_filter hq)⟩

theorem tabWf_tabDel (d : α) (t : Tab α) (k : Nat) (h : tabWf d t = true) : tabWf d (tabDel t k) = true := by
  rw [tabDel_eq_filter]; exact tabWf_filter d t _ h

omit [DecidableEq α] in
theorem mem_tabInsert (t : Tab α) (k : Nat) (v : α) (p : Nat × α) (h : p ∈ tabInsert t k v) : p = (k, v) ∨ p ∈ t := by
  induction t with
  | nil => simpa [tabInsert] using h
  | cons q rest ih =>
    obtain ⟨j, w⟩ := q
    simp only [tabInsert] at h
    split at h
    · simpa using h
    · split at h
      · rename_i e
        rcases List.mem_cons.1 h with h | h
        · exact .inl h
        · exact .inr (List.mem_cons_of_mem _ h)
      · rcases List.mem_cons.1 h with h | h
        · exact .inr (by simp [h])
        · exact (ih h).imp id (List.mem_cons_of_mem _)

theorem tabWf_tabInsert (d : α) (t : Tab α) (k : Nat) (v : α) (hv : v ≠ d) (h : tabWf d t = true) :
    tabWf d (tabInsert t k v) = true := by
  rw [tabWf_iff] at *
  obtain ⟨hp, hd⟩ := h
  constructor
  · clear hd
    induction t with
    | nil => simp [tabInsert]
    | cons q rest ih =>
      obtain ⟨j, w⟩ := q
      have hq := List.pairwise_cons.1 hp
      simp only [tabInsert]
      split
      · rename_i hkj
        refine List.pairwise_cons.2 ⟨?_, hp⟩
        intro r hr
        rcases List.mem_cons.1 hr with rfl | hr
        · exact hkj
        · exact Nat.lt_trans hkj (hq.1 r hr)
      · split
        · rename_i e; subst e
          exact List.pairwise_cons.2 ⟨hq.1, hq.2⟩
        · rename_i h1 h2
          refine List.pairwise_cons.2 ⟨?_, ih hq.2⟩
          intro r hr
          rcases mem_tabInsert rest k v r hr with rfl | hr
          · show j < k; omega
          · exact hq.1 r hr
  · intro p hp
    rcases mem_tabInsert t k v p hp with rfl | hp
    · exact hv
    · exact hd p hp

/-- A write keeps the canonical form. -/
theorem tabWf_tabSet (d : α) (t : Tab α) (k : Nat) (v : α) (h : tabWf d t = true) : tabWf d (tabSet d t k v) = true := by
  unfold tabSet
  split
  · exact tabWf_tabDel d t k h
  · exact tabWf_tabInsert d t k v ‹_› h

end Sys2Proof.Machine
end

