-- ==== Sys2Proof/Laws/Ops.lean ====
section
/-! SUPPORT. What each shared operation of the machine does, said once: the checks before an instruction's effect,
register reads after writes, and the effects of lane and scalar instructions. -/

namespace Sys2Proof.Machine

/-! ### The checks (R67, R72, R195) -/

theorem checked_admitted {i : Instr} {c : RoleClass} {s : State} (k : State → State) (h : Admitted i c s) :
    checked i c s k = .next (k (latchClk s (uniformCodes i))) := by
  obtain ⟨h1, h2⟩ := h
  unfold checked
  rcases h2 with h2 | h2 <;> simp [h1, h2]

theorem checked_illegal {i : Instr} {c : RoleClass} {s : State} (k : State → State) (h : legalHere s i = false) :
    checked i c s k = .next (takeTrap s 0x08 false) := by
  simp [checked, h]

theorem checked_role {i : Instr} {c : RoleClass} {s : State} (k : State → State) (h : legalHere s i = true)
    (ht : s.frag.trapMode = false) (hr : roleAllows s.wave.role c = false) :
    checked i c s k = .next (takeTrap s 0x10 false) := by
  simp [checked, h, ht, hr]

/-- Every path of the checks answers a next state. -/
theorem checked_next (i : Instr) (c : RoleClass) (s : State) (k : State → State) : ∃ t, checked i c s k = .next t := by
  unfold checked
  split
  · exact ⟨_, rfl⟩
  · split
    · exact ⟨_, rfl⟩
    · exact ⟨_, rfl⟩

theorem longLatency_admitted {i : Instr} {c : RoleClass} {s : State} (k : State → Nat → State) (h : Admitted i c s)
    (hf : flagOf s.wave (flagHere s.frag) < 63) :
    longLatency i c s k = .next (k (latchClk s (uniformCodes i)) (flagHere s.frag)) := by
  have hw : flagOf (latchClk s (uniformCodes i)).wave (flagHere s.frag) < 63 := by
    simpa [flagOf] using hf
  unfold longLatency
  rw [checked_admitted _ h]
  simp [Nat.not_le.2 hw]

theorem longLatency_full {i : Instr} {c : RoleClass} {s : State} (k : State → Nat → State) (h : Admitted i c s)
    (hf : 63 ≤ flagOf s.wave (flagHere s.frag)) :
    longLatency i c s k =
      .next (stall (latchClk s (uniformCodes i))) := by
  have hw : 63 ≤ flagOf (latchClk s (uniformCodes i)).wave (flagHere s.frag) := by
    simpa [flagOf] using hf
  unfold longLatency
  rw [checked_admitted _ h]
  simp [hw, stall]

/-! ### Lanes -/

theorem mem_laneList (e : Lanes) (l : Nat) : l ∈ laneList e ↔ l < 96 ∧ e.getLsbD l = true := by
  simp [laneList, laneCount]

theorem laneList_nodup (e : Lanes) : (laneList e).Nodup := List.nodup_range.filter _

/-! ### Registers after writes -/

theorem setLanes_get (v : Tab Word) (r : Nat) (f : Nat → Word) (ls : List Nat) (h : ∀ l ∈ ls, l < 96) (r' l' : Nat)
    (hl : l' < 96) :
    tabGet 0#32 (setLanes v r f ls) (96 * r' + l') = if r' = r ∧ l' ∈ ls then f l' else tabGet 0#32 v (96 * r' + l') := by
  unfold setLanes
  induction ls generalizing v with
  | nil => simp
  | cons a rest ih =>
    have ha := h a (by simp)
    rw [List.foldl_cons, ih _ (fun l hl => h l (List.mem_cons_of_mem _ hl)), tabGet_tabSet]
    by_cases hr : r' = r
    · subst hr
      by_cases e : l' = a
      · subst e; simp
      · simp [e]
    · have : ¬ (96 * r' + l' = 96 * r + a) := by omega
      simp [this, hr]

@[simp] theorem taintLanes_unmarked (ops : List Op) (w r : Nat) (ls : List Nat) :
    (taintLanes ops w r ls).map Op.unmarked = ops.map Op.unmarked := by
  unfold taintLanes
  rw [List.map_map]
  apply List.map_congr_left
  intro o _
  simp only [Function.comp]
  split <;> rfl

@[simp] theorem taintScalar_unmarked (ops : List Op) (w r : Nat) :
    (taintScalar ops w r).map Op.unmarked = ops.map Op.unmarked := by
  unfold taintScalar
  rw [List.map_map]
  apply List.map_congr_left
  intro o _
  simp only [Function.comp]
  split <;> rfl

theorem writeLanes_reg (s : State) (r : Nat) (ls : List Nat) (f : Nat → Word) (h : ∀ l ∈ ls, l < 96) (r' l' : Nat)
    (hl : l' < 96) :
    laneReg (writeLanes s r ls f) r' l' = if r' = r ∧ l' ∈ ls then f l' else laneReg s r' l' :=
  setLanes_get s.wave.v r f ls h r' l' hl

theorem writeS_reg (s : State) (r : Nat) (x : Word) (r' : Nat) :
    scalarReg (writeS s r x) r' = if r' = r then x else scalarReg s r' := by
  simp [scalarReg, writeS, tabGet_tabSet]

theorem writeM_mask (s : State) (k : Nat) (x : Lanes) (k' : Nat) :
    readM (writeM s k x) k' =
      if k' = k then (x &&& s.frag.lanes) ||| (readM s k &&& ~~~ s.frag.lanes) else readM s k' := by
  simp [readM, writeM, tabGet_tabSet]

theorem setRng_get (s : State) (ls : List (Nat × Word)) (l : Nat) :
    readRng (setRng s ls) l = match ls.reverse.find? (fun p => p.1 == l) with
      | some p => p.2
      | none => readRng s l := by
  simp only [readRng, setRng]
  induction ls using List.reverseRecOn with
  | nil => simp
  | append_singleton xs x ih =>
    rw [List.foldl_append, List.foldl_cons, List.foldl_nil, tabGet_tabSet, List.reverse_append]
    simp only [List.reverse_cons, List.reverse_nil, List.nil_append, List.singleton_append, List.find?_cons]
    by_cases e : l = x.1
    · simp [e]
    · simp [e, beq_eq_false_iff_ne.2 (Ne.symm e), ih]

/-! ### The effect of a lane instruction (R96, R97, R206) -/

theorem resultAt_map (g : Nat → LaneResult) (ls : List Nat) (l : Nat) (h : l ∈ ls) :
    resultAt (ls.map (fun k => (k, g k))) l = (g l).1 := by
  induction ls with
  | nil => simp at h
  | cons a rest ih =>
    simp only [List.map_cons, resultAt]
    by_cases e : a = l
    · simp [e]
    · have : l ∈ rest := by
        rcases List.mem_cons.1 h with h | h
        · exact absurd h.symm e
        · exact h
      simp [e, ih this]

theorem find_reverse_map (g : Nat → Word) (ls : List Nat) (l : Nat) :
    ((ls.map (fun k => (k, g k))).reverse.find? (fun p => p.1 == l)) = if l ∈ ls then some (l, g l) else none := by
  rw [← List.map_reverse, List.find?_map]
  have : ((fun p : Nat × Word => p.1 == l) ∘ fun k => (k, g k)) = fun k => k == l := rfl
  rw [this]
  by_cases h : l ∈ ls
  · have hm : l ∈ ls.reverse := by simpa using h
    have : ls.reverse.find? (fun k => k == l) = some l := by
      cases hf : ls.reverse.find? (fun k => k == l) with
      | none => exact absurd (by simp) (List.find?_eq_none.1 hf l hm)
      | some x => have := List.find?_some hf; simp at this; simp [this]
    simp [this, h]
  · have : ls.reverse.find? (fun k => k == l) = none := by
      rw [List.find?_eq_none]
      intro x hx
      simp only [List.mem_reverse] at hx
      intro e
      simp only [beq_iff_eq] at e
      exact h (e ▸ hx)
    simp [this, h]

/-- The state of a lane instruction between its writes and the end of finishFlags. -/
def laneWritten (s : State) (r : Nat) (f : Nat → Word → LaneResult) : State :=
  let rs := laneResults s f
  setRng (writeLanes s r (rs.map Prod.fst) (resultAt rs)) (rs.map (fun p => (p.1, p.2.2.2)))

theorem laneEffect_eq (s : State) (r : Nat) (f : Nat → Word → LaneResult) :
    laneEffect s r f = finishFlags (laneWritten s r f) (laneFlags s f) := rfl

/-- The control words lie in the device: no register update reaches them. -/
theorem ctxWord_of_dev {s t : State} (hd : t.dev = s.dev) (hc : t.crew.ctx = s.crew.ctx) (n : Nat) :
    ctxWord t n = ctxWord s n := by
  simp [ctxWord, hd, hc]

theorem finishFlags_quiet {s : State} {fl : Flags} (h : ¬ trapsOn s fl) : finishFlags s fl = advance (commitFlags s fl) := by
  simp only [trapsOn, ne_eq, not_not] at h
  simp [finishFlags, h]

theorem finishFlags_trap {s : State} {fl : Flags} (h : trapsOn s fl) :
    finishFlags s fl = takeTrap (commitFlags s fl) 0x0B true := by
  simp only [trapsOn] at h
  simp [finishFlags, h]

theorem laneWritten_outcome (s : State) (r : Nat) (f : Nat → Word → LaneResult) (fl : Flags) :
    LaneOutcome s (commitFlags (laneWritten s r f) fl) r [] (fun l => (f l (readRng s l)).1)
      (fun l => (f l (readRng s l)).2.2) fl := by
  have hfst : (laneResults s f).map Prod.fst = laneList s.frag.exec := by
    simp [laneResults, Function.comp_def]
  have hlt : ∀ l ∈ laneList s.frag.exec, l < 96 := fun l hl => ((mem_laneList _ _).1 hl).1
  have hv : ∀ r' l', l' < 96 → laneReg (commitFlags (laneWritten s r f) fl) r' l' =
      if r' = r ∧ l' ∈ laneList s.frag.exec then resultAt (laneResults s f) l' else laneReg s r' l' := by
    intro r' l' hl'
    have := writeLanes_reg s r (laneList s.frag.exec) (resultAt (laneResults s f)) hlt r' l' hl'
    simpa [laneReg, laneWritten, hfst] using this
  have hg : ∀ l, readRng (commitFlags (laneWritten s r f) fl) l =
      if l ∈ laneList s.frag.exec then (f l (readRng s l)).2.2 else readRng s l := by
    intro l
    have := setRng_get (writeLanes s r ((laneResults s f).map Prod.fst) (resultAt (laneResults s f)))
      ((laneResults s f).map (fun p => (p.1, p.2.2.2))) l
    have hm : (laneResults s f).map (fun p => (p.1, p.2.2.2)) =
        (laneList s.frag.exec).map (fun k => (k, (f k (readRng s k)).2.2)) := by
      simp [laneResults, Function.comp_def]
    rw [hm, find_reverse_map] at this
    simp only [laneWritten, hm]
    rw [show readRng (commitFlags (setRng (writeLanes s r ((laneResults s f).map Prod.fst) (resultAt (laneResults s f)))
      ((laneList s.frag.exec).map (fun k => (k, (f k (readRng s k)).2.2)))) fl) l = _ from this]
    split <;> rename_i h
    · split at h
      · rename_i hl; simp at h; simp [hl, ← h]
      · simp at h
    · split at h
      · simp at h
      · rename_i hl; simp [hl, readRng]
  refine ⟨⟨rfl, fun _ => rfl, ⟨rfl, rfl, rfl, rfl⟩, ?_, rfl, rfl⟩, ?_, ?_, ?_, ?_, ?_, rfl, rfl⟩
  · exact taintLanes_unmarked _ _ _ _
  · intro l hl
    rw [hv r l hl]
    by_cases he : s.frag.exec.getLsbD l
    · have hm : l ∈ laneList s.frag.exec := (mem_laneList _ _).2 ⟨hl, he⟩
      rw [if_pos ⟨rfl, hm⟩, if_pos he]
      exact resultAt_map (fun k => f k (readRng s k)) _ l hm
    · have hm : l ∉ laneList s.frag.exec := fun h => he ((mem_laneList _ _).1 h).2
      rw [if_neg (fun h => hm h.2), if_neg he]
  · intro r' l hl hr
    rw [hv r' l hl, if_neg]
    intro h; exact hr (by simp [h.1])
  · intro _ _; rfl
  · intro _ _; rfl
  · intro l hl
    rw [hg l]
    by_cases he : s.frag.exec.getLsbD l
    · simp [(mem_laneList s.frag.exec l).2 ⟨hl, he⟩, he]
    · have hm : l ∉ laneList s.frag.exec := fun h => he ((mem_laneList _ _).1 h).2
      simp [hm, he]

/-- R97, R110: the traps enabled are those of the context, whatever registers have been written. -/
theorem trapsOn_laneWritten (s : State) (r : Nat) (f : Nat → Word → LaneResult) (fl : Flags) :
    trapsOn (laneWritten s r f) fl ↔ trapsOn s fl := Iff.rfl

/-- A lane instruction whose flags no trap is enabled for. -/
theorem laneEffect_quiet (s : State) (r : Nat) (f : Nat → Word → LaneResult) (h : ¬ trapsOn s (laneFlags s f)) :
    LaneOutcome s (laneEffect s r f) r [] (fun l => (f l (readRng s l)).1) (fun l => (f l (readRng s l)).2.2)
      (laneFlags s f) ∧ GoesOn s (laneEffect s r f) := by
  rw [laneEffect_eq, finishFlags_quiet ((trapsOn_laneWritten s r f _).not.2 h)]
  have o := laneWritten_outcome s r f (laneFlags s f)
  exact ⟨⟨⟨o.kept.dev, o.kept.memory, o.kept.outside, o.kept.ops, o.kept.crew, o.kept.wave⟩, o.written, o.lanes, o.scalars,
    o.masks, o.gens, o.flags, o.clock⟩, rfl⟩

/-- A lane instruction whose flags take the arithmetic trap: its results and flags stand as the trap is taken. -/
theorem laneEffect_trap (s : State) (r : Nat) (f : Nat → Word → LaneResult) (h : trapsOn s (laneFlags s f)) :
    ∃ u, laneEffect s r f = takeTrap u 0x0B true ∧ u.frag = s.frag ∧
      LaneOutcome s u r [] (fun l => (f l (readRng s l)).1) (fun l => (f l (readRng s l)).2.2) (laneFlags s f) := by
  refine ⟨_, ?_, ?_, laneWritten_outcome s r f (laneFlags s f)⟩
  · rw [laneEffect_eq, finishFlags_trap ((trapsOn_laneWritten s r f _).2 h)]
  · rfl

/-! ### The effect of a scalar instruction (R61, R62) -/

theorem tabGet_flg (s : State) (x : Word) (fl : Flags) :
    (commitFlags { s with wave := { s.wave with flg := x } } fl).wave.flg = x ||| fl.setWidth 32 := rfl

theorem writeScalarDst_outcome (s : State) (d : BitVec 8) (x : Word) (fl : Flags) (hd : 0x80 ≤ d.toNat) (hd' : d.toNat < 0xC0 ∨
    (0xE4 ≤ d.toNat ∧ d.toNat ≤ 0xE8)) :
    ScalarOutcome s (commitFlags (writeScalarDst s d x) fl) d [] x fl := by
  have hcases : d.toNat < 0xC0 ∨ d.toNat = 0xE4 ∨ d.toNat = 0xE5 ∨ d.toNat = 0xE6 ∨ d.toNat = 0xE7 ∨ d.toNat = 0xE8 := by
    omega
  rcases hcases with h | h | h | h | h | h
  · have e : writeScalarDst s d x = writeS s (d.toNat - 0x80) x := by simp [writeScalarDst, h]
    rw [e]
    have n1 : ¬ (0xE4 ≤ d.toNat ∧ d.toNat ≤ 0xE6) := by omega
    have n2 : ¬ d.toNat = 0xE7 := by omega
    have n3 : ¬ d.toNat = 0xE8 := by omega
    refine ⟨⟨rfl, fun _ => rfl, ⟨rfl, rfl, rfl, rfl⟩, taintScalar_unmarked _ _ _, rfl, rfl⟩, fun _ _ _ _ => rfl, ?_, ?_,
      fun _ _ => rfl, fun _ => rfl, by simp [n1], by simp [n2], ?_, rfl⟩
    · intro r hr
      rw [if_pos h] at hr
      have := writeS_reg s (d.toNat - 0x80) x r
      rw [if_neg (by simpa using hr)] at this
      exact this
    · intro _
      have := writeS_reg s (d.toNat - 0x80) x (d.toNat - 0x80)
      rw [if_pos rfl] at this
      exact this
    · rw [if_neg n3]; rfl
  all_goals
    have e : ¬ d.toNat < 0xC0 := by omega
    refine ⟨⟨?_, ?_, ?_, ?_, ?_, ?_⟩, ?_, ?_, ?_, ?_, ?_, ?_, ?_, ?_, ?_⟩ <;>
    simp [writeScalarDst, h, writeExec, execWith, SameLanes, SameScalars, SameMasks, SameGenerators, ClockRead, laneReg,
      scalarReg, readM, readRng, commitFlags, byteAt, latchClk]

theorem pastParcels_with (f : Frag) (n clk : Nat) (e : Lanes) (m : Word) :
    pastParcels { f with exec := e, fmt := m } n clk = { pastParcels f n clk with exec := e, fmt := m } := by
  unfold pastParcels
  dsimp only
  split <;> rfl

theorem pastParcels_restore (f : Frag) (n clk : Nat) (e : Lanes) (m : Word) :
    { ({ pastParcels f n clk with exec := e, fmt := m } : Frag) with exec := f.exec, fmt := f.fmt } =
      pastParcels f n clk := by
  unfold pastParcels
  split <;> rfl

/-- A scalar destination changes at most EXEC and FMT of the fragment. -/
theorem writeScalarDst_frag (s : State) (d : BitVec 8) (x : Word) :
    ∃ e m, (writeScalarDst s d x).frag = { s.frag with exec := e, fmt := m } := by
  unfold writeScalarDst
  dsimp only
  split_ifs
  · exact ⟨s.frag.exec, s.frag.fmt, rfl⟩
  · exact ⟨_, s.frag.fmt, rfl⟩
  · exact ⟨_, s.frag.fmt, rfl⟩
  · exact ⟨_, s.frag.fmt, rfl⟩
  · exact ⟨s.frag.exec, _, rfl⟩
  · exact ⟨s.frag.exec, s.frag.fmt, rfl⟩

/-- A scalar instruction that takes no arithmetic trap. -/
theorem scalarEffect_quiet (s : State) (d : BitVec 8) (r : LaneResult) (hd : 0x80 ≤ d.toNat) (hd' : d.toNat < 0xC0 ∨
    (0xE4 ≤ d.toNat ∧ d.toNat ≤ 0xE8)) (h : ¬ trapsOn s r.2.1) :
    ScalarOutcome s (scalarEffect s d r) d [] r.1 r.2.1 ∧ GoesOnBut s (scalarEffect s d r) := by
  have hq : ¬ trapsOn (writeScalarDst s d r.1) r.2.1 := by
    have : trapsOn (writeScalarDst s d r.1) r.2.1 ↔ trapsOn s r.2.1 := by
      unfold writeScalarDst; dsimp only; split_ifs <;> rfl
    rwa [this]
  have e : scalarEffect s d r = advance (commitFlags (writeScalarDst s d r.1) r.2.1) := by
    rw [scalarEffect, finishFlags_quiet hq]
  have o := writeScalarDst_outcome s d r.1 r.2.1 hd hd'
  rw [e]
  refine ⟨⟨⟨o.kept.dev, o.kept.memory, o.kept.outside, o.kept.ops, o.kept.crew, o.kept.wave⟩, o.lanes, o.scalars, o.written,
    o.masks, o.gens, ?_, ?_, o.flags, o.clock⟩, ?_⟩
  · simpa using o.exec
  · simpa using o.fmt
  · obtain ⟨e, m, hf⟩ := writeScalarDst_frag s d r.1
    have hc : (commitFlags (writeScalarDst s d r.1) r.2.1).clk = s.clk := by
      simp only [commitFlags_clk]; unfold writeScalarDst; dsimp only; split_ifs <;> rfl
    unfold GoesOnBut
    rw [advance_frag, commitFlags_frag, hc, hf]
    simp only [curParcels]
    rw [pastParcels_with, pastParcels_restore]

/-! ### F3 instructions by their destination (R61, R206) -/

theorem Kept.after_latch {s t : State} {cs : List (BitVec 8)} (h : Kept (latchClk s cs) t) : Kept s t := by
  obtain ⟨h1, h2, h3, h4, h5, h6⟩ := h
  refine ⟨by simpa using h1, by simpa using h2, by simpa using h3, by simpa using h4, by simpa using h5, ?_⟩
  rw [h6]
  unfold latchClk
  split <;> rfl

theorem ClockRead.after_latch {s t : State} {cs : List (BitVec 8)} (h : ClockRead (latchClk s cs) t []) :
    ClockRead s t cs := h

theorem LaneOutcome.after_latch {s t : State} {d : Nat} {cs : List (BitVec 8)} {val gen : Nat → Word} {fl : Flags}
    (h : LaneOutcome (latchClk s cs) t d [] val gen fl) : LaneOutcome s t d cs val gen fl := by
  obtain ⟨h1, h2, h3, h4, h5, h6, h7, h8⟩ := h
  refine ⟨h1.after_latch, ?_, ?_, ?_, ?_, ?_, ?_, h8.after_latch⟩
  · simpa [laneReg] using h2
  · simpa [SameLanes, laneReg] using h3
  · simpa [SameScalars, scalarReg] using h4
  · simpa [SameMasks, readM] using h5
  · simpa [readRng] using h6
  · simpa using h7

theorem ScalarOutcome.after_latch {s t : State} {d : BitVec 8} {cs : List (BitVec 8)} {x : Word} {fl : Flags}
    (h : ScalarOutcome (latchClk s cs) t d [] x fl) : ScalarOutcome s t d cs x fl := by
  obtain ⟨h1, h2, h3, h4, h5, h6, h7, h8, h9, h10⟩ := h
  refine ⟨h1.after_latch, ?_, ?_, h4, ?_, ?_, ?_, ?_, ?_, h10.after_latch⟩
  · simpa [SameLanes, laneReg] using h2
  · simpa [SameScalars, scalarReg] using h3
  · simpa [SameMasks, readM] using h5
  · simpa [SameGenerators, readRng] using h6
  · simpa using h7
  · simpa using h8
  · simpa using h9

theorem laneDst_of {d : BitVec 8} (h : d.toNat < 0x80) : scalarDst d = false := by
  simp [scalarDst]; omega

theorem scalarDst_range {d : BitVec 8} (h : scalarDst d = true) :
    0x80 ≤ d.toNat ∧ (d.toNat < 0xC0 ∨ (0xE4 ≤ d.toNat ∧ d.toNat ≤ 0xE8)) := by
  simp [scalarDst] at h; omega

/-- The class of an F3 instruction with a lane destination. -/
theorem classByDst_lanes {d : BitVec 8} (h : d.toNat < 0x80) : classByDst d = .laneArith := by
  simp [classByDst, laneDst_of h]

theorem classByDst_scalar {d : BitVec 8} (h : scalarDst d = true) : classByDst d = .control := by
  simp [classByDst, h]

theorem trapsOn_latch (s : State) (cs : List (BitVec 8)) (fl : Flags) : trapsOn (latchClk s cs) fl ↔ trapsOn s fl := by
  have : fptrap (latchClk s cs) = fptrap s := by
    simp [fptrap, ctxWord]
  simp [trapsOn, this]

/-- What an F3 instruction with a lane destination does when no enabled flag is raised. -/
theorem f3Effect_lanes (s : State) (codes : List (BitVec 8)) (d : BitVec 8) (f : State → Bool → Nat → Word → LaneResult)
    (hd : d.toNat < 0x80) (h : ¬ trapsOn s (laneFlags (latchClk s codes) (f (latchClk s codes) false))) :
    let u := latchClk s codes
    LaneOutcome s (f3Effect s codes d f) d.toNat codes (fun l => (f u false l (readRng s l)).1)
      (fun l => (f u false l (readRng s l)).2.2) (laneFlags u (f u false)) ∧ GoesOn s (f3Effect s codes d f) := by
  intro u
  have e : f3Effect s codes d f = laneEffect u d.toNat (f u false) := by
    simp [f3Effect, laneDst_of hd, u]
  have hr : readRng u = readRng s := by funext l; simp [readRng, u]
  obtain ⟨o, g⟩ := laneEffect_quiet u d.toNat (f u false) ((trapsOn_latch s codes _).not.2 h)
  rw [e]
  rw [hr] at o
  refine ⟨o.after_latch, ?_⟩
  simpa [GoesOn, u] using g

/-- What an F3 instruction with a lane destination does when an enabled flag is raised (R97). -/
theorem f3Effect_lanes_trap (s : State) (codes : List (BitVec 8)) (d : BitVec 8)
    (f : State → Bool → Nat → Word → LaneResult) (hd : d.toNat < 0x80)
    (h : trapsOn s (laneFlags (latchClk s codes) (f (latchClk s codes) false))) :
    let u := latchClk s codes
    ∃ t, f3Effect s codes d f = takeTrap t 0x0B true ∧ t.frag = s.frag ∧
      LaneOutcome s t d.toNat codes (fun l => (f u false l (readRng s l)).1)
        (fun l => (f u false l (readRng s l)).2.2) (laneFlags u (f u false)) := by
  intro u
  have e : f3Effect s codes d f = laneEffect u d.toNat (f u false) := by
    simp [f3Effect, laneDst_of hd, u]
  have hr : readRng u = readRng s := by funext l; simp [readRng, u]
  obtain ⟨t, e', hf, o⟩ := laneEffect_trap u d.toNat (f u false) ((trapsOn_latch s codes _).2 h)
  rw [hr] at o
  exact ⟨t, e.trans e', by simpa [u] using hf, o.after_latch⟩

/-- What an F3 instruction with a scalar destination does when no enabled flag is raised. -/
theorem f3Effect_scalar (s : State) (codes : List (BitVec 8)) (d : BitVec 8) (f : State → Bool → Nat → Word → LaneResult)
    (hd : scalarDst d = true) (ha : dstAccepts d (f (latchClk s codes) true 0 0#32).1 = true)
    (h : ¬ trapsOn s (f (latchClk s codes) true 0 0#32).2.1) :
    let r := f (latchClk s codes) true 0 0#32
    ScalarOutcome s (f3Effect s codes d f) d codes r.1 r.2.1 ∧ GoesOnBut s (f3Effect s codes d f) := by
  intro r
  have e : f3Effect s codes d f = scalarEffect (latchClk s codes) d r := by
    simp [f3Effect, hd, r, ha]
  obtain ⟨h1, h2⟩ := scalarDst_range hd
  obtain ⟨o, g⟩ := scalarEffect_quiet (latchClk s codes) d r h1 h2 ((trapsOn_latch s codes _).not.2 h)
  rw [e]
  refine ⟨o.after_latch, ?_⟩
  simpa [GoesOnBut] using g

/-- No lane raises a flag. -/
theorem laneFlags_none (s : State) (f : Nat → Word → LaneResult) (h : ∀ l g, (f l g).2.1 = 0) : laneFlags s f = 0 := by
  unfold laneFlags resultFlags laneResults
  generalize laneList s.frag.exec = ls
  induction ls with
  | nil => rfl
  | cons a rest ih =>
    simp only [List.map_cons, List.foldl_cons, h]
    simpa using ih

@[simp] theorem trapsOn_zero (s : State) : ¬ trapsOn s 0 := by simp [trapsOn]

end Sys2Proof.Machine
end

