-- ==== Sys2Proof/Laws/Issue.lean ====
section
/-! SUPPORT. The issue of a long-latency instruction: what it leaves, said once for every issue. -/

namespace Sys2Proof.Machine

theorem flagOf_flagUp (w : Wave) (g k : Nat) : flagOf (flagUp w g) k = flagOf w k + if k = g then 1 else 0 := by
  simp only [flagOf, flagUp, tabGet_tabSet]
  split
  · rename_i h; subst h; rfl
  · rfl

/-- An operation as newOp makes it but for what the instruction adds to it. -/
structure Op.Fresh (s : State) (o : Op) : Prop where
  named : o.id = s.crew.nextOp ∧ o.wave = s.wave.idx ∧ o.frag = s.frag.id ∧ o.flag = some (flagHere s.frag) ∧
    o.insn = curWord s.frag ∧ o.fmt = s.frag.fmt ∧ o.clause = s.frag.clause ∧ o.parcel = pcParcel s.frag ∧
    o.status = .inflight

theorem issueOp_issued (s : State) (o : Op) (h : o.Fresh s) : Issued s (issueOp s o) o := by
  have hf : o.flag = some (flagHere s.frag) := h.named.2.2.2.1
  unfold issueOp
  rw [hf]
  exact ⟨rfl, h.named, fun k => flagOf_flagUp s.wave _ k, rfl, rfl, rfl, fun _ => rfl, rfl, rfl, rfl, rfl⟩

/-- Issuing in a state whose device has changed without a change of memory, and whose clock latch was read. -/
theorem Issued.of_latched {s u t : State} {o : Op} (h : Issued u t o) (hw : { u.wave with clkHi := none } = { s.wave with clkHi := none })
    (hc : u.crew = s.crew) (hf : u.frag = s.frag) (hm : ∀ a, byteAt u.dev a = byteAt s.dev a)
    (ho : u.active = s.active ∧ u.agenda = s.agenda ∧ u.clk = s.clk ∧ u.nfree = s.nfree) : Issued s t o := by
  obtain ⟨h1, h2, h3, h4, h5, h6, h7, h8⟩ := h
  have hi : u.wave.idx = s.wave.idx := by injections
  have hfl : u.wave.f = s.wave.f := by injections
  have e4 : { u.wave with f := [], clkHi := none } = { s.wave with f := [], clkHi := none } := by
    injections; simp_all
  rw [hc, hf, hi] at h2
  exact ⟨by rw [h1, hc], h2, fun k => by rw [h3, hf]; simp [flagOf, hfl], h4.trans e4, by rw [h5, hc],
    by rw [GoesOn, h6, hf, ho.2.2.1], fun a => (h7 a).trans (hm a),
    ⟨h8.1.trans ho.1, h8.2.1.trans ho.2.1, h8.2.2.1.trans ho.2.2.1, h8.2.2.2.trans ho.2.2.2⟩⟩

end Sys2Proof.Machine
end

