-- ==== Sys2Proof/Laws/Memory.lean ====
section
/-! SUPPORT. Memory: a byte read after it is written, every other byte kept, and the canonical form kept by every
operation that changes a byte. -/

namespace Sys2Proof.Machine

/-! ### Reset -/

theorem reset_memory_wf : Memory.wf State.reset.dev.mem = true := rfl

@[simp] theorem reset_byteAt (pa : Nat) : byteAt State.reset.dev pa = 0#8 := rfl

/-! ### A byte -/

@[simp] theorem putByte_byteAt_same (d : Dev) (pa : Nat) (b : Byte) : byteAt (putByte d pa b) pa = b := by
  simp [byteAt, putByte]

theorem putByte_byteAt_other (d : Dev) (pa : Nat) (b : Byte) {a : Nat} (h : a ≠ pa) :
    byteAt (putByte d pa b) a = byteAt d a := by
  simp [byteAt, putByte, tabGet_tabSet_other _ _ _ h]

theorem putByte_wf (d : Dev) (pa : Nat) (b : Byte) (h : Memory.wf d.mem = true) : Memory.wf (putByte d pa b).mem = true :=
  tabWf_tabSet _ _ _ _ h

@[simp] theorem putByte_poison (d : Dev) (pa : Nat) (b : Byte) : (putByte d pa b).poison = d.poison := rfl
@[simp] theorem putByte_host (d : Dev) (pa : Nat) (b : Byte) : (putByte d pa b).host = d.host := rfl

@[simp] theorem putByte_linePoisoned (d : Dev) (pa : Nat) (b : Byte) (line : Nat) :
    linePoisoned (putByte d pa b) line = linePoisoned d line := rfl

theorem storeByte_byteAt (key : Nat) (d : Dev) (pa : Nat) (b : Byte) (a : Nat) :
    byteAt (storeByte key d pa b) a = if linePoisoned d (pa / 128) = false ∧ a = pa then b else byteAt d a := by
  unfold storeByte
  cases hp : linePoisoned d (pa / 128)
  · by_cases ha : a = pa
    · subst ha
      cases hc : paClass a == 0 <;> simp [byteAt, putByte]
    · cases hc : paClass pa == 0 <;> simp [ha, byteAt, putByte, tabGet_tabSet_other _ _ _ ha]
  · simp

theorem storeByte_wf (key : Nat) (d : Dev) (pa : Nat) (b : Byte) (h : Memory.wf d.mem = true) :
    Memory.wf (storeByte key d pa b).mem = true := by
  unfold storeByte
  split
  · exact h
  · simp only
    split <;> exact putByte_wf d pa b h

theorem storeByte_linePoisoned (key : Nat) (d : Dev) (pa : Nat) (b : Byte) (line : Nat) :
    linePoisoned (storeByte key d pa b) line = linePoisoned d line := by
  unfold storeByte
  split
  · rfl
  · simp only
    split <;> rfl

/-! ### Bytes -/

theorem storeBytes_linePoisoned (key : Nat) (bs : List Byte) (d : Dev) (pa line : Nat) :
    linePoisoned (storeBytes key d pa bs) line = linePoisoned d line := by
  induction bs generalizing d pa with
  | nil => rfl
  | cons b bs ih => rw [storeBytes, ih, storeByte_linePoisoned]

theorem storeBytes_wf (key : Nat) (bs : List Byte) (d : Dev) (pa : Nat) (h : Memory.wf d.mem = true) :
    Memory.wf (storeBytes key d pa bs).mem = true := by
  induction bs generalizing d pa with
  | nil => exact h
  | cons b bs ih => exact ih _ _ (storeByte_wf key d pa b h)

theorem storeBytes_byteAt_outside (key : Nat) (bs : List Byte) (d : Dev) (pa a : Nat) (h : a < pa ∨ pa + bs.length ≤ a) :
    byteAt (storeBytes key d pa bs) a = byteAt d a := by
  induction bs generalizing d pa with
  | nil => rfl
  | cons b bs ih =>
    simp only [List.length_cons] at h
    rw [storeBytes, ih _ _ (by omega), storeByte_byteAt, if_neg (by omega)]

theorem storeBytes_byteAt_inside (key : Nat) (bs : List Byte) (d : Dev) (pa i : Nat) (hi : i < bs.length)
    (hp : linePoisoned d ((pa + i) / 128) = false) : byteAt (storeBytes key d pa bs) (pa + i) = bs[i] := by
  induction bs generalizing d pa i with
  | nil => simp at hi
  | cons b bs ih =>
    cases i with
    | zero =>
      rw [storeBytes, storeBytes_byteAt_outside _ _ _ _ _ (by omega), storeByte_byteAt]
      simp_all
    | succ i =>
      have := ih (storeByte key d pa b) (pa + 1) i (by simpa using hi)
        (by rw [storeByte_linePoisoned]; rwa [show pa + 1 + i = pa + (i + 1) by omega])
      rw [storeBytes, show pa + (i + 1) = pa + 1 + i by omega, this]
      simp

/-! ### The other operations that change bytes keep the canonical form -/

theorem hostByte_wf (d : Dev) (pa : Nat) (b : Byte) (h : Memory.wf d.mem = true) : Memory.wf (hostByte d pa b).mem = true := by
  unfold hostByte
  split
  · exact h
  · exact putByte_wf d pa b h

theorem hostBytes_wf (bs : List Byte) (d : Dev) (pa : Nat) (h : Memory.wf d.mem = true) :
    Memory.wf (hostBytes d pa bs).mem = true := by
  induction bs generalizing d pa with
  | nil => exact h
  | cons b bs ih => exact ih _ _ (hostByte_wf d pa b h)

theorem foldl_dev_wf {α : Type} (f : Dev → α → Dev) (hf : ∀ d x, Memory.wf d.mem = true → Memory.wf (f d x).mem = true)
    (l : List α) (d : Dev) (h : Memory.wf d.mem = true) : Memory.wf (l.foldl f d).mem = true := by
  induction l generalizing d with
  | nil => exact h
  | cons x l ih => exact ih _ (hf _ _ h)

theorem clearLine_wf (d : Dev) (line : Nat) (h : Memory.wf d.mem = true) : Memory.wf (clearLine d line).mem = true :=
  foldl_dev_wf _ (fun _ _ h => putByte_wf _ _ _ h) _ _ h

theorem clearLines_wf (d : Dev) (page : Nat) (ls : List Nat) (h : Memory.wf d.mem = true) :
    Memory.wf (clearLines d page ls).mem = true :=
  foldl_dev_wf _ (fun _ _ h => clearLine_wf _ _ h) _ _ h

theorem rekeyLine_wf (old new : List DWord) (d : Dev) (line : Nat) (h : Memory.wf d.mem = true) :
    Memory.wf (rekeyLine old new d line).mem = true :=
  foldl_dev_wf (fun (d : Dev) (e : Byte × Nat) => putByte d (128 * line + e.2) e.1) (fun _ _ h => putByte_wf _ _ _ h) _ d h

theorem rekeyLines_wf (d : Dev) (k : Nat) (old new : List DWord) (h : Memory.wf d.mem = true) :
    Memory.wf (rekeyLines d k old new).mem = true :=
  foldl_dev_wf _ (fun _ _ h => rekeyLine_wf old new _ _ h) _ _ h

theorem forgetKeys_wf (d : Dev) (h : Memory.wf d.mem = true) : Memory.wf (forgetKeys d).mem = true :=
  foldl_dev_wf _ (fun _ _ h => rekeyLines_wf _ _ _ _ h) _ _ h

theorem resetDev_wf (d : Dev) (h : Memory.wf d.mem = true) : Memory.wf (resetDev d).mem = true := by
  unfold resetDev
  exact tabWf_filter _ _ _ (forgetKeys_wf d h)

end Sys2Proof.Machine
end

