-- ==== Sys2Proof/Laws/Stow.lean ====
section
/-! SUPPORT. What putting the focus back leaves as it was: all of the device but its crews, and the state outside. -/

namespace Sys2Proof.Machine

@[simp] theorem stow_dev_mem (s : State) : (stow s).dev.mem = s.dev.mem := by unfold stow putBack; split <;> rfl
@[simp] theorem stow_dev_contexts (s : State) : (stow s).dev.contexts = s.dev.contexts := by unfold stow putBack; split <;> rfl
@[simp] theorem stow_dev_tagGen (s : State) : (stow s).dev.tagGen = s.dev.tagGen := by unfold stow putBack; split <;> rfl
@[simp] theorem stow_dev_wraps (s : State) : (stow s).dev.wraps = s.dev.wraps := by unfold stow putBack; split <;> rfl
@[simp] theorem stow_dev_tlb (s : State) : (stow s).dev.tlb = s.dev.tlb := by unfold stow putBack; split <;> rfl
@[simp] theorem stow_dev_atsReqs (s : State) : (stow s).dev.atsReqs = s.dev.atsReqs := by unfold stow putBack; split <;> rfl
@[simp] theorem stow_dev_atsDenied (s : State) : (stow s).dev.atsDenied = s.dev.atsDenied := by unfold stow putBack; split <;> rfl
@[simp] theorem stow_dev_nextAts (s : State) : (stow s).dev.nextAts = s.dev.nextAts := by unfold stow putBack; split <;> rfl
@[simp] theorem stow_dev_missing (s : State) : (stow s).dev.missing = s.dev.missing := by unfold stow putBack; split <;> rfl
@[simp] theorem stow_dev_groups (s : State) : (stow s).dev.groups = s.dev.groups := by unfold stow putBack; split <;> rfl
@[simp] theorem stow_dev_invals (s : State) : (stow s).dev.invals = s.dev.invals := by unfold stow putBack; split <;> rfl
@[simp] theorem stow_dev_nextInv (s : State) : (stow s).dev.nextInv = s.dev.nextInv := by unfold stow putBack; split <;> rfl
@[simp] theorem stow_dev_walks (s : State) : (stow s).dev.walks = s.dev.walks := by unfold stow putBack; split <;> rfl
@[simp] theorem stow_dev_lineKey (s : State) : (stow s).dev.lineKey = s.dev.lineKey := by unfold stow putBack; split <;> rfl
@[simp] theorem stow_dev_sealed (s : State) : (stow s).dev.sealed = s.dev.sealed := by unfold stow putBack; split <;> rfl
@[simp] theorem stow_dev_poison (s : State) : (stow s).dev.poison = s.dev.poison := by unfold stow putBack; split <;> rfl
@[simp] theorem stow_dev_decs (s : State) : (stow s).dev.decs = s.dev.decs := by unfold stow putBack; split <;> rfl
@[simp] theorem stow_dev_ports (s : State) : (stow s).dev.ports = s.dev.ports := by unfold stow putBack; split <;> rfl
@[simp] theorem stow_dev_pc (s : State) : (stow s).dev.pc = s.dev.pc := by unfold stow putBack; split <;> rfl
@[simp] theorem stow_dev_plat (s : State) : (stow s).dev.plat = s.dev.plat := by unfold stow putBack; split <;> rfl
@[simp] theorem stow_dev_decRefused (s : State) : (stow s).dev.decRefused = s.dev.decRefused := by unfold stow putBack; split <;> rfl
@[simp] theorem stow_dev_host (s : State) : (stow s).dev.host = s.dev.host := by unfold stow putBack; split <;> rfl
@[simp] theorem stow_dev_priv (s : State) : (stow s).dev.priv = s.dev.priv := by unfold stow putBack; split <;> rfl
@[simp] theorem stow_dev_hist (s : State) : (stow s).dev.hist = s.dev.hist := by unfold stow putBack; split <;> rfl
@[simp] theorem stow_dev_histSeq (s : State) : (stow s).dev.histSeq = s.dev.histSeq := by unfold stow putBack; split <;> rfl
@[simp] theorem stow_dev_out (s : State) : (stow s).dev.out = s.dev.out := by unfold stow putBack; split <;> rfl
@[simp] theorem stow_dev_jobs (s : State) : (stow s).dev.jobs = s.dev.jobs := by unfold stow putBack; split <;> rfl
@[simp] theorem stow_dev_waiting (s : State) : (stow s).dev.waiting = s.dev.waiting := by unfold stow putBack; split <;> rfl
@[simp] theorem stow_dev_queues (s : State) : (stow s).dev.queues = s.dev.queues := by unfold stow putBack; split <;> rfl
@[simp] theorem stow_dev_rotation (s : State) : (stow s).dev.rotation = s.dev.rotation := by unfold stow putBack; split <;> rfl
@[simp] theorem stow_dev_launches (s : State) : (stow s).dev.launches = s.dev.launches := by unfold stow putBack; split <;> rfl
@[simp] theorem stow_dev_hubs (s : State) : (stow s).dev.hubs = s.dev.hubs := by unfold stow putBack; split <;> rfl
@[simp] theorem stow_dev_slots (s : State) : (stow s).dev.slots = s.dev.slots := by unfold stow putBack; split <;> rfl
@[simp] theorem stow_dev_slotInvals (s : State) : (stow s).dev.slotInvals = s.dev.slotInvals := by unfold stow putBack; split <;> rfl
@[simp] theorem stow_dev_seqs (s : State) : (stow s).dev.seqs = s.dev.seqs := by unfold stow putBack; split <;> rfl
@[simp] theorem stow_dev_pbars (s : State) : (stow s).dev.pbars = s.dev.pbars := by unfold stow putBack; split <;> rfl
@[simp] theorem stow_dev_nextUid (s : State) : (stow s).dev.nextUid = s.dev.nextUid := by unfold stow putBack; split <;> rfl
@[simp] theorem stow_clk (s : State) : (stow s).clk = s.clk := by unfold stow putBack; split <;> rfl
@[simp] theorem stow_nfree (s : State) : (stow s).nfree = s.nfree := by unfold stow putBack; split <;> rfl
@[simp] theorem stow_agenda (s : State) : (stow s).agenda = s.agenda := by unfold stow putBack; split <;> rfl

/-- Nothing is in focus afterwards. -/
@[simp] theorem stow_active (s : State) : (stow s).active = false := by
  unfold stow putBack
  split
  · rfl
  · simp_all

/-- Putting back twice is putting back once. -/
@[simp] theorem stow_stow (s : State) : stow (stow s) = stow s := by
  rw [stow, stow_active]
  rfl

/-- Memory is as it was. -/
@[simp] theorem stow_byteAt (s : State) (a : Nat) : byteAt (stow s).dev a = byteAt s.dev a := by simp [byteAt]

end Sys2Proof.Machine
end

