-- ==== Sys2Proof/Tests/Slice0.lean ====
section
/-! SUPPORT. Tests: what WellFormed refuses, words of the encoding tables, and for each statement states that meet its
hypotheses. -/

namespace Sys2Proof.Tests

open Sys2Proof Sys2Proof.Machine

set_option Elab.async false

/-! ### WellFormed: one ill-formed term for each check (R54, R60 to R62, R64, R67) -/

/-- Source codes 0xF0 to 0xFE are reserved (R58). -/
theorem test_illformed_source : (Instr.addI32 1 0xF0 2).wellFormed = false := by decide
/-- A destination is a register, EXEC, FMT or FLG (R62). -/
theorem test_illformed_destination : (Instr.addI32 0xC0 1 2).wellFormed = false := by decide
/-- A 64-bit destination is an even register (R60). -/
theorem test_illformed_pair : (Instr.addI64 5 2 4).wellFormed = false := by decide
/-- A 64-bit source is an even pair (R60). -/
theorem test_illformed_pair_source : (Instr.addI64 4 3 4).wellFormed = false := by decide
/-- An immediate instruction takes no special destination (R66, R238). -/
theorem test_illformed_immediate : (Instr.movi 0xE7 1).wellFormed = false := by decide
/-- A scalar instruction reads no lane register (R61). -/
theorem test_illformed_scalar : (Instr.addI32 0x80 1 0x81).wellFormed = false := by decide
/-- SHFL writes lane registers alone (R225). -/
theorem test_illformed_lanes : (Instr.shfl 0x80 4 0).wellFormed = false := by decide
/-- A descriptor lies in an even or fourfold s-register (R60). -/
theorem test_illformed_sregs : (Instr.cpyLin 0 0x81).wellFormed = false := by decide
/-- An address is a pair (R249). -/
theorem test_illformed_address : (Instr.ld 0 0x83 0 0).wellFormed = false := by decide
/-- A scratchpad offset is a register, a constant or the literal (R251). -/
theorem test_illformed_offset : (Instr.lds 0 0xE0 0 0).wellFormed = false := by decide
/-- A stored pair is even (R251). -/
theorem test_illformed_stored : (Instr.st 3 0x82 5 0).wellFormed = false := by decide
/-- A scalar store takes a uniform source (R256). -/
theorem test_illformed_stored_uniform : (Instr.stu 3 0x82 0 0).wellFormed = false := by decide
/-- A uniform operand is no lane register (R61). -/
theorem test_illformed_uniform : (Instr.sysTrap 3).wellFormed = false := by decide
/-- SLEEP takes an s-register, an integer constant or the literal (R243). -/
theorem test_illformed_sleep : (Instr.ctlSleep 0xD0).wellFormed = false := by decide
/-- A function number has a table entry (R68, R213). -/
theorem test_illformed_function : (Instr.bitu 1 2 5).wellFormed = false := by decide
/-- One field at most reads the literal (R64). -/
theorem test_illformed_literals : (Instr.addI32 1 0xFF 0xFF).wellFormed = false := by decide
/-- A well-formed instruction is let through. -/
theorem test_wellformed : (Instr.addI32 1 0xFF 2).wellFormed = true := by decide

/-! ### Words of the encoding tables (R53 to R73) -/

/-- What a 32-bit word decodes to. -/
def reads (w : Nat) (i : Instr) : Bool := decide (decode (split32 (BitVec.ofNat 32 w)) = .ok (i, []))

/-- Compact (R55): S in [15:10], vD in [9:5], OP4 in [4:1]. -/
theorem test_decode_compact : decode [0x0C40#16] = .ok (.movCompact 2 3, []) ∧
    decode [0xFFFE#16] = .ok (.shrI32Compact 31 63, []) := by decide
/-- F3 (R53): B, A, D, low byte. -/
theorem test_decode_integer : reads 0x03020101 (.addI32 1 2 3) = true ∧ reads 0xFF800327 (.bfi 3 0x80 0xFF) = true := by decide
/-- F3 with a raw B (R68). -/
theorem test_decode_functions : reads 0x04050629 (.bitu 6 5 4) = true ∧ reads 0x02818249 (.funF32 0x82 0x81 2) = true := by decide
/-- FI (R66): IMM16, D, low byte. -/
theorem test_decode_immediate : reads 0x8001FE71 (.movi 0xFE 0x8001) = true ∧ reads 0x12348075 (.addi 0x80 0x1234) = true := by decide
/-- FB (R70): OFF20, M, low byte. -/
theorem test_decode_branch : reads 0x00001081 (.bra 1) = true ∧ reads 0xFFFFF287 (.brs 2 0xFFFFF) = true := by decide
/-- FMEM (R250, R258). -/
theorem test_decode_memory : reads 0x0D8204A1 (.ld 4 0x82 5 1) = true ∧ reads 0x190305AD (.atom 5 3 9 1) = true := by decide
/-- FX (R71): B, A, the field F above SUB, low byte. -/
theorem test_decode_sync : reads 0x856236B9 (.barTest 3 0x62 0x85) = true ∧ reads 0x000002BD .fenceAsync = true := by decide
/-- The copy engine. -/
theorem test_decode_copy : reads 0x008431C1 (.cpyTile 3 0x84) = true := by decide
/-- Matrix, weight slots and tile store. -/
theorem test_decode_matrix : reads 0x8540C2C9 (.mmao 2 12 0x40 0x85) = true ∧ reads 0x008010CD (.wbufLoad 1 0x80) = true ∧
    reads 0x088430CF (.tsmovToreg 3 0x84 8) = true := by decide
/-- FT (R390): P6, B6, A6, D6, low byte. -/
theorem test_decode_tile : reads 0x0C2081D3 (.top 1 2 2 3) = true ∧ reads 0x848820D7 (.tdemStore 2 0x88 0x84) = true := by decide
/-- Chain, traversal and sample. -/
theorem test_decode_engines : reads 0x858404D9 (.chRun 0x84 0x85) = true ∧ reads 0x108810DD (.traceClosest 1 0x88 0x10) = true ∧
    reads 0x048822DF (.smpGather4 2 0x88 4) = true := by decide
/-- Jobs and system. -/
theorem test_decode_job_system : reads 0x828417E1 (.jobYieldonFlg 0x84 0x82) = true ∧ reads 0x858302E9 (.sysCtlrd 0x83 0x85) = true ∧
    reads 0x008816E9 (.sysWatch 1 0x88) = true := by decide
/-- The literal prefix (R63). -/
theorem test_decode_literal : reads 0xABCDEFFF (.lit 0xABCDEF) = true := by decide
/-- Reserved MAJ, reserved SUB and a bit that must be zero are refused. -/
theorem test_decode_reserved : decode32 0x000000FD#32 = .error .reservedMajor ∧ decode32 0x000009E9#32 = .error .reservedSub ∧
    decode32 0x010000BD#32 = .error .reservedBits := by decide

/-! ### A state to test in -/

/-- At 0x100 a clause of one FENCE.OPC, at 0x180 the same with RCV (R43), and, in host memory, tables that map the first GiB of virtual addresses to
physical address 0 on (R303, R304). -/
def tables : List Host.Cell :=
  [(0x100, 0x02#8), (0x102, 0xFC#8), (0x103, 0x03#8), (0x104, 0xBD#8),
   (0x180, 0x02#8), (0x182, 0xFC#8), (0x183, 0x0B#8), (0x184, 0xBD#8),
   (0x1000000001000, 0x01#8), (0x1000000001001, 0x20#8), (0x1000000001006, 0x01#8),
   (0x1000000002000, 0x01#8), (0x1000000002001, 0x30#8), (0x1000000002006, 0x01#8), (0x1000000003000, 0x3B#8)]

/-- A fragment about to issue, in a crew with 128 lane and 64 scalar registers and 8 KiB of scratchpad, lane 0 active,
its context's pages mapped, its trap vector 0x40, and no page promoted. -/
def demo : State :=
  let s := placeParcels State.reset [0x0001#16, 0x0000#16]
  { s with
    frag := { s.frag with exec := 1#96, clause := 0x100#64 }
    crew := { s.crew with scratchSize := 8192, tileSize := 8192, deadline := 100 }
    dev := { s.dev with
      priv := 2 ^ 31, mem := tables, host := { s.dev.host with up := true }, pc := { s.dev.pc with promo := 0 }
      contexts := [(0, { (default : Context) with en := true, root := 0x1000000001000#64, words := [(0x400, 0x40#32)] })] } }

/-- The same while key 0 is being installed (R488). -/
def keyed (s : State) : State :=
  { s with dev := { s.dev with plat := { s.dev.plat with sec := { s.dev.plat.sec with keyBusy := some (0, []) } } } }

/-- The same in trap mode. -/
def demoTrap : State := { demo with frag := { demo.frag with trapMode := true } }

/-- The next state of an instruction or step, where it has one. -/
def ran (i : Instr) (s : State) : State :=
  match exec i s with
  | .next t => t
  | .fault _ => s
  | .refused _ => s

/-- Admitted, as a computation. -/
def admits (s : State) (c : RoleClass) (i : Instr) : Bool :=
  legalHere s i && (s.frag.trapMode || roleAllows s.wave.role c)

/-- A computation that holds of every entry of a list. -/
theorem all_of {α : Type} {l : List α} {p : α → Bool} (h : l.all p = true) : ∀ x ∈ l, p x = true := List.all_eq_true.mp h

theorem admitted_of {s : State} {c : RoleClass} {i : Instr} (h : admits s c i = true) : Admitted i c s := by
  simpa [admits, Admitted] using h

/-! ### Hypotheses met: integer, floating, cross-lane and mask instructions -/

theorem test_intLanes_met : (∀ r ∈ intRows, Admitted (r.ctor 127 2 3) .laneArith demo) ∧
    ∀ k ≤ 4, Admitted (.bitu 127 2 (BitVec.ofNat 8 k)) .laneArith demo :=
  ⟨fun r h => admitted_of ((by decide : ∀ r ∈ intRows, admits demo .laneArith (r.ctor 127 2 3) = true) r h),
   fun k h => admitted_of ((by decide : ∀ k ≤ 4, admits demo .laneArith (.bitu 127 2 (BitVec.ofNat 8 k)) = true) k h)⟩

theorem test_intScalars_met : ∀ d ∈ [0x80#8, 0xBF#8, 0xE4#8, 0xE8#8], scalarDst d = true ∧
    ∀ r ∈ intRows, Admitted (r.ctor d 0x82 0xC1) .control demo := by
  have h : ∀ d ∈ [0x80#8, 0xBF#8, 0xE4#8, 0xE8#8], scalarDst d = true ∧
    ∀ r ∈ intRows, admits demo .control (r.ctor d 0x82 0xC1) = true := by decide
  exact fun d hd => ⟨(h d hd).1, fun r hr => admitted_of ((h d hd).2 r hr)⟩

/-- A value FMT accepts, and one it refuses (R86). -/
theorem test_fmt_values : fmtLegal 0#32 = true ∧ fmtLegal 0xFFFFFFFF#32 = false := by decide

theorem test_formatWriteRefused_met : Admitted (.subI32 0xE7 0xC0 0xC1) .control demo ∧
    (let u := latchClk demo [0xC0#8, 0xC1#8]; fmtLegal (readSrc u 0xC0#8 0 - readSrc u 0xC1#8 0)) = false ∧
    Admitted (.addF32 0xE7 0xD1 0xD1) .control demo ∧
    fmtLegal (f32At .add (latchClk demo [0xD1#8, 0xD1#8]) true 0xE7#8 0xD1#8 0xD1#8 0 0#32).1 = false :=
  ⟨admitted_of (by decide), by decide, admitted_of (by decide), by decide⟩

theorem test_immediate_met : (∀ r ∈ immRows, Admitted (r.ctor 127 0x8000) .laneArith demo ∧ Admitted (r.ctor 0xBF 1) .control demo) ∧
    ∀ r ∈ compactRows, Admitted (r.ctor 31 3) .laneArith demo := by
  have h : (∀ r ∈ immRows, admits demo .laneArith (r.ctor 127 0x8000) = true ∧ admits demo .control (r.ctor 0xBF 1) = true) ∧
    ∀ r ∈ compactRows, admits demo .laneArith (r.ctor 31 3) = true := by decide
  exact ⟨fun r hr => ⟨admitted_of (h.1 r hr).1, admitted_of (h.1 r hr).2⟩, fun r hr => admitted_of (h.2 r hr)⟩

theorem test_pairs_met : (∀ r ∈ pairRows, Admitted (r.ctor 126 2 4) .laneArith demo ∧ Admitted (r.ctor 0xBE 0x82 0x84) .control demo) ∧
    Admitted (.mov64 126 2) .laneArith demo ∧ Admitted (.mov64 0xBE 0x82) .control demo := by
  have h : (∀ r ∈ pairRows, admits demo .laneArith (r.ctor 126 2 4) = true ∧ admits demo .control (r.ctor 0xBE 0x82 0x84) = true) ∧
    admits demo .laneArith (.mov64 126 2) = true ∧ admits demo .control (.mov64 0xBE 0x82) = true := by decide
  exact ⟨fun r hr => ⟨admitted_of (h.1 r hr).1, admitted_of (h.1 r hr).2⟩, admitted_of h.2.1, admitted_of h.2.2⟩

/-- The demonstration state under an FMT. -/
def withFmt (m : Word) : State := { demo with frag := { demo.frag with fmt := m } }

theorem test_floats_met : (∀ r ∈ arithRows, Admitted (r.ctor 127 2 3) .laneArith demo ∧ Admitted (r.ctor 0xBF 0x82 0xD1) .control demo) ∧
    ∀ r ∈ compactFloatRows, Admitted (r.ctor 31 3) .laneArith demo := by
  have h : (∀ r ∈ arithRows, admits demo .laneArith (r.ctor 127 2 3) = true ∧ admits demo .control (r.ctor 0xBF 0x82 0xD1) = true) ∧
    ∀ r ∈ compactFloatRows, admits demo .laneArith (r.ctor 31 3) = true := by decide
  exact ⟨fun r hr => ⟨admitted_of (h.1 r hr).1, admitted_of (h.1 r hr).2⟩, fun r hr => admitted_of (h.2 r hr)⟩

theorem test_conversions_admitted : ∀ k ∈ [0#8, 8#8], ∀ r ∈ convertRows k,
    Admitted (r.ctor 127 2 3) .laneArith demo ∧ Admitted (r.ctor 0xBF 0x82 0x84) .control demo := by
  have h : ∀ k ∈ [0#8, 8#8], ∀ r ∈ convertRows k, admits demo .laneArith (r.ctor 127 2 3) = true ∧
      admits demo .control (r.ctor 0xBF 0x82 0x84) = true := by decide
  exact fun k hk r hr => ⟨admitted_of (h k hk r hr).1, admitted_of (h k hk r hr).2⟩

theorem test_conversions_needs : (∀ r ∈ convertRows 0#8, r.needs 0x22#32 ∨ r.needs 0x66#32) ∧
    (∃ r ∈ convertRows 0#8, ¬ r.needs 0x900#32) ∧ ∃ r ∈ convertRows 0#8, ¬ r.needs 0x0#32 := by
  refine ⟨?_, ?_, ?_⟩
  · simp only [convertRows, List.cons_append, List.nil_append, List.forall_mem_cons, List.not_mem_nil, false_imp_iff, implies_true]
    decide
  · exact ⟨_, List.mem_of_getElem? (i := 2) rfl, by decide⟩
  · exact ⟨_, List.mem_of_getElem? (i := 8) rfl, by decide⟩

/-- An enabled flag is raised by an operation (R97), and none where FPTRAP is zero. -/
def demoTraps : State :=
  { demo with dev := { demo.dev with contexts := [(0, { (ctxOf demo.dev 0) with words := [(0x301, 0x1F#32), (0x400, 0x40#32)] })] } }

theorem test_trapsOn_met : trapsOn demoTraps 1 ∧ ¬ trapsOn demo 0x1F := by
  unfold trapsOn
  decide

theorem test_rounding_met : fmtIsInt .f16 = false ∧ 0x3C00 < 2 ^ fmtWidth .f16 ∧ decodeFmt .f16 0x3C00 = .fin false 1024 (-10) := by
  decide

theorem test_selection_met : Admitted (.sel 127 2 3) .laneArith demo ∧ Admitted (.sel 0xBF 0x80 0x81) .control demo ∧
    Admitted (.shfl 127 2 3) .laneArith demo ∧ Admitted (.rdlane 127 2 0x80) .laneArith demo ∧
    Admitted (.rdlane 0xBF 2 0x80) .control demo ∧ Admitted (.wrlane 127 0x80 0x81) .laneArith demo :=
  ⟨admitted_of (by decide), admitted_of (by decide), admitted_of (by decide), admitted_of (by decide),
   admitted_of (by decide), admitted_of (by decide)⟩

theorem test_reductions_met : ∀ k ∈ [0#8, 10#8], Admitted (.wred 127 2 k) .laneArith demo ∧ Admitted (.wred 0xBF 2 k) .control demo ∧
    Admitted (.wscan 127 2 k) .laneArith demo := by
  have h : ∀ k ∈ [0#8, 10#8], admits demo .laneArith (.wred 127 2 k) = true ∧ admits demo .control (.wred 0xBF 2 k) = true ∧
    admits demo .laneArith (.wscan 127 2 k) = true := by decide
  exact fun k hk => ⟨admitted_of (h k hk).1, admitted_of (h k hk).2.1, admitted_of (h k hk).2.2⟩

/-- Boundary operands the four lane instructions and REORD refuse: destination 0x80, lane register VREGS, LANE as B; and a wave
whose role REORD is outside. -/
theorem test_refusedOperands_met : demo.crew.vregs = 128 ∧ laneVarying 0 = true ∧ laneVarying 0xEC = true ∧
    laneVarying 0xED = false ∧ legalHere demo (.ctlReord 0 127 127) = true ∧ demo.frag.trapMode = false ∧
    roleAllows .copy .laneArith = false := by decide

theorem test_laneSort_met : Admitted (.ctlReord 15 2 112) .laneArith demo ∧ Admitted (.ctlReord 0 127 127) .laneArith demo :=
  ⟨admitted_of (by decide), admitted_of (by decide)⟩

theorem test_compares_met : (∀ c ∈ [0#5, 5#5], Admitted (.cmpI32 7 c 2 3) .control demo ∧ Admitted (.cmpN32 7 c 2 3) .control demo) ∧
    (∀ c ∈ [0#5, 1#5], Admitted (.test 7 c 2 3) .control demo) ∧ ∀ c ∈ [0#5, 7#5], Admitted (.cmpF32 7 c 2 3) .control demo := by
  have h : (∀ c ∈ [0#5, 5#5], admits demo .control (.cmpI32 7 c 2 3) = true ∧ admits demo .control (.cmpN32 7 c 2 3) = true) ∧
    (∀ c ∈ [0#5, 1#5], admits demo .control (.test 7 c 2 3) = true) ∧
    ∀ c ∈ [0#5, 7#5], admits demo .control (.cmpF32 7 c 2 3) = true := by decide
  exact ⟨fun c hc => ⟨admitted_of (h.1 c hc).1, admitted_of (h.1 c hc).2⟩, fun c hc => admitted_of (h.2.1 c hc),
    fun c hc => admitted_of (h.2.2 c hc)⟩

theorem test_masks_met : (∀ c ∈ [0#5, 3#5], Admitted (.mop 7 c 8 0) .control demo) ∧ Admitted (.mmov 7 0 8 0) .control demo ∧
    Admitted (.mmov 0 1 7 0) .control demo ∧ (∀ c ∈ [2#5, 3#5], Admitted (.mmov 7 c 0xBD 0) .control demo) ∧
    ∀ c ∈ [4#5, 5#5], Admitted (.mmov 7 c 0xBF 0) .control demo := by
  have h : (∀ c ∈ [0#5, 3#5], admits demo .control (.mop 7 c 8 0) = true) ∧ admits demo .control (.mmov 7 0 8 0) = true ∧
    admits demo .control (.mmov 0 1 7 0) = true ∧ (∀ c ∈ [2#5, 3#5], admits demo .control (.mmov 7 c 0xBD 0) = true) ∧
    ∀ c ∈ [4#5, 5#5], admits demo .control (.mmov 7 c 0xBF 0) = true := by decide
  exact ⟨fun c hc => admitted_of (h.1 c hc), admitted_of h.2.1, admitted_of h.2.2.1, fun c hc => admitted_of (h.2.2.2.1 c hc),
    fun c hc => admitted_of (h.2.2.2.2 c hc)⟩

/-! ### Hypotheses met: control flow and traps -/

/-- Lanes 0 and 1 active, lane 0 in m0. -/
def demoSplit : State :=
  { demo with frag := { demo.frag with exec := 3#96 }, wave := { demo.wave with m := [(0, 1#96)] } }

/-- The clause lies below the last canonical address of the lower half. -/
def demoHigh : State := { demo with frag := { demo.frag with clause := 0x00FFFFFFFFFFFFFC#64 } }

theorem test_branches_met : goodTarget (offTarget demo 1) ∧ goodTarget (offTarget demo 0xFFFFF) ∧ demo.crew.sregs = 64 ∧
    (∀ i ∈ [Instr.bra 1, .brany 7 1, .brall 7 1, .call 1, .ctlJmpr 0xBE, .brs 0 1], Admitted i .control demo) ∧
    goodTarget (readS64 demo 0) := by
  refine ⟨?_, ?_, rfl, ?_, ?_⟩
  · unfold goodTarget; decide
  · unfold goodTarget; decide
  · exact fun i hi => admitted_of ((by decide : ∀ i ∈ [Instr.bra 1, .brany 7 1, .brall 7 1, .call 1, .ctlJmpr 0xBE, .brs 0 1],
      admits demo .control i = true) i hi)
  · unfold goodTarget; decide

theorem test_targets_refused : ¬ goodTarget (offTarget demoHigh 1) ∧ ¬ goodTarget 2#64 ∧ ¬ goodTarget 0x0100000000000000#64 ∧
    Admitted (.bra 1) .control demoHigh := by
  refine ⟨?_, ?_, ?_, admitted_of (by decide)⟩ <;> unfold goodTarget <;> decide

theorem test_sleep_met : Admitted (.ctlSleep 0xC1) .control demo ∧ min (readSrc demo 0xC1#8 0).toNat 1048576 ≠ 0 ∧
    demo.frag.resume = .fresh ∧ Admitted (.ctlSleep 0xC0) .control demo ∧ min (readSrc demo 0xC0#8 0).toNat 1048576 = 0 :=
  ⟨admitted_of (by decide), by decide, by decide, admitted_of (by decide), by decide⟩

/-- A fragment whose clause holds JOINAT m2, 8 and then BRS m2, 4 (R184, R185). -/
def demoJoin : State :=
  { demoSplit with frag := { demoSplit.frag with body := [0x8289#16, 0x0000#16, 0x1287#16, 0x0000#16] } }

theorem test_split_met : Admitted (.brs 0 1) .control demoSplit ∧ goodTarget (offTarget demoSplit 1) ∧
    joinAddr demoSplit.frag = none ∧ demoSplit.frag.exec &&& readM demoSplit 0 ≠ 0#96 ∧
    demoSplit.frag.exec &&& ~~~ readM demoSplit 0 ≠ 0#96 ∧ demoSplit.wave.frags.length + 2 ≤ 16 ∧
    (joinChain demoSplit.wave 257 demoSplit.frag.join).length < 256 :=
  ⟨admitted_of (by decide), by unfold goodTarget; decide, by decide, by decide, by decide, by decide, by decide⟩

theorem test_joinAt_met : Admitted (.joinat 2 8) .control demoJoin ∧
    (clauseMaj demoJoin.frag 0x43).map (fun w => w.extractLsb' 8 3) = some 2#3 ∧
    (joinAddr demoJoin.frag).map (fun a => canonical a && a.toNat % 4 == 0) = some true ∧ innerAddr demoJoin = none ∧
    clauseMaj demo.frag 0x43 = none ∧ Admitted (.joinat 2 8) .control demo :=
  ⟨admitted_of (by decide), by decide, by decide, by decide, by decide, admitted_of (by decide)⟩

/-- LIT before an instruction that reads the literal, and before one that does not. -/
theorem test_literals_met : litSequenceOk 1 [0x0201#16, 0xFF03#16] = true ∧ litSequenceOk 1 [0x0201#16, 0x0403#16] = false ∧
    demo.frag.lit = none := by decide

/-- A fragment at the header of the clause at 0x100, and at 0x200, where no clause stands. -/
def demoHead (a : DWord) : State := { demo with frag := { demo.frag with clause := a, parcel := 63, latched := false } }

/-- What the fragment fetches there, and whether its structure is sound. -/
def headOf (s : State) : Option (Header × Bool) :=
  match fetchClause s.dev (fragAsker s) s.crew.ctx s.wave.fetchMark s.nfree s.frag.clause.toNat with
  | (.clause h body, _) => some (h, structureOk h body)
  | _ => none


theorem test_traps_met : demo.frag.trapMode = false ∧ tvec demo ≠ 0#64 ∧ demoTrap.frag.trapMode = true ∧ tvec State.reset = 0#64 := by
  decide

theorem test_trapInstructions_met : Admitted (.sysTrap 0xC1) .control demo ∧ Admitted (.sysTrap 0xC1) .control demoTrap ∧
    Admitted .sysEret .control demoTrap ∧ goodTarget demoTrap.frag.epc ∧ Admitted .sysEret .control demo :=
  ⟨admitted_of (by decide), admitted_of (by decide), admitted_of (by decide), by unfold goodTarget; decide, admitted_of (by decide)⟩

/-! ### Hypotheses met: memory access -/

/-- Access rows in their plain form, on lane register 0 and the pair or register at `a`. -/
def rowsAt (d a : BitVec 8) : List Access := accesses d a 0 0 4 0 0

theorem test_accesses_met :
    (∀ x ∈ (rowsAt 4 2).take 9, x.scalar = false ∧ Admitted x.i x.cls demo) ∧ FlagFree demo ∧
    (∀ x ∈ (rowsAt 0x84 0x82).drop 9, x.scalar = true ∧ Admitted x.i x.cls demo) := by
  have h : (∀ x ∈ (rowsAt 4 2).take 9, x.scalar = false ∧ admits demo x.cls x.i = true) ∧
    (∀ x ∈ (rowsAt 0x84 0x82).drop 9, x.scalar = true ∧ admits demo x.cls x.i = true) := by decide +kernel
  exact ⟨fun x hx => ⟨(h.1 x hx).1, admitted_of (h.1 x hx).2⟩, by unfold FlagFree; decide,
    fun x hx => ⟨(h.2 x hx).1, admitted_of (h.2 x hx).2⟩⟩

/-- The checks of an access, as a computation. -/
def soundAt (s : State) (x : Access) (q : Nat × Nat) : Bool :=
  q.2 % x.bytes == 0 && (if x.scratch then decide (q.2 + x.bytes ≤ s.crew.scratchSize) else canonical (BitVec.ofNat 64 q.2)) &&
  !(!x.scratch && !s.frag.oneShot && watchHit s.dev s.crew.ctx q.2 x.bytes (kindWant x.kind).rd (kindWant x.kind).wr)

/-- Every address of the row translates, as a computation. -/
def translates (s : State) (k : MemKind) : Dev → List Nat → Bool
  | _, [] => true
  | d, a :: as => match translate d (fragAsker s) s.crew.ctx s.nfree (vaBits a) (kindWant k) with
    | (.ok pa _, d1) => (!isAtomic k || paClass pa != 1 || s.dev.host.cxl != 0) && translates s k d1 as
    | _ => false

theorem test_accesses_sound : ∀ x ∈ rowsAt 4 2, (x.at_ demo).all (soundAt demo x) = true ∧
    (x.scratch || translates demo x.kind demo.dev ((x.at_ demo).map Prod.snd)) = true := by decide +kernel

/-- The pool's record count allows LDREC of record 0, and no pool does not (R255, R256). -/
theorem test_ldrec_index : (readSrc demo 0xC0#8 0).toNat < 1 ∧ ¬ (readSrc demo 0xC0#8 0).toNat < (ctxWord demo 0x502).toNat := by
  decide

/-- Lane register 2 of lane 0, or s-register 2, holds x. -/
def demoAddr (x : Word) : State :=
  { demo with wave := { demo.wave with v := [(192, x)], s := [(2, x)] } }

/-- Addresses at which each check stops: misaligned, beyond the scratchpad, watched. -/
theorem test_accesses_trap : (soundAt (demoAddr 2) (rowsAt 4 2)[0] (0, 2) = false) ∧ (demoAddr 2).crew.scratchSize = 8192 ∧
    ((rowsAt 4 2)[0].at_ (demoAddr 2)) = [(0, 2)] ∧ ((rowsAt 4 2)[2].at_ (demoAddr 8192)) = [(0, 8192)] ∧
    soundAt (demoAddr 8192) (rowsAt 4 2)[2] (0, 8192) = false ∧
    watchHit { demo.dev with contexts := [(0, { (ctxOf demo.dev 0) with words := [(0x612, 3#32), (0x613, 9#32)] })] } 0 0 4 true false = true := by
  decide +kernel

/-- Loads, stores and atomics of lane 0 under way. -/
def flying (i : Instr) : State := ran i demo

/-- Operation 0 of the crew of a state, prepared for its engine. -/
def opOf (s : State) : Option (Crew × Op) := (findCrew (stow s).dev s.crew.uid).bind (fun c => (findOp c 0).map (fun o => (c, o)))

/-- The hypotheses of EngineOp, as a computation. -/
def engineReady (s : State) : Bool :=
  match opOf s with
  | some (c, o) => c.state != .saved && o.status == .inflight && (heldLanes c.ops o &&& o.order) == 0#96
  | none => false

theorem engineOp_of {s : State} (h : engineReady s = true) : ∃ c o, EngineOp s s.crew.uid 0 c o := by
  unfold engineReady opOf at h
  cases hc : findCrew (stow s).dev s.crew.uid with
  | none => simp [hc] at h
  | some c =>
    cases ho : findOp c 0 with
    | none => simp [hc, ho] at h
    | some o =>
      simp [hc, ho] at h
      exact ⟨c, o, hc, ho, h.1.1, h.1.2, h.2⟩

theorem test_engine_accesses : ∀ i ∈ [Instr.ld 4 2 0 0, .st 4 2 0 0, .atom 4 2 0 0, .lds 4 2 0 0, .ldc 4 2 0 0, .stp 4 2 0 0, .ldu 0x84 0x82 0 0],
    engineReady (flying i) = true := by decide +kernel

/-- One open piece in a mapped page, and none parked: what AccessCompletes asks. -/
def onePiece (s : State) : Bool :=
  match opOf s with
  | some (_, o) => match memOf o with
    | some m => match m.pieces with
      | [p] => pieceOpen p && !p.parked && !p.inHub && !p.window && decide (0 < p.size) && decide (p.size ≤ 8) &&
          !o.wrote.getLsbD p.lane && decide (p.lane < 96) && (m.scalar || o.order.getLsbD p.lane) && o.taintV.isEmpty &&
          o.taintS.isEmpty && (m.scratch || p.pa.isSome) && (m.bits.isNone || !m.taken)
      | _ => false
    | none => false
  | none => false

theorem test_accessCompletes_met : ∀ i ∈ [Instr.ld 4 2 0 0, .st 4 2 0 0, .atom 4 2 0 0, .lds 4 2 0 0, .ldu 0x84 0x82 0 0],
    onePiece (flying i) = true ∧ (∀ k < 4, linePoisoned (flying i).dev k = false) := by decide +kernel

/-- The same access with its line poisoned. -/
def poisoned (s : State) : State := { s with dev := { s.dev with poison := [.lines 0 64 true] } }

theorem test_poisonContains_met : engineReady (poisoned (flying (.ld 4 2 0 0))) = true ∧ linePoisoned (poisoned demo).dev 0 = true := by
  decide +kernel

theorem test_linesTaken_met : onePiece (flying (.ldc 4 2 0 0)) = true ∧ onePiece (flying (.stp 4 2 0 0)) = true ∧
    lineFull (flying (.ldc 4 2 0 0)).crew 0 = false := by decide +kernel

/-- A combination waits in a hub. -/
def demoHub : State := { demo with dev := { demo.dev with hubs := [⟨[0], [0], 0x4000, 0, 0, 0, 5#64, [], 0⟩] } }

theorem test_hubDelivers_met : (stow demoHub).dev.hubs.length = 1 ∧ (∀ i < 4, linePoisoned demoHub.dev ((0x4000 + i) / 128) = false) ∧
    (stow demo).dev.hubs = [] := by decide +kernel

/-! ### Clauses fetched through the tables: any choice of cached entries gives the same (R307, R311) -/

/-- What the caches of translations may hold of the tables of `demo`. -/
def soundWalk (w : WalkEntry) : Prop :=
  w.tag = 0 → w.gen = 0 → w.base = 0 → (w.level = 5 → w.pte = 0x1000000002001#64) ∧ (w.level = 4 → w.pte = 0x1000000003001#64) ∧
    (w.level = 3 → w.pte = 0x3B#64)

/-- What a device holds whose tables are those of `demo`, whatever its caches hold of them. -/
structure Tabled (d : Dev) : Prop where
  ctx  : (ctxOf d 0).tag = 0 ∧ (ctxOf d 0).gen = 0 ∧ ((ctxOf d 0).root.extractLsb' 12 40).toNat * 4096 = 0x1000000001000
  ex   : ∀ a, a < 0x4000 ∨ 2 ^ 48 ≤ a ∧ a < 2 ^ 48 + 0x4000 → paExists d a = true ∧ linePoisoned d (a / 128) = false
  e5   : BitVec.ofNat 64 (natAt d 0x1000000001000 8) = 0x1000000002001#64
  e4   : BitVec.ofNat 64 (natAt d 0x1000000002000 8) = 0x1000000003001#64
  e3   : BitVec.ofNat 64 (natAt d 0x1000000003000 8) = 0x3B#64
  key  : keyWaits d 0 = false
  walks : ∀ w ∈ d.walks, soundWalk w
  tlb  : ∀ e ∈ d.tlb, ∃ p, e = ⟨p, 0, 0, 0, 30, 0, 0, true, true, true, false⟩

/-- The device after a translation: its caches may have changed. -/
structure Recached (d d' : Dev) : Prop where
  same : { d' with pc := d.pc, tlb := d.tlb, walks := d.walks } = d
  walks : ∀ w ∈ d'.walks, w ∈ d.walks ∨ soundWalk w
  tlb  : ∀ e ∈ d'.tlb, e ∈ d.tlb ∨ ∃ p, e = ⟨p, 0, 0, 0, 30, 0, 0, true, true, true, false⟩

theorem Recached.refl (d : Dev) : Recached d d := ⟨rfl, fun _ h => .inl h, fun _ h => .inl h⟩

theorem Recached.trans {d e f : Dev} (h : Recached d e) (g : Recached e f) : Recached d f := by
  refine ⟨?_, fun w hw => ?_, fun x hx => ?_⟩
  · have hg := congrArg (fun x : Dev => { x with pc := d.pc, tlb := d.tlb, walks := d.walks }) g.same
    exact hg.trans h.same
  · rcases g.walks w hw with hw | hw
    · exact h.walks w hw
    · exact .inr hw
  · rcases g.tlb x hx with hx | hx
    · exact h.tlb x hx
    · exact .inr hx

theorem Recached.pc (d : Dev) (p : PCache) : Recached d { d with pc := p } := ⟨rfl, fun _ h => .inl h, fun _ h => .inl h⟩

theorem Recached.tabled {d d' : Dev} (h : Recached d d') (t : Tabled d) : Tabled d' := by
  have hb : ∀ {α : Type} (f : Dev → α), f d = f { d' with pc := d.pc, tlb := d.tlb, walks := d.walks } := fun f => by rw [h.same]
  refine ⟨hb (fun d => ctxOf d 0) ▸ t.ctx, fun a ha => ⟨hb (fun d => paExists d a) ▸ (t.ex a ha).1,
    hb (fun d => linePoisoned d (a / 128)) ▸ (t.ex a ha).2⟩, hb (fun d => natAt d 0x1000000001000 8) ▸ t.e5,
    hb (fun d => natAt d 0x1000000002000 8) ▸ t.e4, hb (fun d => natAt d 0x1000000003000 8) ▸ t.e3,
    hb (fun d => keyWaits d 0) ▸ t.key, fun w hw => ?_, fun x hx => ?_⟩
  · exact (h.walks w hw).elim (t.walks w) id
  · exact (h.tlb x hx).elim (t.tlb x) id

theorem Recached.bytes {d d' : Dev} (h : Recached d d') : (∀ a, byteAt d' a = byteAt d a) ∧ d'.hist = d.hist := by
  have e := h.same
  exact ⟨fun a => (congrArg (fun x : Dev => byteAt x a) e : _), (congrArg Dev.hist e : _)⟩

theorem learn_recached (d : Dev) (who : Asker) (n : Nat) {es : List TlbEntry} {ws : List WalkEntry}
    (he : ∀ e ∈ es, ∃ p, e = ⟨p, 0, 0, 0, 30, 0, 0, true, true, true, false⟩) (hw : ∀ w ∈ ws, soundWalk w) :
    Recached d (learn d who n es ws) := by
  refine ⟨rfl, fun w h => ((learn_mem d who n es ws).2 w h).imp id (hw w), fun x h => ?_⟩
  rcases (learn_mem d who n es ws).1 x h with h | ⟨e, h, p, hp⟩
  · exact .inl h
  · obtain ⟨q, hq⟩ := he e h
    exact .inr ⟨p, by rw [hp, hq]⟩

theorem walkEntry_of {d : Dev} {die n va level table : Nat} {e : DWord} (t : Tabled d)
    (hb : va / levelSize level * levelSize level = 0) (hi : levelIndex va level = 0)
    (hp : ∀ w, soundWalk w → w.level = level → w.tag = 0 → w.gen = 0 → w.base = 0 → w.pte = e)
    (ha : 2 ^ 48 ≤ table ∧ table < 2 ^ 48 + 0x4000) (hn : BitVec.ofNat 64 (natAt d table 8) = e) :
    (walkEntry d die 0 0 n va level table).1 = some e := by
  have hx := t.ex table (.inr ha)
  have hf : ∀ w ∈ d.walks.filter (fun w => w.die == die && w.tag == 0 && w.gen == 0 && w.level == level && w.base == 0), w.pte = e := by
    intro w h
    simp only [List.mem_filter, Bool.and_eq_true, beq_iff_eq] at h
    exact hp w (t.walks w h.1) h.2.1.2 h.2.1.1.1.2 h.2.1.1.2 h.2.2
  simp only [walkEntry, hb, hi, Nat.mul_zero, Nat.add_zero]
  generalize d.walks.filter _ = l at hf
  cases l with
  | nil => simp [hx.1, hx.2, hn]
  | cons w ws =>
    simp only
    split
    · next y h => simp [hf y (List.mem_of_getElem? h)]
    · simp [hx.1, hx.2, hn]

theorem level_low {va : Nat} (hv : va < 4096) : levelIndex va 5 = 0 ∧ levelIndex va 4 = 0 ∧ levelIndex va 3 = 0 ∧
    va / levelSize 5 * levelSize 5 = 0 ∧ va / levelSize 4 * levelSize 4 = 0 ∧ va / levelSize 3 * levelSize 3 = 0 ∧ va / 2 ^ 30 * 2 ^ 30 = 0 := by
  simp only [levelIndex, levelSize]
  norm_num
  omega

/-- One level of a walk whose entry is known. -/
theorem walkFrom_entry {d : Dev} {die n va l table : Nat} {e : DWord} (hl : l ≠ 0)
    (h : (walkEntry d die 0 0 n va (l + 1) table).1 = some e) :
    ∃ ls, walkFrom d die 0 0 n va (l + 1) table = match readPte (l + 1) e with
      | .table next =>
        let r := walkFrom d die 0 0 n va l next
        ⟨r.out, ⟨die, 0, 0, l + 1, va / levelSize (l + 1) * levelSize (l + 1), e⟩ :: r.seen, ls ++ r.lines⟩
      | p => ⟨endWalk va (l + 1) p, [], ls⟩ := by
  rcases hw : walkEntry d die 0 0 n va (l + 1) table with ⟨x, b, ls⟩
  rw [hw] at h
  simp only at h
  subst h
  refine ⟨ls, ?_⟩
  have h1 : (l + 1 == 1) = false := by simpa using hl
  simp only [walkFrom, hw, h1, Bool.false_eq_true, if_false]
  all_goals (cases readPte (l + 1) e <;> rfl)

theorem walk_tabled {d : Dev} (t : Tabled d) {die n va : Nat} (hv : va < 4096) :
    (walk d die 0 n va).out = .leaf 0 30 0 0 true true true ∧ ∀ w ∈ (walk d die 0 n va).seen, soundWalk w := by
  obtain ⟨i5, i4, i3, b5, b4, b3, b⟩ := level_low hv
  have e5 := walkEntry_of (die := die) (n := n) (va := va) (level := 5) t b5 i5 (fun w h a b c e => (h b c e).1 a) (by norm_num) t.e5
  have e4 := walkEntry_of (die := die) (n := n) (va := va) (level := 4) t b4 i4 (fun w h a b c e => (h b c e).2.1 a) (by norm_num) t.e4
  have e3 := walkEntry_of (die := die) (n := n) (va := va) (level := 3) t b3 i3 (fun w h a b c e => (h b c e).2.2 a) (by norm_num) t.e3
  have p5 : readPte 5 0x1000000002001#64 = .table 0x1000000002000 := by decide
  have p4 : readPte 4 0x1000000003001#64 = .table 0x1000000003000 := by decide
  have p3 : readPte 3 0x3B#64 = .leaf 0 0 false true true true := by decide
  obtain ⟨l5, h5⟩ := walkFrom_entry (by norm_num) e5
  obtain ⟨l4, h4⟩ := walkFrom_entry (by norm_num) e4
  obtain ⟨l3, h3⟩ := walkFrom_entry (by norm_num) e3
  norm_num [p5] at h5
  norm_num [p4] at h4
  norm_num [p3] at h3
  simp only [walk, t.ctx.1, t.ctx.2.1, t.ctx.2.2, h5, h4, h3, endWalk]
  refine ⟨by simp; omega, fun w hw => ?_⟩
  simp only [List.mem_cons, List.not_mem_nil, or_false] at hw
  rcases hw with hw | hw <;> subst hw <;> intro _ _ _ <;> simp

theorem grants_all (w : Want) : grants true true true w = true := by simp [grants]

theorem walkTranslate_tabled {d : Dev} (t : Tabled d) {who : Asker} {n va : Nat} {w : Want} (hv : va < 4096) :
    ∃ d', walkTranslate d who 0 n va w = (.ok va 0, d') ∧ Recached d d' := by
  obtain ⟨p, hp⟩ := touchLines_pc d n 0 (walk d who.die 0 n va).lines
  have t1 := (Recached.pc d p).tabled t
  have hx := (t1.ex va (.inl (by omega))).1
  refine ⟨_, by simp [walkTranslate, walk_tabled t hv, grants_all, hp, hx]; rfl, (Recached.pc d p).trans ?_⟩
  exact learn_recached _ _ _ (by simp [t.ctx.1, t.ctx.2.1]) (walk_tabled t hv).2

theorem translate_tabled {d : Dev} (t : Tabled d) {who : Asker} {n va : Nat} {w : Want} (hv : va < 4096) :
    ∃ d', Machine.translate d who 0 n va w = (.ok va 0, d') ∧ Recached d d' := by
  obtain ⟨d1, h1, r1⟩ := walkTranslate_tabled t (who := who) (n := n) (w := w) hv
  have hp : ∃ d', translatePlain d who 0 n va w = (.ok va 0, d') ∧ Recached d d' := by
    have he : ∀ e ∈ tlbFor d who 0 va, ∃ p, e = ⟨p, 0, 0, 0, 30, 0, 0, true, true, true, false⟩ :=
      fun e h => t.tlb e (List.mem_filter.mp h).1
    simp only [translatePlain]
    split
    · exact ⟨d1, h1, r1⟩
    · split
      · next e h =>
        obtain ⟨p, rfl⟩ := he _ (List.mem_of_getElem? h)
        refine ⟨_, by simp [grants_all, tlbApply]; rfl, learn_recached _ _ _ (by simp) (by simp)⟩
      · exact ⟨d1, h1, r1⟩
  obtain ⟨d2, h2, r2⟩ := hp
  exact ⟨d2, by simp [Machine.translate, h2, (r2.tabled t).key], r2⟩

theorem tabled_demo : Tabled demo.dev where
  ctx := by decide +kernel
  ex a h := by
    have h1 : demo.dev.priv = 2 ^ 31 := rfl
    have h2 : demo.dev.poison = [] := rfl
    have h3 : demo.dev.host.up = true := rfl
    rcases h with h | h
    · have h0 : paClass a = 0 := by simp [paClass]; omega
      have h4 : paClass (a / 128 * 128) = 0 := by simp [paClass]; omega
      constructor
      · simp [paExists, h0, h1, paOffset]; omega
      · simp [linePoisoned, h4, h2, markedPoison]
    · have h0 : paClass a = 1 := by simp [paClass]; omega
      simp [paExists, h0, linePoisoned, h2, h3, markedPoison]
  e5 := by decide +kernel
  e4 := by decide +kernel
  e3 := by decide +kernel
  key := by decide +kernel
  walks w h := absurd h List.not_mem_nil
  tlb w h := absurd h List.not_mem_nil

/-- Bytes fetched below 4096 with no old byte in the write history are memory's. -/
theorem fetchVirt_tabled {m n : Nat} {who : Asker} (k : Nat) : ∀ {fresh : Bool} {d : Dev} {va : Nat}, Tabled d →
    d.hist = [] → va + k ≤ 4096 →
    ∃ d', fetchVirt who 0 m n fresh d va k = ((List.range k).map (fun i => byteAt d (va + i)), none, d') ∧ Recached d d' := by
  induction k with
  | zero => intro fresh d va t hh hk; exact ⟨d, by simp [fetchVirt], Recached.refl d⟩
  | succ k ih =>
    intro fresh d va t hh hk
    have hv : va < 4096 := by omega
    have hc : canonical (BitVec.ofNat 64 va) = true := by
      have h0 : (BitVec.ofNat 64 va).extractLsb' 56 8 = 0#8 := by
        apply BitVec.eq_of_toNat_eq
        simp [BitVec.extractLsb'_toNat, Nat.shiftRight_eq_div_pow]
        omega
      simp [canonical, h0]
    have hb : vaBits va = va := by simp [vaBits]; omega
    obtain ⟨d1, h1, r1⟩ := translate_tabled t (who := who) (n := n) (w := wantFetch) hv
    have h64 : translate64 d who 0 n va wantFetch = (.ok va 0, d1) := by simp [translate64, hc, hb, h1]
    have hp : linePoisoned d1 (va / 128) = false := ((r1.tabled t).ex va (.inl (by omega))).2
    have hf : fetchByte d1 m n va = byteAt d va := by
      have : staleBytes d1 m va = [] := by simp [staleBytes, r1.bytes.2, hh]
      simp [fetchByte, this, r1.bytes.1]
    have hm : (va + 1) % 2 ^ 64 = va + 1 := by omega
    obtain ⟨q, hq⟩ := touchLine_pc d1 n (va / 128) false 0
    have r2 : Recached d1 (if fresh then touchLine d1 n (va / 128) false 0 else d1) := by
      cases fresh
      · exact Recached.refl d1
      · simp only [hq]; exact Recached.pc d1 q
    have r3 := r1.trans r2
    obtain ⟨d4, h4, r4⟩ := ih (fresh := (va + 1) % 128 == 0) (va := va + 1) (r3.tabled t) (by rw [r3.bytes.2, hh]) (by omega)
    refine ⟨d4, ?_, r3.trans r4⟩
    simp only [fetchVirt, h64, hp, hm, hf, h4, r3.bytes.1]
    simp [List.range_succ_eq_map, Nat.add_assoc, Nat.add_comm 1]

/-- The clause that stands at an address below 4096. -/
theorem fetchClause_tabled {d : Dev} {m n a : Nat} {who : Asker} (t : Tabled d) (hh : d.hist = []) (ha : a + 260 ≤ 4096) :
    let h := Header.ofWord (BitVec.ofNat 32 (natLE ((List.range 4).map (fun i => byteAt d (a + i)))))
    ∃ d', fetchClause d who 0 m n a =
      (.clause h (parcelsOf ((List.range (2 * h.len.toNat)).map (fun i => byteAt d (a + 4 + i)))), d') ∧ Recached d d' := by
  intro h
  obtain ⟨d1, h1, r1⟩ := fetchVirt_tabled (m := m) (n := n) (who := who) 4 (fresh := true) t hh (by omega : a + 4 ≤ 4096)
  have hl : h.len.toNat < 64 := h.len.isLt
  have hm : (a + 4) % 2 ^ 64 = a + 4 := by omega
  obtain ⟨d2, h2, r2⟩ := fetchVirt_tabled (m := m) (n := n) (who := who) (2 * h.len.toNat) (fresh := (a + 4) % 128 == 0)
    (r1.tabled t) (by rw [r1.bytes.2, hh]) (by omega : a + 4 + 2 * h.len.toNat ≤ 4096)
  refine ⟨d2, ?_, r1.trans r2⟩
  simp only [r1.bytes.1] at h2
  unfold fetchClause
  rw [h1]
  simp only [hm]
  change (match fetchVirt who 0 m n ((a + 4) % 128 == 0) d1 (a + 4) (2 * h.len.toNat) with
    | (_, some (t, va), d2) => (Fetched.stop t va, d2)
    | (bb, none, d2) => (Fetched.clause h (parcelsOf bb), d2)) = _
  rw [h2]

/-- What a fragment fetches below 4096 is what its header and body there say, whatever its caches hold. -/
theorem headOf_tabled {s : State} (t : Tabled s.dev) (hc : s.crew.ctx = 0) (hh : s.dev.hist = []) (ha : s.frag.clause.toNat + 260 ≤ 4096) :
    let a := s.frag.clause.toNat
    let h := Header.ofWord (BitVec.ofNat 32 (natLE ((List.range 4).map (fun i => byteAt s.dev (a + i)))))
    headOf s = some (h, structureOk h (parcelsOf ((List.range (2 * h.len.toNat)).map (fun i => byteAt s.dev (a + 4 + i))))) := by
  intro a h
  obtain ⟨d, hd, _⟩ := fetchClause_tabled (m := s.wave.fetchMark) (n := s.nfree) (who := fragAsker s) t hh ha
  unfold headOf
  rw [hc, hd]

/-- The fragment at the header at a, whose innermost join record, at the same address, has the lanes l; another fragment of
lane 1 has Joined there, if so said. -/
def demoAtJoin (a : DWord) (l : Lanes) (other : Bool) : State :=
  { demoHead a with
    frag := { (demoHead a).frag with lanes := 1#96, join := some 0 }
    wave := { demo.wave with
      joins := [⟨0, a, 0#32, l, none⟩]
      frags := if other then [{ demo.frag with id := 1, lanes := 2#96, exec := 2#96, status := .joining, join := some 0 }] else [] } }

/-- At 0x100 stands a sound clause of one FENCE.OPC, at 0x180 the same with RCV, at 0x200 a header of length zero, which is
unsound (R45). -/
theorem test_clauseBegins_met :
    headOf (demoHead 0x100) = some (⟨0, false, false, 15, 15, 0, 2⟩, true) ∧
    headOf (demoHead 0x200) = some (⟨0, false, false, 0, 0, 0, 0⟩, false) ∧
    (demoHead 0x100).frag.latched = false ∧ (demoHead 0x100).frag.after = false ∧ innerJoin (demoHead 0x100) = none ∧
    lateOp (demoHead 0x100).crew.ops 0 (inWait ⟨0, false, false, 15, 15, 0, 2⟩) = none ∧
    headOf (demoAtJoin 0x100 1 false) = some (⟨0, false, false, 15, 15, 0, 2⟩, true) ∧
    innerJoin (demoAtJoin 0x100 1 false) = some (0, (demoAtJoin 0x100 1 false).frag.clause) ∧
    (demoAtJoin 0x100 1 false).frag.trapMode = false := by
  rw [headOf_tabled (s := demoHead 0x100) tabled_demo rfl rfl (by decide),
    headOf_tabled (s := demoHead 0x200) tabled_demo rfl rfl (by decide),
    headOf_tabled (s := demoAtJoin 0x100 1 false) tabled_demo rfl rfl (by decide)]
  decide +kernel

/-- The fragment has come to its join record: its lanes are the record's; a lane is missing; and with the other fragment
they are all. -/
theorem test_joinRecords_met :
    (∀ s ∈ [demoAtJoin 0x180 1 false, demoAtJoin 0x180 3 false, demoAtJoin 0x180 3 true],
      headOf s = some (⟨0, true, false, 15, 15, 0, 2⟩, true) ∧ (findJoin s.wave 0).map JoinRec.addr = some s.frag.clause ∧
      s.frag.join = some 0 ∧ s.frag.latched = false ∧ s.frag.after = false ∧ s.frag.trapMode = false) ∧
    (((demoAtJoin 0x180 3 true).wave.frags.filter (fun f => f.status == .joining && f.join == some 0)).foldl
      (fun a f => a ||| f.lanes) (demoAtJoin 0x180 3 true).frag.lanes = 3#96) := by
  refine ⟨?_, by decide +kernel⟩
  intro s hs
  have h : (s.dev = demo.dev ∧ s.crew.ctx = 0) ∧ s.frag.clause = 0x180 := by
    simp only [List.mem_cons, List.not_mem_nil, or_false] at hs
    rcases hs with h | h | h <;> subst h <;> exact ⟨⟨rfl, rfl⟩, rfl⟩
  have t : Tabled s.dev := h.1.1 ▸ tabled_demo
  have e := headOf_tabled t h.1.2 (by rw [h.1.1]; rfl) (by rw [h.2]; decide)
  simp only [h.1.1, h.2] at e
  refine ⟨e.trans (by decide +kernel), ?_⟩
  simp only [List.mem_cons, List.not_mem_nil, or_false] at hs
  rcases hs with h | h | h <;> subst h <;> decide +kernel

/-- demoJoin at the top of the lower half of the addresses: the target of its BRS lies there, its JOINAT's beyond. -/
def demoJoinHigh : State := { demoJoin with frag := { demoJoin.frag with clause := 0x00FFFFFFFFFFFFE8#64 } }

theorem test_joinAddress_met : Admitted (.brs 2 4) .control demoJoinHigh ∧ goodTarget (offTarget demoJoinHigh 4) ∧
    ∃ a, joinAddr demoJoinHigh.frag = some a ∧ ¬ goodTarget a :=
  ⟨admitted_of (by decide), by unfold goodTarget; decide, 0x0100000000000008#64, by decide, by unfold goodTarget; decide⟩

/-- Sixteen fragments, and a park area of n bytes; and a join chain of 256 records, the last 240 of them spilled. -/
def demoFull (n : Nat) : State :=
  { demoSplit with
    wave := { demoSplit.wave with frags := List.replicate 15 { demo.frag with exec := 0 } }
    crew := { demo.crew with parkSize := n } }

def demoDeep : State :=
  { demoJoin with
    frag := { demoJoin.frag with join := some 255 }
    wave := { demoJoin.wave with
      joins := (List.range 256).map (fun k => ⟨k, 0x40#64, 0, 3, if k = 0 then none else some (k - 1)⟩), jspill := List.replicate 240 0 } }

/-- Seventeen fragments need a place: there is none, or there is one at 0x1200; and a record would be the 257th. -/
theorem test_splitDepth_met : splitTablesSound (demoFull 0) ∧ splitTablesSound (demoFull 16384) ∧ splitTablesSound demoDeep ∧
    Admitted (.brs 0 1) .control (demoFull 0) ∧ Admitted (.brs 0 1) .control (demoFull 16384) ∧ Admitted (.brs 2 4) .control demoDeep ∧
    16 ≤ (demoFull 0).wave.frags.length + 1 ∧ (¬ ∃ p, freePlace (demoFull 0).crew 128 p) ∧ freePlace (demoFull 16384).crew 160 0x1200 ∧
    256 ≤ (joinChain demoDeep.wave 257 demoDeep.frag.join).length ∧
    (joinAddr demoDeep.frag).isSome = true ∧ joinAddr demoDeep.frag ≠ innerAddr demoDeep := by
  refine ⟨⟨by decide, by decide, by decide⟩, ⟨by decide, by decide, by decide⟩, ⟨by decide +kernel, by decide +kernel, by decide⟩,
    admitted_of (by decide), admitted_of (by decide), admitted_of (by decide +kernel), by decide, ?_, ?_, by decide +kernel, by decide, by decide +kernel⟩
  · rintro ⟨p, h1, h2, _⟩
    have : (demoFull 0).crew.parkSize = 0 := rfl
    omega
  · exact ⟨by decide, by decide, by decide⟩

/-! ### Hypotheses met: refused translations, and the hubs -/

/-- demo with the byte of its leaf replaced, and more of its memory. -/
def demoLeaf (b : BitVec 8) (more : List Host.Cell) : State :=
  { demo with dev := { demo.dev with mem := tables.filter (fun x => x.1 != 0x1000000003000) ++ (0x1000000003000, b) :: more } }

/-- The cause with which the translations refuse an access. -/
def refusedBy (s : State) (x : Access) : Option Nat := (translations s x.kind s.dev (eventAddrs x s)).findSome? (refusal s x.kind)

/-- A store to a page for reading; a load through a malformed entry; an atomic on a host line with no CXL; a load whose walk
meets poison; and a load that nothing refuses. -/
theorem test_accesses_refused : refusedBy (demoLeaf 0x2B []) (rowsAt 4 2)[1] = some 0x02 ∧ refusedBy (demoLeaf 0x37 []) (rowsAt 4 2)[0] = some 0x03 ∧
    refusedBy (demoLeaf 0x3B [(0x1000000003006, 1#8)]) (rowsAt 4 2)[6] = some 0x03 ∧
    refusedBy { demo with dev := { demo.dev with poison := [.lines (0x1000000003000 / 128) 1 true] } } (rowsAt 4 2)[0] = some 0x04 ∧
    refusedBy demo (rowsAt 4 2)[0] = none := by decide +kernel

/-- A reduction under way, combined in a hub, or one of two. -/
def inHub (s : State) : State :=
  let ops := s.crew.ops.map (fun o => match o.body with
    | .mem m => { o with body := .mem { m with pieces := m.pieces.map (fun p => { p with inHub := true }) } }
    | _ => o)
  { s with crew := { s.crew with ops := ops }, dev := { s.dev with hubs := [⟨[0], [0], 0x4000, 0, 0, 0, 5#64, [(s.crew.uid, 0, 0, 0)], 0⟩] } }

theorem test_hubMembers_met : ((stow (inHub (flying (.red 4 2 0 0)))).dev.hubs.map (fun h => (h.members, keyWaits demo.dev h.key))) =
      [([(demo.crew.uid, 0, 0, 0)], false)] ∧
    (opOf (inHub (flying (.red 4 2 0 0)))).map (fun q => (memOf q.2).map (fun m => m.pieces.map (fun p =>
      (p.inHub, p.lane, p.off, pieceOpen p)))) = some (some [(true, 0, 0, true)]) ∧
    keyWaits (keyed demo).dev 0 = true :=
  ⟨by decide +kernel, by decide +kernel, by decide +kernel⟩

/-! ### Hypotheses met: barriers and fences -/

/-- demo with s2, s3 = x, y. -/
def demoS (x y : Word) : State := { demo with wave := { demo.wave with s := [(2, x), (3, y)] } }

/-- A barrier object at 0 that awaits one arrival: EXPA and PENDA 1, VALID (R265). -/
def demoBar : State :=
  { demoS 1 0 with crew := { demo.crew with scratch := [(0, 1#8), (2, 1#8), (12, 1#8)] } }

/-- The same with the wave enrolled. -/
def demoEnrolled : State := { demoBar with wave := { demoBar.wave with enrol := [(0, 255)] } }

theorem test_barrierUpdates_met : Admitted (.barInit 0xC0 0x82) .control (demoS 1 0) ∧ BarReady demoBar 0 ∧
    Admitted (.barArrive 0xC0 0xC1) .control demoBar ∧ Admitted (.barExpect 0xC0 0xC0) .control demoBar ∧
    Admitted (.barArrivex 0xC0 0xC8) .control demoBar ∧ (barAt demoBar.crew 0).penda = 1 ∧ (barAt demoBar.crew 0).pendb = 0 ∧
    Admitted (.barEnroll 0xC0) .control demoBar ∧ Admitted (.barDrop 0xC0) .control demoEnrolled ∧
    demoEnrolled.wave.enrol.find? (fun e => e.1 == 0) = some (0, 255) ∧ demoBar.wave.enrol = [] ∧ Admitted (.barInval 0xC0) .control demoBar :=
  ⟨admitted_of (by decide +kernel), ⟨rfl, rfl, by decide +kernel, by decide +kernel⟩, admitted_of (by decide +kernel),
    admitted_of (by decide +kernel), admitted_of (by decide +kernel), by decide +kernel, by decide +kernel,
    admitted_of (by decide +kernel), admitted_of (by decide +kernel), by decide +kernel, rfl, admitted_of (by decide +kernel)⟩

/-- demoBar resumed as r, s2 = x, s3 = y. -/
def demoWait (r : Resume) (x y : Word) : State :=
  { demoBar with frag := { demoBar.frag with resume := r }, wave := { demoBar.wave with s := [(2, x), (3, y)] } }

/-- How far the object's phase is ahead of phase p, as BarrierWaiting says it. -/
def aheadOf (s : State) (p : Nat) : Nat := ((barAt s.crew 0).phase + 256 - p) % 256

theorem test_barrierWaits_met : (∀ r ∈ [Resume.fresh, .released, .timedOut, .broken], ∀ x ∈ [0#32, 255#32, 127#32], ∀ y ∈ [0#32, 5#32],
      BarReady (demoWait r x y) 0) ∧
    (∀ i ∈ [Instr.barWait 0xC0 0x82, .barWaitt 1 0xC0 0x82, .barTest 1 0xC0 0x82], Admitted i .control (demoWait .fresh 0 5)) ∧
    aheadOf (demoWait .fresh 0 0) 0 = 0 ∧ aheadOf (demoWait .fresh 255 0) 255 = 1 ∧ aheadOf (demoWait .fresh 128 0) 128 = 128 ∧
    aheadOf (demoWait .fresh 127 0) 127 = 129 := by
  have hv : (barAt demoBar.crew 0).valid = true := by decide +kernel
  refine ⟨fun r _ x _ y _ => ⟨rfl, rfl, ?_, hv⟩, fun i hi => admitted_of ?_, by decide +kernel⟩
  · exact (by decide +kernel : 0 + 16 ≤ demoBar.crew.scratchSize)
  · exact (by decide +kernel : ∀ i ∈ [Instr.barWait 0xC0 0x82, .barWaitt 1 0xC0 0x82, .barTest 1 0xC0 0x82],
      admits (demoWait .fresh 0 5) .control i = true) i hi

/-- The second operand each instruction checks is in its range, and the object is off its place, out of the allocation or not valid. -/
theorem test_barrierChecks_met : (∀ i ∈ [Instr.barInit 0xC1 0x82, .barArrive 0xC1 0xC1, .barExpect 0xC1 0xC1, .barArrivex 0xC1 0xC1, .barWait 0xC1 0xC1,
      .barWaitt 1 0xC1 0x82, .barTest 1 0xC1 0xC1, .barEnroll 0xC1, .barDrop 0xC1, .barInval 0xC1], Admitted i .control (demoS 1 0)) ∧
    (readSrc demo 0xC1 0).toNat = 1 ∧ (readSrc (demoS 8192 0) 0x82 0).toNat = 8192 ∧ (barAt demo.crew 0).valid = false ∧
    pendingFor demo.crew.ops demo.wave.idx demo.frag.lanes = false ∧
    pendingFor (flying (.ld 4 2 0 0)).crew.ops demo.wave.idx demo.frag.lanes = true := by
  refine ⟨fun i hi => admitted_of ?_, by decide +kernel, by decide +kernel, by decide +kernel, by decide +kernel, by decide +kernel⟩
  exact (by decide +kernel : ∀ i ∈ [Instr.barInit 0xC1 0x82, .barArrive 0xC1 0xC1, .barExpect 0xC1 0xC1, .barArrivex 0xC1 0xC1, .barWait 0xC1 0xC1,
    .barWaitt 1 0xC1 0x82, .barTest 1 0xC1 0xC1, .barEnroll 0xC1, .barDrop 0xC1, .barInval 0xC1], admits (demoS 1 0) .control i = true) i hi

/-- A job that holds core (0, 0) of card 0; patch word s2, selector s4: index 0, one arrival a crew, phase in [23:16] (R175, R176). -/
def demoPatch (w sel : Word) : State :=
  { demo with
    wave := { demo.wave with s := [(2, w), (4, sel)] }
    crew := { demo.crew with job := 1#64 }
    dev := { demo.dev with jobs := [{ (default : Job) with id := 1#64, card := { (default : Card) with w := 8, h := 6 } }] } }

theorem test_patchBarriers_met :
    (∀ i ∈ [Instr.pbarArrive 0x82 0x84, .pbarWait 0x82 0x84, .pbarTest 1 0x82 0x84], Admitted i .control (demoPatch 0 0x100)) ∧
    patchOk 0#32 (jobHere (demoPatch 0 0x100)).card 0 0 = true ∧ patchOk 0x80000000#32 (jobHere (demoPatch 0 0x100)).card 0 0 = false ∧
    pbarAt (demoPatch 0 0x100).dev 1#64 0#32 0 = none ∧
    (readS (demoPatch 0 0xFF0100) 4).toNat / 65536 % 256 = 255 :=
  ⟨fun i hi => admitted_of ((by decide +kernel : ∀ i ∈ [Instr.pbarArrive 0x82 0x84, .pbarWait 0x82 0x84, .pbarTest 1 0x82 0x84],
    admits (demoPatch 0 0x100) .control i = true) i hi), by decide +kernel, by decide +kernel, by decide +kernel, by decide⟩

/-- A block of s8 to s15: SRC 0x1000, DST 0x8000, word 4 = len, word 7 = cols. -/
def demoBlock (len cols : Word) : State :=
  { demo with wave := { demo.wave with s := [(8, 0x1000#32), (10, 0x8000#32), (12, len), (15, cols)] } }

/-- A CPY.LIN of 64 bytes out of scratchpad under way. -/
def demoCopy : State := ran (.cpyLin 1 0x88) (demoBlock 64 0)

theorem test_fences_met : (∀ i ∈ [Instr.fenceOpc, .fenceIfetch, .fenceAsync], Admitted i .control demo) ∧ demo.crew.ops = [] ∧
    (∃ o ∈ demoCopy.crew.ops, o.wave = demo.wave.idx ∧ opAsync o = true ∧ o.order &&& demo.frag.lanes ≠ 0#96) :=
  ⟨fun i hi => admitted_of ((by decide +kernel : ∀ i ∈ [Instr.fenceOpc, .fenceIfetch, .fenceAsync], admits demo .control i = true) i hi), rfl,
    by decide +kernel⟩

/-! ### Hypotheses met: copies -/

/-- The six commands on the block of demoBlock. -/
def copyRows (f : BitVec 4) (a : BitVec 8) : List (Instr × Nat) :=
  [(.cpyLin f a, 0), (.cpyTile f a, 1), (.cpyGather f a, 2), (.cpyScatter f a, 3), (.cpyXform f a, 4), (.cpyFill f a, 5)]

/-- The command's trap, and whether it moves nothing, on the block of a state. -/
def copyChecks (s : State) (x : Instr × Nat) : Option Nat × Bool :=
  let b := (List.range 8).map (fun k => readS s (8 + k))
  (cpyCause s.crew.scratchSize x.2 0 b, cpyEmpty x.2 b)

theorem test_copiesIssue_met : (∀ x ∈ copyRows 0 0x88, Admitted x.1 .copy (demoBlock 0x10004 8) ∧
      copyChecks (demoBlock 4 8) x = (none, x.2 == 1)) ∧ copyRoom demo = true ∧ demo.crew.tiles.nodes = [] := by
  have h : (∀ x ∈ copyRows 0 0x88, admits (demoBlock 0x10004 8) .copy x.1 = true ∧ copyChecks (demoBlock 4 8) x = (none, x.2 == 1)) ∧
    copyRoom demo = true ∧ demo.crew.tiles.nodes.length = 0 := by decide +kernel
  exact ⟨fun x hx => ⟨admitted_of (h.1 x hx).1, (h.1 x hx).2⟩, h.2.1, List.eq_nil_of_length_eq_zero h.2.2⟩

/-- R277's checks at the ends of their ranges: too long, a bad element size, beyond the scratchpad; and a LIN of nothing. -/
theorem test_copiesIssue_ends : copyChecks (demoBlock 0x1000000 0) (.cpyLin 0 0x88, 0) = (some 0x08, false) ∧
    copyChecks (demoBlock 0xFFFFFF 0) (.cpyLin 0 0x88, 0) = (none, false) ∧ copyChecks (demoBlock 3 1) (.cpyGather 0 0x88, 2) = (some 0x08, false) ∧
    copyChecks (demoBlock 4 4097) (.cpyGather 0 0x88, 2) = (some 0x08, false) ∧ copyChecks (demoBlock 0 0) (.cpyFill 0 0x88, 5) = (none, true) := by
  decide +kernel

/-- demoCopy with batch 0 sealed, the next number 1. -/
def demoSealed : State := { demoCopy with wave := { demoCopy.wave with batches := [[0]], nb := 1 } }

theorem test_batches_met : Admitted (.cbatchSeal 0x84) .copy demoCopy ∧ Admitted (.cbatchWait 0xC0) .copy demoSealed ∧
    Admitted (.cbatchTest 1 0xC0) .copy demoSealed ∧ openCommand demoSealed 0 ∧
    (1 + 65535 + 65536 - (readSrc demoSealed 0xC0 0).toNat % 65536) % 65536 = 0 ∧ (demoSealed.wave.nb + 65535 + 65536 - 0x8001 % 65536) % 65536 = 32767 ∧
    demo.wave.batches = [] :=
  ⟨admitted_of (by decide +kernel), admitted_of (by decide +kernel), admitted_of (by decide +kernel),
    (by decide +kernel : ∃ o ∈ demoSealed.crew.ops, o.id = 0), by decide +kernel, by decide +kernel, rfl⟩

/-- demoSealed with command 0 stopped by a trap that waits to be delivered. -/
def demoLate : State :=
  { demoSealed with crew := { demoSealed.crew with ops := demoSealed.crew.ops.map (fun o => { o with status := .late 0x02 }) } }

/-- A WAIT that was released; and one whose batch 0 holds a command with a late trap. -/
theorem test_batches_late : Admitted (.cbatchWait 0xC0) .copy { demoSealed with frag := { demoSealed.frag with resume := .released } } ∧
    Admitted (.cbatchWait 0xC0) .copy demoLate ∧ (∃ o ∈ demoLate.crew.ops, o.id = 0 ∧ ∃ k, o.status = .late k) ∧
    demoLate.wave.batches = [[0]] ∧ demoLate.frag.trapMode = false ∧ (∀ k, ¬ ∃ o ∈ demo.crew.ops, o.status = .late k) :=
  ⟨admitted_of (by decide +kernel), admitted_of (by decide +kernel), ⟨_, List.mem_of_getElem? (i := 0) rfl, by decide +kernel, _, rfl⟩,
    by decide +kernel, by decide +kernel, fun k => by rintro ⟨o, ho, _⟩; exact absurd ho List.not_mem_nil⟩

/-- What CopiesRun asks of a unit, as a computation. -/
def unitWitness (s : State) (u : Nat) : Bool :=
  engineReady s && (match opOf s with
    | some (c, o) => match o.body with
      | .copy p => match unitPlan c p u with
        | some x =>
          let io := ioOpen (stow s).dev (opAsker c o) c.ctx s.nfree o.memMark (unitSkips o (planTouches x)) (planTouches x)
          unitReady c o p u && x.cause.isNone && x.dst / 128 == (x.dst + x.len - 1) / 128 &&
            decide (0 < x.len) && (x.sSp.isSome || x.data.length == x.len) && io.good && (List.range x.len).all (fun i => !overlapOpen p (x.dst + i))
        | none => false
      | _ => false
    | none => false)

theorem test_copyUnits_met : unitWitness demoCopy 0 = true ∧ unitWitness (ran (.cpyFill 0 0x88) (demoBlock 64 0)) 0 = true ∧
    unitWitness (ran (.cpyTile 1 0x88) (demoBlock 0x10004 8)) 0 = true ∧ unitWitness (ran (.cpyGather 1 0x88) (demoBlock 4 8)) 7 = true ∧
    unitWitness (ran (.cpyScatter 1 0x88) (demoBlock 4 8)) 0 = true := by decide +kernel

/-- Whether operation 0 is a copy all of whose units are done. -/
def finishedCopy (s : State) : Bool :=
  engineReady s && (match opOf s with
    | some (_, o) => match o.body with
      | .copy p => copyFinished p
      | _ => false
    | none => false)

/-- The state with the body of operation 0 of its crew changed. -/
def withBody (f : OpBody → OpBody) (s : State) : State :=
  { s with crew := { s.crew with ops := s.crew.ops.map (fun o => if o.id == 0 then { o with body := f o.body } else o) } }

/-- The first n units of the copy done, with the data they read. -/
def unitsDone (n : Nat) (data : List (BitVec 8)) : OpBody → OpBody
  | .copy p => .copy { p with prog := n, data := data }
  | b => b

theorem test_copyCompletes_met : finishedCopy demoCopy = false ∧ finishedCopy (withBody (unitsDone 1 []) demoCopy) = true := by decide +kernel

/-- An XFORM of 64 bytes under way: s14 holds ROUTINE, OPT and STAT; the standard routines are installed. -/
def demoXform (r : Word) : State :=
  ran (.cpyXform 1 0x88) { demoBlock 64 16 with
    dev := { demo.dev with plat := { demo.dev.plat with sec := installStandard demo.dev.plat.sec } }
    wave := { (demoBlock 64 16).wave with s := [(8, 0x1000#32), (10, 0x8000#32), (12, 64#32), (14, r), (15, 16#32)] } }

/-- Before step 4 no routine is installed: the code is 5 (R292, R484). -/
theorem test_notInstalled : ((opOf (ran (.cpyXform 1 0x88) (demoBlock 64 16))).bind (fun q => match q.2.body with
    | .copy p => p.xf.bind Xform.code
    | _ => none)) = some 5 := by decide +kernel

/-- The call an XFORM's routine makes next. -/
def callOf (s : State) : Option Nat :=
  (opOf s).bind (fun q => match q.2.body with
    | .copy p => p.xf.bind (fun x =>
      if (unitPlan q.1 p p.prog).isSome then none
      else if plainRoutine x = true then
        if (earlyEnd q.2.fmt p.block x.routine).isSome then some 3 else if readsOn p.block x then some 1
        else if putsOn q.2.fmt p.block x then some 2 else if mayEnd q.2.fmt p.block x then some 3 else none
      else some (routineStop x).2)
    | _ => none)

/-- TRANSPOSE (routine 5) reads its input, then puts out its output; QUANT (routine 4) of this block ends at once; INFLATE
(routine 1) reads its input, here 64 zero bytes, a stored block whose NLEN is not the complement of its LEN, and ends. -/
theorem test_routineCalls_met : engineReady (demoXform 5) = true ∧ callOf (demoXform 5) = some 1 ∧
    callOf (ran (.getin 0 0) (demoXform 5)) = some 2 ∧ callOf (demoXform 4) = some 3 ∧ callOf (demoXform 1) = some 1 ∧
    callOf (ran (.getin 0 0) (demoXform 1)) = some 3 := by decide +kernel

/-- An XFORM that has ended writes its status word at offset 0, of which no word is written yet (R281, R294). -/
theorem test_statusWord_met : finishedCopy (ran (.endRoutine 0 0) (demoXform 4)) = true ∧
    (opOf (ran (.endRoutine 0 0) (demoXform 4))).map (fun q => match q.2.body with
      | .copy p => ((statusWord p).map Prod.fst, p.part.length)
      | _ => (none, 0)) = some (some 0, 0) := by decide +kernel

/-- Streams that zlib, liblz4 and libzstd write: what each decoder puts out, its last byte first, and where it stands. -/
theorem test_decoders : inflate [0x4B#8, 0x04#8, 0x00#8] = ⟨[0x61#8], .done⟩ ∧ inflate [0x4B#8] = ⟨[], .more⟩ ∧
    inflate [0x07#8] = ⟨[], .bad 1⟩ ∧
    lz4Block true [0x10#8, 0x61#8, 0x01#8, 0x00#8, 0x10#8, 0x62#8] = ⟨0x62#8 :: List.replicate 5 0x61#8, .done⟩ ∧
    lz4Block true [0x10#8, 0x61#8, 0x02#8, 0x00#8, 0x00#8] = ⟨[0x61#8], .bad 1⟩ := by decide +kernel

/-- libzstd's frame of ten times "ab" and three times " hello": one compressed block and the checksum. -/
theorem test_zstd : zstdFrames true [40, 181, 47, 253, 36, 38, 133, 0, 0, 64, 97, 98, 32, 104, 101, 108, 108, 111, 2, 0, 41,
    92, 201, 115, 88, 58, 11, 188, 166] =
    ⟨(List.replicate 3 [111#8, 108#8, 108#8, 101#8, 104#8, 32#8]).flatten ++ (List.replicate 10 [98#8, 97#8]).flatten, .done⟩ := by
  decide +kernel

/-- The transform core at its image's first instruction, its x registers set as listed, one byte in its output buffer. -/
def demoCore (l : List (Nat × Nat)) : Rv :=
  l.foldl (fun h p => h.setX p.1 (BitVec.ofNat 64 p.2)) ⟨⟨0x80000000#64 :: List.replicate 328 0#64, [], [], [7#8]⟩, none⟩

/-- How an image of these words stops (0 a call, 1 an exception), and a0 there. -/
def coreRun (ws : List Nat) (l : List (Nat × Nat)) : Nat × Nat :=
  let r := rvRun (ws.flatMap (bytesLE 4)) 9 (demoCore l)
  (r.2, (xReg r.1 10).toNat)

/-- Words of the RISC-V manual, each run to an ECALL: ADDI and ADD, C.LI and C.NOP, MUL, DIV by zero, FCVT.S.W, FADD.S and
FCVT.W.S, SB and LBU in the output buffer. -/
theorem test_coreScalar : coreRun [0x00500513, 0x00A50533, 0x73] [] = (0, 10) ∧ coreRun [0x00014515, 0x73] [] = (0, 5) ∧
    coreRun [0x02B50533, 0x73] [(10, 7), (11, 2 ^ 64 - 3)] = (0, 2 ^ 64 - 21) ∧
    coreRun [0x02A5C533, 0x73] [(11, 5)] = (0, 2 ^ 64 - 1) ∧
    coreRun [0xD0057553, 0x00A57553, 0xC0057553, 0x73] [(10, 21)] = (0, 42) ∧
    coreRun [0x00A50023, 0x00054503, 0x73] [(10, 0x12003)] = (0, 3) := by decide +kernel

/-- VSETIVLI of two doublewords, VID, VADD.VI of 3, then VREDSUM and VMV.X.S, or VSE64 and LD of the second. -/
theorem test_coreVector : coreRun [0xCD817057, 0x5208A0D7, 0x0211B157, 0x0220A1D7, 0x42302557, 0x73] [] = (0, 7) ∧
    coreRun [0xCD817057, 0x5208A0D7, 0x0211B157, 0x0205F127, 0x0085B503, 0x73] [(11, 0x100)] = (0, 4) := by decide +kernel

/-- A load outside the ranges, a store to the input buffer, a parcel of zeros, and the hypotheses of `transformCore` met (R291). -/
theorem test_coreFaults : (coreRun [0x00050503, 0x73] [(10, 0x14000)]).1 = 1 ∧ (coreRun [0x00A50023, 0x73] [(10, 0x10000)]).1 = 1 ∧
    (coreRun [0] []).1 = 1 ∧ rvFetch (bytesLE 4 0x00050503) (demoCore [(10, 0x14000)]) = some (0x00050503, 4) ∧
    rvFetch (bytesLE 4 0x73) (demoCore []) = some (0x73, 4) ∧ rvParcel (bytesLE 4 0) (demoCore []) 0x80000000 = some 0 ∧
    ((demoCore []).goto 0x80040000#64).pc.toNat = 0x80040000 := by decide +kernel

/-- A routine that runs on the interpreter makes the call its run stops at, whichever it is (R292; assumption 41). -/
theorem test_routineCalls_loaded (c : Crew) (o : Op) (p : CopyOp) (x : Xform) (h : x.code = none)
    (hu : unitPlan c p p.prog = none) (hr : plainRoutine x = false) : makesCall c o p x (routineStop x).2 := by
  unfold makesCall; simp [h, hu, hr]

/-! ### Hypotheses met: products, weight slots, the tile store -/

/-- demo with a block of four or eight words at s8, its tile store above the mark 4096 allocated to nodes. -/
def demoWords (l : List Word) : State :=
  { demo with
    wave := { demo.wave with s := l.mapIdx (fun k x => (8 + k, x)) }
    crew := { demo.crew with tiles := { demo.crew.tiles with mark := 4096 } } }

/-- MMAT's block: A at 0, rows of 64 bytes, D at 0, m and ng in word 3 (R373). -/
def demoMat (m ng : Nat) : State := demoWords [0, 64, 0, BitVec.ofNat 32 (m + 256 * ng)]

theorem test_productsIssue_met : Admitted (.mmao 0 0 0x00 0x10) .matrix demo ∧ productFits demo 0 0 32 16 ∧ FlagFree demo ∧
    matRegs 0 + matScales 0 demo.frag.fmt 32 = 16 ∧ Admitted (.mmat 0 0 0x88) .matrix (demoMat 1 1) ∧ matFmtOk 0 (demoMat 1 1).frag.fmt = true ∧
    slotMine demo.crew (slotAhead demo 0) = false ∧ (demoMat 64 1).crew.tiles.mark = 64 * 64 * 1 ∧ matFmtOk 2 0 = false ∧
    0 + 1 * 64 + 1 * 0 ≤ demo.crew.scratchSize ∧ 4 * matScales 0 (demoMat 1 1).frag.fmt 32 = 0 :=
  ⟨admitted_of (by decide +kernel), by unfold productFits; decide +kernel, by unfold FlagFree; decide +kernel, by decide +kernel,
    admitted_of (by decide +kernel), by decide +kernel, by decide +kernel, rfl, by decide +kernel, by decide +kernel, by decide +kernel⟩

/-- Operation 0 is a product in its slot's and the tile store's turn. -/
def productReady (s : State) : Bool :=
  engineReady s && (match opOf s with
    | some (c, o) => match o.body with
      | .mmao m => slotTurn (stow s).dev c m.slot o && o.taintV.isEmpty && m.rows.all (fun r => decide (r.1 < 96)) &&
          decide ((m.rows.map Prod.fst).Nodup)
      | .mmat m => slotTurn (stow s).dev c m.slot o && tileTurn c o
      | _ => false
    | none => false)

theorem test_productsComplete_met : productReady (flying (.mmao 0 0 0x00 0x10)) = true ∧
    productReady (ran (.mmat 0 0 0x88) (demoMat 1 1)) = true := by decide +kernel

/-- A weight load's block: 32 rows and 16 columns of the format EF 0, rows of 64 bytes from scratchpad offset 0 on (R357). -/
def demoWeights (ef : Word) (src : Word) : State := demoWords [src, 0, 0x40#32 ||| ef, 0x00100020, 64, 0, 0, 0]

theorem test_weightInstructions_met : Admitted (.wbufLoad 1 0x88) .matrix (demoWeights 0 0) ∧
    WLoad.cause ((List.range 8).map (fun k => readS (demoWeights 0 0) (8 + k))) 8192 = none ∧
    WLoad.cause ((List.range 8).map (fun k => readS (demoWeights 0 2) (8 + k))) 8192 = some 0x07 ∧
    WLoad.cause ((List.range 8).map (fun k => readS (demoWeights 0 8192) (8 + k))) 8192 = some 0x06 ∧
    WLoad.cause ((List.range 8).map (fun k => readS (demoWeights 15 0) (8 + k))) 8192 = some 0x08 ∧
    Admitted (.wbufMcast 1 0x88) .matrix (demoWeights 0 0) ∧ Admitted (.wbufInval 1) .matrix demo ∧ slotBusy demo 1 = false ∧
    slotBusy (ran (.wbufLoad 1 0x88) (demoWeights 0 0)) 1 = true ∧ Admitted (.wbufQuery 1 0x84) .matrix demo ∧
    slotOf demo.dev 0 1 = default ∧ patchOk 0 (jobHere (demoPatch 0 0)).card 0 0 = true :=
  ⟨admitted_of (by decide +kernel), by decide +kernel, by decide +kernel, by decide +kernel, by decide +kernel,
    admitted_of (by decide +kernel), admitted_of (by decide +kernel), by decide +kernel, by decide +kernel,
    admitted_of (by decide +kernel), by decide +kernel, by decide +kernel⟩

/-- Whether the load's source is read, and its slot's turn come. -/
def loadReady (s : State) (f : Nat) : Bool :=
  engineReady s && (match opOf s with
    | some (c, o) => match o.body with
      | .copy p => decide ((WLoad.ofBlock p.block).units.length ≤ p.prog) && slotTurn (stow s).dev c f o
      | _ => false
    | none => false)

/-- A load of one row of 16 columns, before its one unit and after it. -/
theorem test_weightCompletes_met :
    let s := ran (.wbufLoad 1 0x88) (demoWords [0, 0, 0x40, 0x00100001, 32, 0, 0, 0])
    engineReady s = true ∧ loadReady s 1 = false ∧ loadReady (withBody (unitsDone 1 (List.replicate 32 0#8)) s) 1 = true := by decide +kernel

/-- TSMOV's block: tile offset h, word 1 with rows and row bytes, base 0x8000. -/
def demoMove (h w : Word) : State := demoWords [h, w, 0x8000, 0]

theorem test_tileMovesIssue_met :
    (∀ i ∈ [Instr.tsmovToreg 0 0x88 0x10, .tsmovFromreg 0 0x88 0x10, .tsmovTomem 0x88 0x84, .tsmovFrommem 0x88 0x84],
      Admitted i .matrix (demoMove 0 0x10004)) ∧ rangeCanonical 0x8000 4 = true ∧
    (readS (demoMove 4092 0) 8).toNat + 4 ≤ (demoMove 4092 0).crew.tiles.mark ∧ (demoMove 4096 0).crew.tiles.mark < (readS (demoMove 4096 0) 8).toNat + 4 ∧
    (readS (demoMove 2 0) 8).toNat % 4 ≠ 0 ∧ rangeCanonical (2 ^ 56 - 2) 4 = false := by
  refine ⟨fun i hi => admitted_of ?_, by decide +kernel⟩
  exact (by decide +kernel : ∀ i ∈ [Instr.tsmovToreg 0 0x88 0x10, .tsmovFromreg 0 0x88 0x10, .tsmovTomem 0x88 0x84, .tsmovFrommem 0x88 0x84],
      admits (demoMove 0 0x10004) .matrix i = true) i hi

/-- What TileMoves asks of operation 0. -/
def moveReady (s : State) : Bool :=
  engineReady s && (match opOf s with
    | some (c, o) => match o.body with
      | .tsreg q => tileTurn c o && o.taintV.isEmpty && (!q.toReg || q.vals.isEmpty) &&
          q.vals.all (fun v => decide (v.1 < 96) && decide (v.2.1 < q.n)) && decide ((q.vals.map (fun v => (v.1, v.2.1))).Nodup)
      | .copy p => match p.kind with
        | .tsmov d n => decide ((tsmovUnits p d n).length ≤ p.prog)
        | _ => false
      | _ => false
    | none => false)

theorem test_tileMovesComplete_met : moveReady (ran (.tsmovToreg 0 0x88 0x10) (demoMove 0 0)) = true ∧
    moveReady (ran (.tsmovFromreg 1 0x88 0x10) (demoMove 0 0)) = true ∧
    engineReady (ran (.tsmovTomem 0x88 0x84) (demoMove 0 0x10004)) = true ∧
    moveReady (withBody (unitsDone 1 []) (ran (.tsmovTomem 0x88 0x84) (demoMove 0 0x10004))) = true := by decide +kernel

/-- The queue of the copy engine is full, of commands of this crew (R286). -/
def crowded (s : State) : State :=
  { s with crew := { s.crew with ops := (List.range 32).flatMap (fun k => demoCopy.crew.ops.map (fun o => { o with id := k, flag := none })) } }

theorem test_copyRoom_met : (∀ s ∈ [demoWeights 0 0, demoMove 0 0x10004, demoBlock 4 8], copyRoom s = true ∧ copyRoom (crowded s) = false) ∧
    Admitted (.wbufLoad 1 0x88) .matrix (crowded (demoWeights 0 0)) ∧ Admitted (.tsmovTomem 0x88 0x84) .matrix (crowded (demoMove 0 0x10004)) ∧
    Admitted (.cpyFill 0 0x88) .copy (crowded (demoBlock 4 8)) :=
  ⟨by decide +kernel, admitted_of (by decide +kernel), admitted_of (by decide +kernel), admitted_of (by decide +kernel)⟩

/-! ### Hypotheses met: deferred tiles -/

/-- A thunk partition of 16 entries; the block l at s8. -/
def demoThunks (l : List Word) : State := { demoWords l with crew := { (demoWords l).crew with thunkMax := 16 } }

/-- A view's block (R386): base 0, cols columns, D1 rows, strides of 64, 4, 4 bytes, its space. -/
def viewBlock (base cols d1 space : Nat) : List Word :=
  [BitVec.ofNat 32 base, 0, BitVec.ofNat 32 (cols + 65536 * d1), 0x00010001, 64, 4, 4, BitVec.ofNat 32 space]

/-- Names 1 and 2 bound to constants of 2 by 2 and name 3 to one of 2 by 4, s8 and s9 the last one's block; l at s8 after that. -/
def demoNodes (l : List Word) : State :=
  let a := ran (.tdefConst 1 0x88) (demoThunks [0x3F800000, 0x00020002])
  let b := ran (.tdefConst 2 0x88) a
  let c := ran (.tdefConst 3 0x88) { b with wave := { b.wave with s := [(8, 0x3F800000#32), (9, 0x00020004#32)] } }
  { demoThunks l with crew := c.crew }

theorem test_tileLeaves_met :
    (∀ q ∈ [(0, 4, 4, 0), (0, 4, 4, 1), (0, 16384, 1, 2), (2, 4, 4, 1), (8192, 1, 1, 1), (0, 0, 1, 0), (0, 16385, 1, 0), (0, 1, 1, 3)],
      Admitted (.tdefView 15 1 0x88) .matrix (demoThunks (viewBlock q.1 q.2.1 q.2.2.1 q.2.2.2))) ∧
    Admitted (.tdefConst 1 0x88) .matrix (demoThunks [0x7F800001, 0x00020002]) ∧ entryFree (demoThunks []) true ∧
    shapeOk 16384 1024 = true ∧ shapeOk 16384 1025 = false ∧ shapeOk 0 1 = false ∧ demo.crew.thunkMax = 0 ∧ tileSizeOf 15 = 4 ∧
    rangeCanonical 0 (3 * 64 + 16) = true := by
  refine ⟨fun q hq => admitted_of ?_, admitted_of (by decide +kernel), by unfold entryFree; decide +kernel, by decide +kernel⟩
  exact (by decide +kernel : ∀ q ∈ [(0, 4, 4, 0), (0, 4, 4, 1), (0, 16384, 1, 2), (2, 4, 4, 1), (8192, 1, 1, 1), (0, 0, 1, 0), (0, 16385, 1, 0), (0, 1, 1, 3)],
      admits (demoThunks (viewBlock q.1 q.2.1 q.2.2.1 q.2.2.2)) .matrix (.tdefView 15 1 0x88) = true) q hq

/-- The number of nodes after an instruction, and the cause it traps with, if any. -/
def nodesAfter (i : Instr) (s : State) : Nat × Option Nat :=
  let t := ran i s
  (t.crew.tiles.nodes.length, if t.frag.trapMode then some (t.frag.ecause.toNat % 256) else none)

/-- A view with room is appended, and the checks stop others: 0x08, 0x07, 0x06 (R386). -/
theorem test_tileLeaves_ends : nodesAfter (.tdefView 15 1 0x88) (demoThunks (viewBlock 0 4 4 1)) = (1, none) ∧
    nodesAfter (.tdefView 15 1 0x88) (demoThunks (viewBlock 0 0 1 1)) = (0, some 0x08) ∧
    nodesAfter (.tdefView 15 1 0x88) (demoThunks (viewBlock 2 4 4 1)) = (0, some 0x07) ∧
    nodesAfter (.tdefView 15 1 0x88) (demoThunks (viewBlock 8192 1 1 1)) = (0, some 0x06) := by decide +kernel

theorem test_tileOperations_met : Admitted (.top 4 1 2 0) .matrix (demoNodes []) ∧ Admitted (.top 4 1 0 2) .matrix (demoNodes []) ∧
    Admitted (.top 4 1 3 0x10) .matrix (demoNodes []) ∧ Admitted (.tmap 4 3 0 0) .matrix (demoNodes []) ∧ entryFree (demoNodes []) false ∧
    (boundNode (demoNodes []).crew 1).isSome = true ∧ (boundNode (demoNodes []).crew 3).isSome = true ∧ boundNode (demoNodes []).crew 5 = none ∧
    mapShape 0 [] 2 4 = some (4, 2) ∧ mapShape 1 [0, 0, 3, 1] 2 4 = none :=
  ⟨admitted_of (by decide +kernel), admitted_of (by decide +kernel), admitted_of (by decide +kernel), admitted_of (by decide +kernel),
    by unfold entryFree; decide +kernel, by decide +kernel⟩

/-- A sum of equal shapes and a transpose are appended; shapes that differ and an unbound name are illegal. -/
theorem test_tileOperations_ends : nodesAfter (.top 4 1 2 0) (demoNodes []) = (4, none) ∧ nodesAfter (.tmap 4 3 0 0) (demoNodes []) = (4, none) ∧
    nodesAfter (.top 4 1 3 0) (demoNodes []) = (3, some 0x08) ∧ nodesAfter (.tmap 4 5 0 0) (demoNodes []) = (3, some 0x08) := by decide +kernel

/-- A demand's block for STORE: the whole 2 by 2 node from row 0, column 0 on, to scratchpad offset 0x100, rows 64 bytes apart (R395). -/
def storeBlock (rows : Word) : List Word := [0, 0, rows, 2, 0x100, 0, 64, 1]

theorem test_demandsIssue_met : Admitted (.tdemStore 15 1 0x88) .matrix (demoNodes (storeBlock 0)) ∧
    Admitted (.tdemStore 15 1 0x88) .matrix (demoNodes (storeBlock 2)) ∧ Admitted (.tdemStore 15 1 0x88) .matrix (demoNodes (storeBlock 3)) ∧
    Admitted (.tdemForce 1 0x88) .matrix (demoNodes [0, 0, 2, 2, 0]) :=
  ⟨admitted_of (by decide +kernel), admitted_of (by decide +kernel), admitted_of (by decide +kernel), admitted_of (by decide +kernel)⟩

/-- A region inside the node issues, an empty one goes on, one beyond it and an unbound name are illegal. -/
theorem test_demandsIssue_ends : (ran (.tdemStore 15 1 0x88) (demoNodes (storeBlock 2))).crew.ops.length = 1 ∧
    (ran (.tdemStore 15 1 0x88) (demoNodes (storeBlock 0))).crew.ops.length = 0 ∧
    nodesAfter (.tdemStore 15 1 0x88) (demoNodes (storeBlock 3)) = (3, some 0x08) ∧
    nodesAfter (.tdemForce 5 0x88) (demoNodes [0, 0, 2, 2, 0]) = (3, some 0x08) ∧
    nodesAfter (.tdemForce 1 0x88) (demoNodes [0, 0, 2, 2, 2]) = (3, some 0x07) ∧
    nodesAfter (.tdemForce 1 0x88) (demoNodes [0, 0, 2, 2, 4096]) = (3, some 0x06) := by decide +kernel

theorem test_tileControls_met : Admitted (.tdemDrop 1) .matrix (demoNodes []) ∧ Admitted (.tdemQuery 1 0x84) .matrix (demoNodes []) ∧
    Admitted (.tdemDiscard 0x88) .matrix (demoNodes [0x1000]) ∧ 0x1000 % 1024 = 0 ∧ (demoNodes []).crew.tileSize = 8192 ∧
    engKib (demoNodes []).crew ≤ 4 :=
  ⟨admitted_of (by decide +kernel), admitted_of (by decide +kernel), admitted_of (by decide +kernel), by decide +kernel⟩

/-- What TileEvaluation asks of a demand, its number of blocks, and whether its next block's pages are at hand. -/
def demandReady (s : State) : Bool × Nat × Nat :=
  match opOf s with
  | some (c, o) => match o.body with
    | .demand d => (engineReady s && d.kind != .own && (nodeAt c d.node).isSome && demandTurn c o d && d.vals.isEmpty &&
        (blockReads s c o d).good, blockCount d.row0 d.col0 d.rows d.cols, d.done)
    | _ => (false, 0, 0)
  | none => (false, 0, 0)

/-- A demand's first block evaluated to four ones, and written. -/
def blockValued : OpBody → OpBody
  | .demand d => .demand { d with vals := List.replicate 4 0x3F800000#32 }
  | b => b
def blockWritten : OpBody → OpBody
  | .demand d => .demand { d with done := 1 }
  | b => b

theorem test_demandsRun_met :
    demandReady (ran (.tdemStore 15 1 0x88) (demoNodes (storeBlock 2))) = (true, 1, 0) ∧
    demandReady (ran (.tdemForce 1 0x88) (demoNodes [0, 0, 2, 2, 0])) = (true, 1, 0) ∧
    (demandReady (withBody blockWritten (ran (.tdemForce 1 0x88) (demoNodes [0, 0, 2, 2, 0])))).2 = (1, 1) := by decide +kernel

/-- What blocksWritten asks of a demand whose block is evaluated. -/
def blockReady (s : State) : Bool :=
  match opOf s with
  | some (c, o) => match o.body with
    | .demand d =>
      let ws := blockWrites d (blockRect d d.done)
      engineReady s && demandTurn c o d && d.vals.length == 4 &&
        ws.all (fun w => ws.all (fun v => (List.range w.2.length).all (fun i => (List.range v.2.length).all (fun j =>
          w.1 + i != v.1 + j || (w == v && i == j)))))
    | _ => false
  | none => false

theorem test_blocksWritten_met : blockReady (withBody blockValued (ran (.tdemStore 15 1 0x88) (demoNodes (storeBlock 2)))) = true ∧
    blockReady (withBody blockValued (ran (.tdemForce 1 0x88) (demoNodes [0, 0, 2, 2, 0]))) = true := by decide +kernel

/-- A partition of three entries, full: name 3 a sum. -/
def demoThunkFull : State := { demoNodes [] with crew := { (ran (.top 3 1 2 0) (demoNodes [])).crew with thunkMax := 3 } }

/-- What nodeMaterialises asks, of the node the forcing evaluates. -/
def ownReady (s : State) : Bool :=
  match findCrew (stow s).dev s.crew.uid with
  | some c => match (demandsOf c).find? (fun e => e.2.kind == .own) with
    | some (o, d) => o.status == .inflight && (heldLanes c.ops o &&& o.order) == 0#96 && demandTurn c o d &&
        (match nodeAt c d.node with | some y => fitsEngine c y | none => false) && (blockReads s c o d).good &&
        (List.range 64).any (fun k => boundNode c k == some d.node)
    | none => false
  | none => false

theorem test_nodeMaterialises_met : ownReady (ran (.top 4 1 2 0) demoThunkFull) = true := by decide +kernel

/-! ### Hypotheses met: the chain engine -/

/-- A job whose CHAINBUF is 0x8000. -/
def demoJobs : List Job := [{ (default : Job) with id := 1#64, card := { (default : Card) with w := 8, h := 6, chainbuf := 0x8000#64 } }]

/-- The block l at s8, the job at hand, the chain's descriptor at 0x5000: one core of 2 bytes at scratchpad offset 0x1000. -/
def demoChain (l : List Word) : State :=
  { demoWords l with
    crew := { (demoWords l).crew with job := 1#64 }
    dev := { demo.dev with jobs := demoJobs, mem := tables ++ [(0x5000, 1#8), (0x5021, 0x10#8), (0x502A, 1#8), (0x5034, 2#8)] } }

/-- BIND's block (R423): DESC 0x5000, base b, size z. -/
def bindBlock (desc b z : Nat) : List Word := [BitVec.ofNat 32 desc, 0, BitVec.ofNat 32 b, BitVec.ofNat 32 z]

theorem test_chainBind_met :
    (∀ q ∈ [(0x5000, 0, 128), (0x5000, 0, 524288), (0x5000, 64, 128), (0x5001, 0, 128), (0x5000, 8192, 128)],
      Admitted (.chBind 0x88 0x84) .matrix (demoChain (bindBlock q.1 q.2.1 q.2.2))) ∧ modesNamed 0 [] ∧ modesNamed 0x9F80 [0, 31] ∧
    ((([] : List Nat).map (mdOf (chainLast demo.crew))).foldl (· * ·) 1 * bdOf (chainLast demo.crew) 0 * 4 ≤ 128) := by
  refine ⟨fun q hq => admitted_of ?_, by unfold modesNamed; decide, by unfold modesNamed; decide, by decide +kernel⟩
  exact (by decide +kernel : ∀ q ∈ [(0x5000, 0, 128), (0x5000, 0, 524288), (0x5000, 64, 128), (0x5001, 0, 128), (0x5000, 8192, 128)],
      admits (demoChain (bindBlock q.1 q.2.1 q.2.2)) .matrix (.chBind 0x88 0x84) = true) q hq

/-- The chain bound. -/
def demoBound : State := { ran (.chBind 0x88 0x84) (demoChain (bindBlock 0x5000 0 256)) with wave := (demoChain [0x0C000000, 0]).wave }

theorem test_chainOps_met : demoBound.crew.chain.bound = true ∧ demoBound.crew.chain.bytes = 4 ∧ demoBound.crew.chainQ = [] ∧
    Admitted (.chBond 0xC0 3) .matrix demoBound ∧ Admitted (.chMode 0xC1 3) .matrix demoBound ∧ Admitted .chReset .matrix demoBound ∧
    Admitted (.chQuery 0x84) .matrix demoBound ∧ Admitted (.chStep 0x88) .matrix demoBound ∧ Admitted (.chRun 0x88 0xC1) .matrix demoBound ∧
    Admitted (.chEnv 0xC1) .matrix demoBound ∧ (chainLast demoBound.crew).bound = true ∧ chainBuf demoBound.dev demoBound.crew.job = 0x8000 ∧
    FlagFree demoBound ∧ (chainLast demo.crew).bound = false :=
  ⟨by decide +kernel, by decide +kernel, by decide +kernel, admitted_of (by decide +kernel), admitted_of (by decide +kernel),
    admitted_of (by decide +kernel), admitted_of (by decide +kernel), admitted_of (by decide +kernel), admitted_of (by decide +kernel),
    admitted_of (by decide +kernel), by decide +kernel, by decide +kernel, by unfold FlagFree; decide +kernel, by decide +kernel⟩

/-- What ChainEngine asks of operation 0's next step. -/
def stepReady (s : State) : Bool :=
  engineReady s && (match opOf s with
    | some (c, o) => match o.body with
      | .chain h =>
        let w := StepWord.ofNat h.word.toNat
        let st := c.chain
        let ts : List Touch := [⟨st.desc.toNat, 32, false⟩, ⟨st.desc.toNat + 32 + 32 * w.core, 32, false⟩]
        let rd := ioOpen (stow s).dev (opAsker c o) c.ctx s.nfree o.memMark (unitSkips o ts) ts
        let hd := rd.read st.desc.toNat 32
        let e := CoreEntry.ofBytes (rd.read (st.desc.toNat + 32 + 32 * w.core) 32)
        chainHead c == some 0 && decide (h.sdone < h.steps) && rd.good && e.space && h.got && h.entry.isEmpty && h.dst.isNone &&
          decide (stepCheck c st o.fmt (chainBuf rd.dev c.job) (natLE (hd.take 1)) ((hd.drop 1).any (fun b => b != 0#8)) w e = none) &&
          !w.e && !e.wb && (stepPlace st (stepDims st o.fmt w).bytes).isSome
      | _ => false
    | none => false)

theorem test_chainSteps_met : stepReady (ran (.chStep 0x88) demoBound) = true := by decide +kernel

/-- Operation 0 is at the head of its chain with no step left. -/
def chainDone (s : State) : Bool :=
  engineReady s && (match opOf s with
    | some (c, o) => match o.body with
      | .chain h => chainHead c == some 0 && decide (h.steps ≤ h.sdone) && c.chainQ.tail.all (fun i => i != .op 0)
      | _ => false
    | none => false)

/-- The step of a STEP taken. -/
def stepDone : OpBody → OpBody
  | .chain h => .chain { h with sdone := 1 }
  | b => b

/-- STEP has a step left, and after it none. -/
theorem test_chainCompletes_met : chainDone (ran (.chStep 0x88) demoBound) = false ∧
    chainDone (withBody stepDone (ran (.chStep 0x88) demoBound)) = true := by decide +kernel

/-- ENV has no step, and its snapshot's page is at hand. -/
theorem test_chainEnv_met : chainDone (ran (.chEnv 0xC1) demoBound) = true ∧
    (ioOpen (stow demoBound).dev (fragAsker demoBound) 0 0 0 false [⟨0x8000, 32 + 4, true⟩]).good = true := by decide +kernel

/-! ### Hypotheses met: samples and traversals -/

/-- No translation and no line is held. -/
def cold (s : State) : State := { s with dev := { s.dev with tlb := [], walks := [], pc := demo.dev.pc } }

/-- A pool of one texture at 0x5000 (R342, R345): 1 by 1 texel, format 1, with its texels at 2 ^ 16 · hi + 0x6000; CLOSEST's root at s8. -/
def demoTexture (hi : BitVec 8) (f : BitVec 8) : State :=
  { demoWords [0x6000, 0] with
    dev := { demo.dev with
      mem := tables ++ (if hi = 0 then [(0x5001, 0x60#8)] else [(0x5001, 0x60#8), (0x5003, hi)]) ++
        [(0x5008, 64#8), (0x5010, f), (0x5011, 1#8), (0x5014, 16#8), (0x5018, 1#8), (0x501A, 1#8)]
      contexts := [(0, { (ctxOf demo.dev 0) with words := [(0x400, 0x40#32), (0x500, 0x5000#32), (0x502, 1#32)] })] } }

/-- SMP's descriptor, as samplesIssue reads it, its cause. -/
def textureOf (s : State) : Bool × Option Nat :=
  let io := ioOpen s.dev (fragAsker s) 0 0 0 false [⟨0x5000, 32, false⟩]
  (io.good, textureCause (io.read 0x5000 32))

theorem test_samplesIssue_met : (∀ i ∈ [Instr.smpBil 4 0xC0, .smpPt 4 0xC0, .smpGather4 3 4 0xC0], Admitted i .traversal (demoTexture 0 1)) ∧
    (ctxWord (demoTexture 0 1) 0x502).toNat = 1 ∧ (readSrc (demoTexture 0 1) 0xC0 0).toNat = 0 ∧ smpRoom (demoTexture 0 1) = true ∧
    pendingFor (demoTexture 0 1).crew.ops 0 1#96 = false ∧ textureOf (demoTexture 0 1) = (true, none) ∧ textureOf (demoTexture 0 0) = (true, some 0x03) := by
  refine ⟨fun i hi => admitted_of ?_, by decide +kernel⟩
  exact (by decide +kernel : ∀ i ∈ [Instr.smpBil 4 0xC0, .smpPt 4 0xC0, .smpGather4 3 4 0xC0],
    admits (demoTexture 0 1) .traversal i = true) i hi

theorem test_tracesIssue_met : (∀ i ∈ [Instr.traceClosest 0 8 0x88, .traceAny 1 8 0x88, .traceQuery 0x84], Admitted i .traversal (demoTexture 0 1)) ∧
    (readS64 (demoTexture 0 1) 8).toNat % 128 = 0 ∧ (readS64 (demoWords [0x6001, 0]) 8).toNat % 128 ≠ 0 ∧
    canonical (readS64 (demoWords [0, 0x80000000]) 8) = false ∧ traceRoom (demoTexture 0 1) = true := by
  refine ⟨fun i hi => admitted_of ?_, by decide +kernel⟩
  exact (by decide +kernel : ∀ i ∈ [Instr.traceClosest 0 8 0x88, .traceAny 1 8 0x88, .traceQuery 0x84],
    admits (demoTexture 0 1) .traversal i = true) i hi

/-- What the lanes of operation 0, a sample, meet: all read (some true), pages missing and no trap (some false). -/
def sampleMeets (s : State) : Option Bool :=
  match opOf s with
  | some (c, o) => match o.body with
    | .smp y => y.desc.bind (fun desc =>
      let rs := (readLanes (stow s) c o y (Texture.ofBytes desc) (stow s).dev (y.coords.filter (fun p => !y.done.getLsbD p.1))).2
      if rs.all (fun r => r.io.good) then some true
      else if rs.any (fun r => !r.io.miss.isEmpty) && rs.all (fun r => r.io.trap.isNone && !r.io.poison) then some false else none)
    | _ => none
  | none => none

theorem test_samplesEnd_met : engineReady (cold (ran (.smpPt 4 0xC0) (demoTexture 0 1))) = true ∧
    sampleMeets (cold (ran (.smpPt 4 0xC0) (demoTexture 0 1))) = some true ∧
    sampleMeets (cold (ran (.smpPt 4 0xC0) (demoTexture 0x40 1))) = some false := by decide +kernel

/-- The same of a traversal. -/
def traceMeets (s : State) : Option Bool :=
  match opOf s with
  | some (c, o) => match o.body with
    | .trace y =>
      let rs := (runLanes ⟨opAsker c o, c.ctx, s.nfree, o, y.any, y.cull⟩ y.root.toNat (stow s).dev (y.lanes.filter (fun x => !x.ended))).2
      if rs.all (fun r => r.stop.isNone && r.x.ended) then some true
      else if rs.any (fun r => r.stop.isSome) && rs.all (fun r => match r.stop with | some io => !io.miss.isEmpty && io.trap.isNone && !io.poison | none => true)
        then some false else none
    | _ => none
  | none => none

/-- A ray along x, from 0 to 1, and the root's address at s8. -/
def demoRay (root : Word) : State :=
  { demoTexture 0 1 with wave := { (demoWords [root, 0]).wave with v := [(1056, 0x3F800000#32), (1440, 0x3F800000#32)] } }

/-- A root of zeros, and a root on a page that is not present. -/
theorem test_tracesEnd_met : engineReady (cold (ran (.traceAny 1 8 0x88) (demoRay 0x6000))) = true ∧
    traceMeets (cold (ran (.traceAny 1 8 0x88) (demoTexture 0 1))) = some true ∧
    traceMeets (cold (ran (.traceAny 1 8 0x88) (demoRay 0x40000000))) = some false := by decide +kernel

/-- A key is being installed: the descriptor's read waits, with the crew under a forced save and not; and a descriptor on a
page that is not present, which is left to the engine. -/
theorem test_samplesWait_met :
    (let io := ioOpen (keyed (demoTexture 0 1)).dev (fragAsker demo) 0 0 0 false [⟨0x5000, 32, false⟩]
     (io.good, io.wait, io.miss.isEmpty, io.trap.isNone, io.poison)) = (false, true, true, true, false) ∧
    (let io := ioOpen (demoTexture 0 1).dev (fragAsker demo) 0 0 0 false [⟨0x40000000, 32, false⟩]
     io.miss.isEmpty) = false ∧
    Admitted (.smpPt 4 0xC0) .traversal (keyed (demoTexture 0 1)) ∧ (keyed (demoTexture 0 1)).crew.forced = false ∧
    Admitted (.smpPt 4 0xC0) .traversal { keyed (demoTexture 0 1) with crew := { demo.crew with forced := true } } :=
  ⟨by decide +kernel, by decide +kernel, admitted_of (by decide +kernel), by decide +kernel, admitted_of (by decide +kernel)⟩

/-! ### Hypotheses met: jobs and dispatch -/

/-- At 0x5000 a card: ENTRY 0x100, four records of 32 bytes, one crew on core (0, 0), one wave, 32 v- and 16 s-registers (R148). -/
def cards : List Host.Cell :=
  tables ++ [(0x5001, 1#8), (0x5010, 32#8), (0x5014, 4#8), (0x501A, 1#8), (0x501B, 1#8), (0x501C, 1#8), (0x501D, 32#8), (0x501E, 16#8)]

/-- The words l at s8; the crew is job 1's, which has the card but a job's own id. -/
def demoJob (l : List Word) : State :=
  { demoWords l with
    dev := { demo.dev with mem := cards, jobs := [{ (default : Job) with id := 1#64, card := { (default : Card) with w := 8, h := 6, recbase := 0x8000#64, recsize := 64, reccount := 10 } }] }
    crew := { (demoWords l).crew with job := 1#64 } }

/-- A barrier object of one arrival stands at scratchpad offset 0, as in demoBar. -/
def demoJobBar (l : List Word) : State := { demoJob l with crew := { (demoJob l).crew with scratch := [(0, 1#8), (2, 1#8), (12, 1#8)] } }

theorem test_jobInstructions_met :
    (∀ i ∈ [Instr.jobLaunch 0x88 0x84, .jobTrig, .jobDepwait 0x84, .jobYield, .jobYieldonBar 0x88 0x8A, .jobYieldonFlg 0x88 0x84],
      Admitted i .control (demoJob [0x5000, 0, 0, 0])) ∧ Admitted (.jobNext 0x84) .control (demoJob []) ∧
    pendingFor (demoJob []).crew.ops 0 1#96 = false ∧ (translate64 (demoJob []).dev (fragAsker (demoJob [])) 0 0 0x5000 wantRead).1 = .ok 0x5000 0 ∧
    (findJob (demoJob []).dev 1#64).isSome = true ∧ (barAt (demoJobBar []).crew 0).valid = true ∧
    ((barAt (demoJobBar []).crew 0).phase + 256 - 0) % 256 = 0 ∧ ((barAt (demoJobBar []).crew 0).phase + 256 - 255 % 256) % 256 = 1 ∧
    ((barAt (demoJobBar []).crew 0).phase + 256 - 127 % 256) % 256 = 129 := by
  refine ⟨fun i hi => admitted_of ?_, admitted_of (by decide +kernel), by decide +kernel⟩
  exact (by decide +kernel : ∀ i ∈ [Instr.jobLaunch 0x88 0x84, .jobTrig, .jobDepwait 0x84, .jobYield, .jobYieldonBar 0x88 0x8A, .jobYieldonFlg 0x88 0x84],
      admits (demoJob [0x5000, 0, 0, 0]) .control i = true) i hi

/-- The addresses that pass, that are misaligned and that are not canonical. -/
theorem test_launch_addresses : (readS64 (demoJob [0x5000, 0]) 8).toNat % 256 = 0 ∧ canonical (readS64 (demoJob [0x5000, 0]) 8) = true ∧
    (readS64 (demoJob [0x5080, 0]) 8).toNat % 256 ≠ 0 ∧ canonical (readS64 (demoJob [0, 0x01000000]) 8) = false ∧
    canonical (readS64 (demoJob [0, 0x00FFFFFF]) 8) = true := by decide +kernel

/-- A fetched card, as EXITS and CARD_READ meet it. -/
def cardAt (d : Dev) (a : DWord) : Option Card := match (fetchCard d (dieAsker 0 (.queue 0)) 0 0 a).1 with
  | .bytes b => some (readCard b)
  | _ => none

/-- The card at 0x5000 may follow the crew; the one of zeros at 0x6000, without a crew, may not. -/
theorem test_exits_met : Admitted .jobExit .control (demoJob []) ∧ Admitted (.jobExits 0x88) .control (demoJob [0x5000, 0]) ∧
    (cardAt (demoJob []).dev 0x5000#64).map (successorOk (demoJob []) 0x5000#64) = some true ∧
    (cardAt (demoJob []).dev 0x6000#64).map (successorOk (demoJob []) 0x6000#64) = some false :=
  ⟨admitted_of (by decide +kernel), admitted_of (by decide +kernel), by decide +kernel, by decide +kernel⟩

theorem test_exits_focus : focusApart (demoJob []) ∧ (findJob (demoJob []).dev 1#64).map Job.exits = some [] := by
  have h : (demoJob []).active = true ∧ (demoJob []).dev.crews.isEmpty = true ∧ (demoJob []).crew.waves.isEmpty = true := by decide +kernel
  refine ⟨⟨h.1, ?_, ?_⟩, by decide +kernel⟩
  · rw [List.isEmpty_iff.mp h.2.1]; simp
  · rw [List.isEmpty_iff.mp h.2.2]; simp

/-- A card without records, while a load of the wave is under way; and a die whose launches are all pending. -/
def demoHeir : State :=
  { demoJob [0x5000, 0] with
    crew := { (demoJob []).crew with ops := (flying (.ld 4 2 0 0)).crew.ops }
    dev := { (demoJob []).dev with
      mem := cards.filter (fun x => x.1 != 0x5014), launches := List.replicate 256 ⟨0, selfRef (demoJob []), 0x5000, 4, 0, 0⟩ } }

theorem test_exits_zero_met : (cardAt demoHeir.dev 0x5000#64).map (fun c => (successorOk demoHeir 0x5000#64 c, cardZero c)) = some (true, true) ∧
    pendingFor demoHeir.crew.ops demoHeir.wave.idx demoHeir.frag.lanes = true ∧ 256 ≤ (demoHeir.dev.launches.filter (fun l => l.die == 0)).length := by
  decide +kernel

/-- The card waits in queue 0; and as a launch of the wave in focus. -/
def demoQueued : State := { demoJob [] with dev := { (demoJob []).dev with queues := [(0, ⟨true, 7, 0, [0x5000#64], 0#64, 0#64⟩)] } }

def demoLaunched (a : DWord) (tag : Nat) : State :=
  { demoJob [] with dev := { (demoJob []).dev with launches := [⟨0, selfRef (demoJob []), a, 4, 0, tag⟩] } }

theorem test_cardsRead_met : nextQueue (stow demoQueued).dev 0 = some 0 ∧ (queueOf (stow demoQueued).dev 0).cards.head? = some 0x5000#64 ∧
    slotOfTag (stow demoQueued).dev 0 = some 0 ∧
    (cardAt { (stow demoQueued).dev with rotation := tabSet 63 (stow demoQueued).dev.rotation 0 0 } 0x5000#64).map (fun c => (cardCheck c 0, cardZero c)) =
      some (none, false) ∧
    (stow (demoLaunched 0x5000 0)).dev.launches.map (launchReady (stow (demoLaunched 0x5000 0)).dev) = [true] ∧
    (cardAt (stow (demoLaunched 0x5000 0)).dev 0x5000#64).map (fun c => cardCheck c 0) = some none ∧
    (cardAt (stow (demoLaunched 0x6000 0)).dev 0x6000#64).map (fun c => (cardCheck c 0, cardZero c)) = some (none, true) ∧
    (cardAt (stow (demoLaunched 0x5000 1)).dev 0x5000#64).map (fun c => (cardCheck c 1).isSome) = some true ∧
    (findCrew (stow (demoLaunched 0x5000 0)).dev (selfRef (demoJob [])).crew).isSome = true := by decide +kernel

/-- LAUNCH's card while a key is being installed, on a page that is not present, and on one that may not be read; and a load of
the lanes still to take its place. -/
theorem test_launch_waits : (translate64 (keyed (demoJob [])).dev (fragAsker (demoJob [])) 0 0 0x5000 wantRead).1 = .wait ∧
    (translate64 (demoJob []).dev (fragAsker (demoJob [])) 0 0 0x40000000 wantRead).1 = .miss false ∧
    (translate64 (demoLeaf 0x33 []).dev (fragAsker (demoJob [])) 0 0 0x5000 wantRead).1 = .trap 0x03 ∧
    pendingFor (flying (.ld 4 2 0 0)).crew.ops 0 (demoJob []).frag.lanes = true ∧
    (∀ i ∈ [Instr.jobLaunch 0x88 0x84, .jobYieldonBar 0x88 0x8A],
      admits { demoJob [0x5000, 0, 0, 0] with crew := { (demoJob []).crew with ops := (flying (.ld 4 2 0 0)).crew.ops } } .control i = true) := by
  refine ⟨by decide +kernel, by decide +kernel, by decide +kernel, by decide +kernel, by decide +kernel⟩

/-- What a card's read meets. -/
def readOf (d : Dev) : Nat :=
  match (fetchCard d (dieAsker 0 (.queue 0)) 0 0 0x5000#64).1 with
  | .bytes _ => 0
  | .wait => 1
  | .fault => 2
  | .poison => 3
  | .miss _ => 4

/-- A card's read waits while a key is being installed, faults at a malformed entry, and meets poison. -/
theorem test_cards_unread : readOf (keyed (demoJob [])).dev = 1 ∧ readOf (demoLeaf 0x37 []).dev = 2 ∧
    readOf { (demoJob []).dev with poison := [.lines (0x5000 / 128) 1 true] } = 3 ∧ readOf (demoJob []).dev = 0 := by
  refine ⟨by decide +kernel, by decide +kernel, by decide +kernel, by decide +kernel⟩

/-- In queue 0: a misaligned address; a card at 0x7100 whose DONE address is misaligned, which fails check 8; and one of one wave at
0x7000 that has no registers. -/
def demoRefused (a : DWord) : State :=
  { demoQueued with dev := { demoQueued.dev with
      mem := cards ++ [(0x7010, 32#8), (0x7014, 4#8), (0x701A, 1#8), (0x701B, 1#8), (0x701C, 1#8)] ++
        [(0x7101, 1#8), (0x7114, 4#8), (0x711A, 1#8), (0x711B, 1#8), (0x711C, 1#8), (0x711D, 32#8), (0x711E, 16#8), (0x7138, 1#8)]
      queues := [(0, ⟨true, 7, 0, [a], 0#64, 0#64⟩)] } }

theorem test_cards_refused :
    (∀ s ∈ [demoRefused 0x5080, demoRefused 0x7000, demoRefused 0x7100],
      nextQueue (stow s).dev 0 = some 0 ∧ slotOfTag (stow s).dev (queueOf (stow s).dev 0).ctag = some 0 ∧
      (stow s).dev.plat.startup.minimal = false) ∧
    (cardAt (demoRefused 0x7100).dev 0x7100#64).map (fun c => cardCheck c 0) = some (some 8) ∧
    (cardAt (demoRefused 0x7000).dev 0x7000#64).map (fun c => cardCheck c 0) = some (some 5) := by
  refine ⟨by decide +kernel, by decide +kernel, by decide +kernel⟩

/-- A crew of job 1 waits for core 1. -/
def demoWaiting : State :=
  { demoJob [] with dev := { (demoJob []).dev with
      jobs := [{ (default : Job) with id := 1#64, state := .placing, card := { (default : Card) with w := 8, h := 6, waves := 2, vregs := 32, sregs := 16 } }]
      waiting := [{ (default : Waiting) with uid := 5, job := 1#64, index := 1, core := 1 }] } }

theorem test_crewsPlaced_met : ((stow demoWaiting).dev.waiting.find? (fun x => x.uid == 5)).map (fun w =>
      predGone (stow demoWaiting).dev w && mayPlace (stow demoWaiting).dev w.core (.waiting w)) = some true ∧
    (∀ c ∈ (stow demoWaiting).dev.crews, c.uid ≠ 5) ∧ (stow demo).dev.plat.startup.minimal = false := by decide +kernel

/-- The crew's other wave, index 1, has ended; and a crew out of focus whose one wave has. -/
def demoRetire : State := { demo with crew := { demo.crew with waves := [{ demo.wave with idx := 1, frags := [] }] } }

def demoLast : State := { State.reset with dev := { State.reset.dev with crews := [{ demo.crew with waves := [{ demo.wave with frags := [] }] }] } }

theorem test_wavesRetire_met :
    ((findCrew (stow demoRetire).dev 0).bind (fun c => findWave c 1)).map (fun w => (w.frags.length, flagOf w 0)) = some (0, 0) ∧
    ((findCrew (stow demoRetire).dev 0).bind (fun c => findWave c 0)).map (fun w => w.frags.length) = some 1 ∧
    ((findCrew (stow demoLast).dev 0).map (fun c => (c.waves.map (fun w => (w.idx, w.frags.length)), c.state == .saved))) = some ([(0, 0)], false) := by
  decide +kernel

/-- Job 1 has no crew left; DONE names a. -/
def demoDone (a : DWord) (st : JobState) : State :=
  { demo with dev := { demo.dev with jobs := [{ (default : Job) with id := 1#64, state := st, card := { (default : Card) with doneAddr := a, doneVal := 7#64 } }] } }

theorem test_donesWritten_met :
    (∀ st ∈ [JobState.draining, .rejected 9], ((stow (demoDone 0x8000#64 st)).dev.jobs[0]?).map (jobSettled (stow (demoDone 0x8000#64 st)).dev) = some true) ∧
    ((stow (demoDone 0 .running)).dev.jobs[0]?).map (jobSettled (stow (demoDone 0 .running)).dev) = some false ∧
    (stow (demoDone 0 .draining)).dev.missing = [] ∧
    (translate64 (stow (demoDone 0x8000#64 .draining)).dev (dieAsker 0 (.done 0)) 0 0 0x8000 wantWrite).1 = .ok 0x8000 0 ∧
    linePoisoned demo.dev (0x8000 / 128) = false := by decide +kernel

/-! ### Hypotheses met: the system instructions, timers, pre-emption -/

/-- The words l at s8; in trap mode or not; a park area of 16 KiB. -/
def demoSys (trap : Bool) (l : List Word) : State :=
  { demoWords l with
    frag := { demo.frag with trapMode := trap }
    crew := { (demoWords l).crew with parkSize := 16384 } }

theorem test_sysOutside_met : ∀ i ∈ [Instr.sysCtlwr 0x88 0x89, .sysParkrd 0x84 0x88, .sysParkwr 0x88 0x89, .sysWatch 0 0x88, .sysTlbinv 0x88, .sysHalt, .sysEret],
    Admitted i .control (demoSys false []) := by
  refine fun i hi => admitted_of ?_
  exact all_of (by decide +kernel : ([Instr.sysCtlwr 0x88 0x89, .sysParkrd 0x84 0x88, .sysParkwr 0x88 0x89, .sysWatch 0 0x88, .sysTlbinv 0x88, .sysHalt, .sysEret]).all (fun i => admits (demoSys false []) .control i) = true) i hi

/-- Numbers that name words a program may read, words it may not, and none. -/
theorem test_wordsRead_met : Admitted (.sysCtlrd 0x84 0x88) .control (demoSys false [0x310]) ∧ Admitted (.sysCtlrd 0x84 0x88) .control (demoSys true [0x410]) ∧
    (∀ n ∈ [0x310, 0x314, 0x502, 0x100, 0x52F, 0x702], isUserWord n = true) ∧ (∀ n ∈ [0x315, 0x410, 0x503, 0x400, 0x530, 0x703], isUserWord n = false) ∧
    WordHolds (demoSys true []) 0x410 0 ∧ WordHolds (demoSys true []) 0x631 0 ∧ isCtxWord 0x303 = false :=
  ⟨admitted_of (by decide +kernel), admitted_of (by decide +kernel), by decide, by decide,
    .inl (by decide +kernel), .inr (by decide +kernel), by decide⟩

theorem test_wordsWritten_met : (∀ n ∈ [0x410#32, 0x416#32, 0x417#32, 0x41F#32, 0x310#32, 0x314#32, 0x620#32, 0x100#32, 0x700#32],
      Admitted (.sysCtlwr 0x88 0x89) .control (demoSys true [0, n])) ∧
    fmtLegal 0 = true ∧ fmtLegal 0xFFFFFFFF = false ∧ isCtxWord 0x100 = true ∧ isReadOnly 0x100 = false ∧ isReservedWord 0x100 = false := by
  refine ⟨fun n hn => admitted_of ?_, by decide +kernel⟩
  exact all_of (by decide +kernel : ([0x410#32, 0x416#32, 0x417#32, 0x41F#32, 0x310#32, 0x314#32, 0x620#32, 0x100#32, 0x700#32]).all (fun n => admits (demoSys true [0, n]) .control (.sysCtlwr 0x88 0x89)) = true) n hn

/-- Offsets at the ends of the park area, one off its place, one whose record no operation owns. -/
theorem test_parkAccess_met : (∀ o ∈ [0#32, 16380#32, 16384#32, 2#32], Admitted (.sysParkrd 0x84 0x88) .control (demoSys true [o]) ∧
      Admitted (.sysParkwr 0x89 0x88) .control (demoSys true [o])) ∧ recordAt (demoSys true []).crew 0 = none ∧
    (recordAt { (demoSys true []).crew with park := [(1, 0x20#8)] } 0).map (recordOwned { (demoSys true []).crew with park := [(1, 0x20#8)] }) = some false := by
  refine ⟨fun o ho => ⟨admitted_of ?_, admitted_of ?_⟩, by decide +kernel, by decide +kernel⟩
  · exact all_of (by decide +kernel : ([0#32, 16380#32, 16384#32, 2#32]).all (fun o => admits (demoSys true [o]) .control (.sysParkrd 0x84 0x88)) = true) o ho
  · exact all_of (by decide +kernel : ([0#32, 16380#32, 16384#32, 2#32]).all (fun o => admits (demoSys true [o]) .control (.sysParkwr 0x89 0x88)) = true) o ho

/-- WATCH's size is at least 2 and at most 30, TLBINV's at least 12 and at most 57; each at both ends, and beyond. -/
theorem test_watchInvalidateHalt_met : (∀ z ∈ [1#32, 2#32, 30#32, 31#32], Admitted (.sysWatch 3 0x88) .control (demoSys true [0, 0, z, 15])) ∧
    (∀ z ∈ [11#32, 12#32, 57#32, 58#32], Admitted (.sysTlbinv 0x88) .control (demoSys true [0, 0, z, 0])) ∧ Admitted .sysHalt .control (demoSys true []) ∧
    (readS64 (demoSys true []) 8).toNat = 0 ∧ (demoSys true []).frag.resume = .fresh := by
  refine ⟨fun z hz => admitted_of ?_, fun z hz => admitted_of ?_, admitted_of (by decide +kernel), by decide +kernel⟩
  · exact all_of (by decide +kernel : ([1#32, 2#32, 30#32, 31#32]).all (fun z => admits (demoSys true [0, 0, z, 15]) .control (.sysWatch 3 0x88)) = true) z hz
  · exact all_of (by decide +kernel : ([11#32, 12#32, 57#32, 58#32]).all (fun z => admits (demoSys true [0, 0, z, 0]) .control (.sysTlbinv 0x88)) = true) z hz

/-- The fragment has the status given. -/
def demoStatus (st : FStatus) : State := { demo with frag := { demo.frag with status := st }, clk := 2000 }

theorem test_timers_met : (∀ st ∈ [FStatus.ready, .stalled, .waiting, .blocked (.sleep 2000), .blocked (.sleep 2001), .blocked (.barrierT 0 0 2000), .blocked (.barrierT 0 0 2001)],
      ∃ f, fragAt (stow (demoStatus st)).dev (selfRef demo) f ∧ f.status = st) := by
  intro st _
  exact ⟨{ demo.frag with status := st }, ⟨_, _, rfl, rfl, rfl⟩, rfl⟩

/-- The crew in a state, its request due at n. -/
def demoCrew (st : CrewState) (n : Option Nat) (fs : FStatus) : State :=
  { demoStatus fs with crew := { demo.crew with state := st, preq := n } }

theorem test_deadlines_met : (findCrew (stow (demoCrew .requested (some 2000) .ready)).dev 0).map (fun c => (c.state == .requested, c.preq)) = some (true, some 2000) ∧
    (findCrew (stow (demoCrew .requested (some 2001) .ready)).dev 0).map (fun c => c.preq) = some (some 2001) ∧
    (findCrew (stow (demoCrew .running none .ready)).dev 0).map (fun c => c.preq) = some none := by decide +kernel

/-- A requested crew whose fragment has yielded: with nothing under way, and with a copy under way; and a running one. -/
theorem test_crewsSaved_met :
    (findCrew (stow (demoCrew .requested none .yieldedJob)).dev 0).map (fun c => (c.ops.length, allFrags c countsYielded)) = some (0, true) ∧
    (savedCrew (stow demoCopy).dev { demoCopy.crew with state := .requested, parkSize := 16384 }).isSome = true ∧
    (findCrew (stow demo).dev 0).map (fun c => (c.state == .running, pageBound (stow demo).dev c)) = some (true, false) ∧
    ({ demoCrew .requested none .ready with wave := { demo.wave with frags := [] } } : State).wave.frags = [] := by decide +kernel

/-- A saved crew that may run on its core again, and may not on a core of another die; and one whose record was rewritten. -/
theorem test_crewsResumed_met :
    (findCrew (stow (demoCrew .saved none .yieldedJob)).dev 0).map (fun c => (mayResume (stow (demoCrew .saved none .yieldedJob)).dev c 0,
      mayResume (stow (demoCrew .saved none .yieldedJob)).dev c 16)) = some (true, false) ∧
    (∃ o ∈ [{ (default : Op) with tampered := true, status := .parked 1 }], o.tampered = true ∧ ∃ n, o.status = .parked n) ∧
    ((stow (demoCrew .saved none .yieldedJob)).dev.crews.map (fun c => (c.uid, c.ops.length))) = [(0, 0)] :=
  ⟨by decide +kernel, ⟨_, .head _, rfl, 1, rfl⟩, by decide +kernel⟩

/-- A window's word that leaves it on with size 0, and one that leaves it off; a combination of the context under a key that is being
installed, and none; a watchpoint's size of 1 and of 2; CHBSZ with no chain bound. -/
theorem test_wordsChecked_met : (∀ n ∈ [0x522#32, 0x612#32, 0x631#32, 0x701#32, 0x702#32], Admitted (.sysCtlwr 0x88 0x89) .control (demoSys true [0, n])) ∧
    windowRefused demo.dev 0 0x522 0x80000000#32 ∧ ¬ windowRefused demo.dev 0 0x522 0#32 ∧
    (∃ h ∈ (keyed demoHub).dev.hubs, 0 ∈ h.slots ∧ keyWaits (keyed demoHub).dev h.key = true) ∧
    (∀ h ∈ demoHub.dev.hubs, 0 ∈ h.slots → keyWaits demoHub.dev h.key = false) ∧
    ¬ watchKept demo.dev 0 0x612 1#32 ∧ watchKept demo.dev 0 0x612 2#32 ∧ chbszRefused (demoSys true []) 128 ∧ focusApart (demoSys true []) := by
  have h : (demoSys true []).active = true ∧ (demoSys true []).dev.crews.isEmpty = true ∧ (demoSys true []).crew.waves.isEmpty = true := by decide +kernel
  refine ⟨fun n hn => admitted_of ?_, ⟨by decide +kernel, .inl (by decide +kernel)⟩, fun q => absurd q.1 (by decide +kernel),
    by decide +kernel, by decide +kernel, fun q => absurd q.1 (by decide +kernel), by unfold watchKept; decide +kernel, .inl (by decide +kernel), h.1, ?_, ?_⟩
  · exact all_of (by decide +kernel : ([0x522#32, 0x612#32, 0x631#32, 0x701#32, 0x702#32]).all (fun n => admits (demoSys true [0, n]) .control (.sysCtlwr 0x88 0x89)) = true) n hn
  · rw [List.isEmpty_iff.mp h.2.1]; simp
  · rw [List.isEmpty_iff.mp h.2.2]; simp

/-- A chain is bound: CHBSZ may be 256. -/
theorem test_chbsz_met : ¬ chbszRefused demoBound 256 := by
  unfold chbszRefused
  decide +kernel

/-! ### Hypotheses met: the fault engine and the context slots -/

/-- One page of slot 0 missing in this phase, with these links. -/
def demoMissing (phase : MissPhase) (page : Nat) (ls : List Link) (ops : List Op) : State :=
  { demo with
    crew := { demo.crew with ops := ops }
    dev := { demo.dev with missing := [⟨0, 0, 0, 0, page, false, 1, [1], 0, phase, ls, []⟩], groups := [(0, 3)] }
    clk := 256 }

/-- An operation of the crew parked on a page. -/
def parkedOp (tampered : Bool) : Op := { (default : Op) with status := .parked 0x01, tampered := tampered }

/-- Clock 256: the page gathered at clock 0 is due; with another clock it is not. -/
theorem test_batches_due : ((stow (demoMissing .gathering 0x40000 [.op 0 0] [])).dev.missing.filter (fun m => m.die == 0 && m.phase == .gathering)).map
      (fun m => (decide (m.since + 256 ≤ (demoMissing .gathering 0x40000 [.op 0 0] []).clk), m.host)) = [(true, false)] ∧
    (ctxOf demo.dev 0).fqSeq = 0 ∧ ({ demoMissing .gathering 0x40000 [] [] with clk := 255 } : State).clk < 0 + 256 := by decide +kernel

/-- A queue of sixteen entries at 0x8000 with room; and a host that takes a page request group of a context. -/
theorem test_batches_queue : FqOpen { demo.dev with contexts := [(0, { (ctxOf demo.dev 0) with fq := 0x8000#64 })] } 0 ∧
    freeGroup demo.dev 0 = some 0 ∧ demo.dev.groups.length < ({ demo.dev.host with pri := 1, up := true } : HostPort).pri ∧
    ({ (ctxOf demo.dev 0) with prien := true } : Context).priStop = false :=
  ⟨⟨by decide +kernel, by decide +kernel, by decide +kernel, by decide +kernel, by decide +kernel⟩, by decide +kernel⟩

/-- The page at 0x40000000 is absent, the one at 0x5000 is present; the operation that waits was not rewritten, or was. -/
theorem test_pageArrivals_met :
    (answeredPage (stow (demoMissing .resolved 0x40000 [.op 0 0] [])).dev 0 0 0x40000 .resolved).isSome = true ∧
    (walk demo.dev 0 0 0 (0x40000 * 4096)).out = .absent ∧ (walk demo.dev 0 0 0 (5 * 4096)).out = .leaf 0 30 0 0 true true true ∧
    (∀ b ∈ [true, false], (answeredPage (stow (demoMissing .resolved 5 [.op 0 0] [parkedOp b])).dev 0 0 5 .resolved).map (fun m => (m.host, m.links.length)) = some (false, 1) ∧
      ((findCrew (stow (demoMissing .resolved 5 [.op 0 0] [parkedOp b])).dev 0).bind (fun c => findOp c 0)).map (fun o => (opParked o, o.tampered)) = some (true, b)) ∧
    (answeredPage demo.dev 0 0 5 .resolved).isNone = true := by decide +kernel

/-- Requests to the host, one stale. -/
def demoAts (stale : Bool) : State :=
  { demo with dev := { demo.dev with atsReqs := [⟨4, 0, [.op 0 0], 0, 0, 0, 0, 0x40000, true, false, false, (true, true, false), stale, false, none⟩], nextAts := 5 } }

theorem test_atsAnswers_met : (∀ b ∈ [true, false], ((stow (demoAts b)).dev.atsReqs.find? (fun r => r.id == 4)).map (fun r => r.stale) = some b) ∧
    ((stow (demoAts true)).dev.atsReqs.find? (fun r => r.id == 3)).isNone = true ∧ (demoAts true).dev.atsReqs.all (fun x => x.id < 5) = true := by
  decide +kernel

theorem test_atsWithdrawals_met : slotsOfPasid demo.dev 1 = [] ∧ slotsOfPasid demo.dev 0 = [0] := by decide +kernel

/-- Invalidations that wait for nothing and for a load under way. -/
def demoInval (ws : List (Nat × Nat × List (Nat × Nat))) : State := { demo with dev := { demo.dev with invals := [⟨2, .ats 7, ws⟩] } }

theorem test_invalidationsEnd_met : ((stow (demoInval [])).dev.invals.find? (fun x => x.id == 2)).map (invalClear (stow (demoInval [])).dev) = some true ∧
    ((stow (demoInval [])).dev.invals.find? (fun x => x.id == 1)).isNone = true := by decide +kernel

theorem test_groupAnswers_met : (3 / 512, 3 % 512) ∈ (stow (demoMissing (.requested 3) 0x40000 [.op 0 0] [parkedOp false])).dev.groups ∧
    (4 / 512, 4 % 512) ∉ (stow (demoMissing (.requested 3) 0x40000 [.op 0 0] [parkedOp false])).dev.groups ∧
    (stow (demoMissing (.requested 3) 0x40000 [.op 0 0] [parkedOp false])).dev.missing.map (fun m => m.phase == .requested 3) = [true] ∧
    ((findCrew (stow (demoMissing (.requested 3) 0x40000 [.op 0 0] [parkedOp false])).dev 0).bind (fun c => findOp c 0)).isSome = true := by
  decide +kernel

theorem test_queueAnswers_met : (ctxOf (stow (demoMissing (.asked 0) 0x40000 [.op 0 0] [])).dev 0).en = true ∧
    ((stow (demoMissing (.asked 0) 0x40000 [.op 0 0] [])).dev.missing.find? (fun m => m.slot == 0 && m.phase == .asked 0)).isSome = true ∧
    (ctxOf demo.dev 1).en = false ∧ demo.dev.plat.startup.minimal = false := by decide +kernel

theorem test_wrapsClear_met : (5 ∈ [(5 : Nat)]) ∧ (6 ∉ [(5 : Nat)]) := by decide

theorem test_slotsClosed_met : ({ State.reset.dev with plat := { State.reset.dev.plat with startup := { State.reset.dev.plat.startup with minimal := true } } } : Dev).plat.startup.minimal = true ∧
    SlotOpen demo 0 ∧ SlotOpen demo 63 := by
  refine ⟨rfl, ?_, ?_⟩ <;> unfold SlotOpen <;> decide +kernel

/-- CXCTL for a slot in use, a tag in use, and a slot newly bound. -/
theorem test_slotsBind_met : ctxLive (stow demo).dev 0 = true ∧ (ctxOf (stow demo).dev 0).tag = 0 ∧ (ctxOf (stow demo).dev 1).en = false ∧
    ctxLive (stow demo).dev 1 = false ∧ tabGet 0 (stow demo).dev.tagGen 1 = 0 := by decide +kernel

theorem test_slotsCommand_met : (ctxOf (stow demo).dev 0).invBusy = false ∧ (stow demo).dev.crews.map (fun c => (c.ctx, c.state == .running)) = [(0, true)] := by
  decide +kernel

/-- A queue that holds an entry for want of room. -/
def demoHeld : State :=
  { demo with dev := { demo.dev with contexts := [(0, { (ctxOf demo.dev 0) with fq := 0x8000#64, fqTail := 16#64, held := [⟨0#64, 5, 1, 1, 0, 0#64⟩] })] } }

theorem test_slotsQueue_met : (ctxOf (stow demoHeld).dev 0).held.length = 1 ∧ (ctxOf (stow demo).dev 0).held = [] ∧
    FqOpen (updCtx (stow demoHeld).dev 0 (fun c => { c with fqHead := 1#64, held := [] })) 0 :=
  ⟨by decide +kernel, by decide +kernel, by decide +kernel, by decide +kernel, by decide +kernel, by decide +kernel, by decide +kernel⟩

theorem test_slotsWords_met : (∀ n ∈ [0x100, 0x1BF, 0x300, 0x401, 0x631], isCtxWord n = true) ∧ (∀ n ∈ [0xFF, 0x1C0, 0x302, 0x402, 0x632], isCtxWord n = false) ∧
    isReadOnly 0x622 = true ∧ isReadOnly 0x401 = false ∧ isReservedWord 0x401 = false := by decide

/-- Salamander's page found after a request of its own; a page of the host's tables, of a context with a PASID, the link up and
down; a completion of Salamander's own request. -/
def demoHostPage (up : Bool) : State :=
  let s := demoMissing .resolved 5 [.op 0 0] [parkedOp false]
  { s with dev := { (demoLeaf 0x3D []).dev with
      missing := s.dev.missing.map (fun m => { m with host := true }), host := { demo.dev.host with up := up }
      contexts := [(0, { (ctxOf demo.dev 0) with pasiden := true, prien := true })] } }

/-- A missing page looked for anew, its request 4 outstanding. -/
def demoLooking : State :=
  { demo with dev := { demo.dev with
      missing := [⟨0, 0, 0, 0, 0x40000, true, 1, [1], 0, .looking, [.op 0 0], []⟩]
      atsReqs := [⟨4, 0, [.page 0 0 0x40000], 0, 0, 0, 0, 0x40000, true, false, false, (true, true, false), false, false, none⟩], nextAts := 5 } }

theorem test_pagesFound_met :
    (answeredPage (stow (demoMissing .found 5 [.op 0 0] [parkedOp false])).dev 0 0 5 .found).isSome = true ∧
    (answeredPage (stow (demoMissing .found 5 [.op 0 0] [parkedOp false])).dev 0 0 5 .resolved).isNone = true ∧
    (∀ b ∈ [true, false], (answeredPage (stow (demoHostPage b)).dev 0 0 5 .resolved).map (fun m => m.host) = some true ∧
      (stow (demoHostPage b)).dev.host.up = b ∧ (ctxOf (stow (demoHostPage b)).dev 0).pasiden = true ∧ (stow (demoHostPage b)).dev.host.ats = true) ∧
    (walk (stow (demoHostPage true)).dev 0 0 0 (5 * 4096)).out = .host true true true ∧
    (answeredPage (stow demoLooking).dev 0 0 0x40000 .looking).isSome = true ∧
    (ctxOf (stow demoLooking).dev 0).en = true ∧ (ctxOf (stow demoLooking).dev 0).tag = 0 ∧ (ctxOf (stow demoLooking).dev 0).gen = 0 := by
  refine ⟨by decide +kernel, by decide +kernel, by decide +kernel, by decide +kernel, by decide +kernel, by decide +kernel⟩

/-- A load of a weight slot that the slot list issued waits for a page. -/
theorem test_reloads_met : isReload { parkedOp false with flag := none, body := .copy (.start (.wbuf false 1) [] none) } = true ∧
    isReload (parkedOp false) = false := by decide

/-- A tag whose generation comes round, with a weight slot of that generation; the words whose writes are checked. -/
theorem test_contexts_met : (tabGet 0 ({ demo.dev with tagGen := [(1, 16)] } : Dev).tagGen 1 = 16) ∧ (16 : Nat) % 16 = 0 ∧
    windowRefused demo.dev 0 0x522 0x80000000#32 ∧ ¬ windowRefused demo.dev 0 0x526 0#32 ∧ watchKept demo.dev 0 0x61A 12#32 ∧
    ¬ watchKept demo.dev 0 0x61A 31#32 ∧ SlotOpen demo 0 ∧ (ctxOf demo.dev 0).en = true ∧ isCtxWord 0x522 = true ∧ isCtxWord 0x61A = true := by
  refine ⟨by decide, by decide, ⟨by decide +kernel, .inl (by decide +kernel)⟩, fun q => absurd q.1 (by decide +kernel),
    by unfold watchKept; decide +kernel, fun q => absurd q.2.1 (by decide +kernel), ?_, by decide +kernel⟩
  unfold SlotOpen
  decide +kernel

/-! ### Hypotheses met: the page cache, the ports, the die controllers -/

/-- A host page held in a frame of die 0 in this state, its line 0 in L2 in that one, the host link up. -/
def demoFrame (st : FrameState) (l2 : LineState) (dirty : List Nat) : State :=
  { demo with dev := { demo.dev with
      host := { demo.dev.host with up := true }
      pc := { demo.dev.pc with frames := [(2 ^ 36, ⟨0, st, [], dirty, 0, []⟩)], l2 := [(2 ^ 41, l2)] } } }

theorem test_outsideWrites_met : ((List.range 64).filter (fun k => (ctxOf (stow demo).dev k).en)) = [0] ∧ physHits (stow demo).dev 0 0x8000 4 = [] ∧
    paClass (2 ^ 48 / 128 * 128) = 1 ∧ (stow demo).dev.plat.privres = 0 := by decide +kernel

theorem test_snoopAnswers_met : paClass (2 ^ 41 * 128) = 1 ∧ paClass (2 ^ 42 * 128) = 2 ∧ paClass 0 = 0 ∧
    (l2Of (demoFrame .resident .m []).dev.pc (2 ^ 41) == some .m) = true ∧ (frameOf (demoFrame .resident .m []).dev.pc (2 ^ 41 / 32)).isSome = true := by
  decide +kernel

/-- One region counted to 40 at PROMO 16, its first page touched, the host link a cacheable one. -/
def demoCounted : State :=
  { demo with clk := 2 ^ 31, dev := { demo.dev with
      host := { demo.dev.host with up := true, cxl := 3 }
      pc := { demo.dev.pc with promo := 16, counters := [(2 ^ 32, 40, 1)] } } }

theorem test_countersHalve_met : (stow demoCounted).dev.pc.decayAt + 2 ^ max 10 (stow demoCounted).dev.pc.decay ≤ demoCounted.clk ∧
    demo.clk < demo.dev.pc.decayAt + 2 ^ max 10 demo.dev.pc.decay ∧
    (stow demoCounted).dev.pc.counters = [(2 ^ 32, 40, 1)] ∧ (stow demoCounted).dev.pc.promo = 16 ∧ (1 : Nat).testBit 0 = true ∧
    ((List.range 6).all (fun die => !(pcDie (stow demoCounted).dev.pc die).fillstop)) = true ∧
    (frameOf (stow demoCounted).dev.pc (2 ^ 32 * 16)).isNone = true ∧ cacheable (stow demoCounted).dev (2 ^ 32 * 16 * 32) = true ∧
    (stow demo).dev.pc.counters = [] := by
  decide +kernel

/-- A frame that fills with chunks to spare, a resident one whose die drains, and one in the wrong state. -/
theorem test_frames_met : (frameOf (stow (demoFrame .filling .s [])).dev.pc (2 ^ 36)).map (fun f => (f.state == .filling, f.tags.length, f.chunks)) = some (true, 0, 0) ∧
    (pcDie demo.dev.pc 0).fillstop = false ∧
    (frameOf (stow (demoFrame .resident .s [])).dev.pc (2 ^ 36)).map (fun f => (f.die, f.state == .resident)) = some (0, true) ∧
    (frameOf (stow (demoFrame .draining .s [])).dev.pc (2 ^ 36)).map (fun f => (f.die, f.state == .draining, decide (chunksOf f.tags ≤ f.chunks))) =
      some (0, true, true) := by decide +kernel

theorem test_linesLeaveL2_met : l2Of (stow demo).dev.pc (2 ^ 41) = none ∧ (l2Of (stow (demoFrame .resident .m [])).dev.pc (2 ^ 41)).isSome = true ∧
    (frameOf (stow (demoFrame .resident .m [])).dev.pc (2 ^ 41 / 32)).map (fun f => f.state == .draining) = some false ∧
    l2Of (stow (demoFrame .draining .m [])).dev.pc (2 ^ 41) = some .m ∧
    (frameOf (stow (demoFrame .draining .m [])).dev.pc (2 ^ 41 / 32)).map (fun f => f.state == .draining) = some true ∧
    frameTag ⟨0, .resident, [], [], 0, []⟩ (2 ^ 41) = tagAbsent := by decide +kernel

theorem test_clearsAndMarks_met : demo.dev.plat.startup.minimal = false ∧ (stow demo).dev.pc.clrPage.isNone = true ∧ paClass (2 ^ 36 * 4096) = 1 ∧
    paClass (2 ^ 37 * 4096) = 2 ∧ paClass (0x5 * 4096) = 0 ∧ backingAnswers (stow (demoFrame .resident .m [])).dev (2 ^ 36) = true ∧
    backingAnswers (stow State.reset).dev (2 ^ 36) = false := by decide +kernel

theorem test_hbmFails_met : paClass (0x60 * 128) = 0 ∧ paClass (2 ^ 41 * 128) ≠ 0 ∧
    l2Of (stow (demoFrame .resident .s [0])).dev.pc (2 ^ 41) ≠ some .m ∧ l2Of (stow (demoFrame .resident .m [0])).dev.pc (2 ^ 41) = some .m ∧
    (frameOf (stow (demoFrame .resident .m [0])).dev.pc (2 ^ 41 / 32)).map (fun f => frameTag { f with tags := [(0, 1)] } (2 ^ 41) != tagAbsent) = some true := by
  decide +kernel

theorem test_links_met : (stow State.reset).dev.host.up = false ∧ (stow (demoFrame .resident .m [])).dev.host.up = true ∧ (1 : Nat) + 2 ≤ 2 ^ 36 ∧
    (stow demo).dev.host.gen = 0 ∧ l2Of (stow (demoFrame .resident .m [])).dev.pc (2 ^ 41) = some .m ∧
    (frameOf (stow { demoFrame .resident .s [] with dev := { (demoFrame .resident .s []).dev with
      pc := { (demoFrame .resident .s []).dev.pc with frames := [(2 ^ 36, ⟨0, .resident, [(0, 1)], [], 0, []⟩)] } } }).dev.pc (2 ^ 41 / 32)).map
        (fun f => frameTag f (2 ^ 41) != tagAbsent) = some true := by decide +kernel

/-- Start-up after k steps, the dies ds having finished the next. -/
def demoStart (k fs : Nat) (ds : List Nat) : State :=
  { State.reset with dev := { State.reset.dev with plat := { Plat.reset with startup := { Plat.reset.startup with step := k, fscnt := fs, reported := ds } } }, clk := 2 ^ 28 }

theorem test_startsUp_met : (∀ k < 6, (demoStart k 3 [0, 1, 2, 3, 4]).dev.plat.startup.ready = false ∧ (demoStart k 3 [0, 1, 2, 3, 4]).dev.plat.startup.minimal = false ∧
      (demoStart k 3 [0, 1, 2, 3, 4]).dev.plat.startup.since + 2 ^ 28 ≤ (demoStart k 3 [0, 1, 2, 3, 4]).clk) ∧ (5 ∉ [0, 1, 2, 3, 4]) ∧
    (∀ i < 6, i = 5 ∨ i ∈ [0, 1, 2, 3, 4]) ∧ (3, 0x03) ∈ failReason := by
  refine ⟨fun k _ => ⟨rfl, rfl, by simp [demoStart, Plat.reset]⟩, by decide, by decide, by decide⟩

/-- Every island at its lowest step, one quad asked and not gated yet. -/
def demoLowest : State :=
  { demo with dev := { demo.dev with plat := { demo.dev.plat with power := { demo.dev.plat.power with
      steps := quads.map (fun q => (q, 9)), asked := [0] } } } }

theorem test_powerKept_met : lowerable (stow demo).dev.plat.power 0 ≠ [] ∧ (stow demo).dev.plat.power.limit < 2801 % 4096 ∧
    quads.all (fun q => 9 ≤ tabGet 0 (quads.map (fun q => (q, 9))) q) = true ∧
    quads.all (fun q => 9 ≤ tabGet 0 (stow demoLowest).dev.plat.power.steps q) = true ∧ (stow demoLowest).dev.plat.power.asked = [0] ∧
    (stow demoLowest).dev.plat.power.gated = [] ∧ 0 ∈ quads ∧ 2 ∈ quads ∧ 2 ∉ [0] ∧ (stow demo).dev.plat.power.asked = [] ∧ 10 * 2520 ≤ 9 * (stow demo).dev.plat.power.limit := by decide +kernel

/-- A load of an image under way; a key being installed with a line under its index. -/
def demoImage (k : ImageKind) : State :=
  { demo with dev := { demo.dev with plat := { demo.dev.plat with sec := { demo.dev.plat.sec with loading := some (k, 2 ^ 48) } } } }

def demoKey : State :=
  { demo with dev := { demo.dev with
      lineKey := [(2 ^ 41, 3)], pc := { demo.dev.pc with fillKey := [(2 ^ 41 + 1, 3)], l2 := [(2 ^ 41, .m), (2 ^ 41 + 1, .s)] }
      plat := { demo.dev.plat with sec := { demo.dev.plat.sec with keyBusy := some (3, [1#64]) } } } }

/-- The key again that the line's ciphertext was made under; and index 3 holding a key. -/
def demoKeyAgain : State := { demoKey with dev := { demoKey.dev with sealed := [(2 ^ 41, [1#64], List.replicate 128 7#8)] } }

def demoKeyHeld : State :=
  { demoKey with dev := { demoKey.dev with plat := { demoKey.dev.plat with sec := { demoKey.dev.plat.sec with keyBusy := none, keys := [(3, [2#64])] } } } }

/-- In minimal mode. -/
def demoMinimal : State :=
  { demo with dev := { demo.dev with plat := { demo.dev.plat with startup := { demo.dev.plat.startup with minimal := true } } } }

theorem test_imagesLoad_met : (stow (demoImage .routine)).dev.plat.sec.loading.isSome = true ∧ (stow demo).dev.plat.sec.loading.isNone = true ∧
    rangePoisoned (stow { demoImage .routine with dev := { (demoImage .routine).dev with host := { demo.dev.host with up := true } } }).dev (2 ^ 48) 64 = false := by
  decide +kernel

theorem test_keysAndReports_met : (stow demoKey).dev.plat.sec.keyBusy.isSome = true ∧ (stow demo).dev.plat.sec.keyBusy.isNone = true ∧
    (stow demo).dev.plat.startup.minimal = false ∧ (((stow demoKey).dev.lineKey.map Prod.fst).Nodup) ∧ (2 ^ 41, 3) ∈ (stow demoKey).dev.lineKey ∧
    (2 ^ 41 + 1, 3) ∈ (stow demoKey).dev.pc.fillKey ∧ paClass (128 * 2 ^ 41) ≠ 0 ∧ tabGet [] (stow demoKey).dev.plat.sec.keys 3 ≠ [1#64] ∧
    ((stow demoKeyAgain).dev.sealed.find? (fun e => e.1 == 2 ^ 41)).map (fun e => e.2.1) = some [1#64] ∧
    (stow demoMinimal).dev.plat.startup.minimal = true ∧ rangePoisoned (stow demo).dev (2 ^ 48) 32 = false ∧
    rangePoisoned (stow State.reset).dev (2 ^ 48) 32 = true := by
  decide +kernel

theorem test_resets_met : ((stow demoKeyHeld).dev.plat.sec.keys.map Prod.fst).Nodup ∧ (3, [2#64]) ∈ (stow demoKeyHeld).dev.plat.sec.keys ∧
    ((stow demoKeyHeld).dev.lineKey.map Prod.fst).Nodup ∧ (2 ^ 41, 3) ∈ (stow demoKeyHeld).dev.lineKey ∧
    (∀ e ∈ (stow demo).dev.lineKey, e.1 = 2 ^ 41 → ∀ x ∈ (stow demo).dev.plat.sec.keys, x.1 ≠ e.2) := by
  decide +kernel

/-- A decoder word that is sound in an idle device, one that is not; and one in use by a live context. -/
theorem test_decodersWrite_met : (tabGet default (stow demo).dev.decs 0).en = false ∧ ctxLive (stow demo).dev 0 = true ∧
    ((List.range 64).any (fun k => ctxLive State.reset.dev k)) = false ∧ (stow demo).dev.decs.length = 0 := by decide +kernel

theorem test_registersWrite_met : regAt 0x8 = .other ∧ regAt 0xD00000 = .other ∧ regAt 0x100009 = .other := by decide

/-! ### Hypotheses met: the machine as a whole -/

theorem test_turnedAway_met : classOf (.addI32 1 2 3) = some .laneArith ∧ legalHere demo (.addI32 1 2 3) = true ∧
    legalHere demo (.addI32 1 0xFF 3) = false ∧ classOf (.bra 1) = some .control ∧ classOf (.cpyLin 0 0x88) = some .copy ∧
    roleAllows .mat .laneArith = false ∧ roleAllows .copy .laneArith = false := by decide

theorem test_decodeEncode_met : encode (.addI32 1 2 3) ≠ [] ∧ encode .counterDecay = [] := by decide

/-- An instruction inside its clause; a fragment at a header; parcels that decode to nothing; a named row of the device. -/
theorem test_stepRuns_met : demo.agenda = [] ∧ demo.active = true ∧ demo.frag.parcel ≠ 63 ∧ demo.frag.latched = true ∧ (demoHead 0x100).frag.parcel = 63 ∧
    (decode (demo.frag.body.drop demo.frag.parcel)).toOption.isSome = true ∧ (decode [0x00FD#16, 0x0000#16]).toOption.isNone = true ∧
    isDeviceRow .counterDecay = true ∧ isDeviceRow (.addI32 1 2 3) = false := by decide

theorem test_settled_met : Settled State.reset := by
  have h : (stow State.reset).dev.crews = [] := by decide +kernel
  refine ⟨?_, ?_⟩ <;> intro c hc <;> simp [h] at hc

theorem test_memoryCanonical_met : Memory.wf demo.dev.mem = true ∧ Memory.wf [(5, 0#8)] = false ∧ Memory.wf [(5, 1#8), (5, 2#8)] = false := by decide

end Sys2Proof.Tests
end

section
/-! SUPPORT. Memory under a step, first part: the operations of the device that write no byte of memory, down to the
translations and the reads of the engines' units.  (Only putByte and resetDev change memory; a lemma that ends in _memory
says that an operation leaves it as it is, one that ends in _wf that what it writes keeps the canonical form.) -/

namespace Sys2Proof.Machine

/-! ### Folds -/

/-- A fold whose every step keeps g keeps it. -/
theorem foldl_keeps {α σ β : Type} (g : σ → β) {f : σ → α → σ} (hf : ∀ s x, g (f s x) = g s) (l : List α) (s : σ) :
    g (l.foldl f s) = g s := by
  induction l generalizing s with
  | nil => rfl
  | cons x l ih => rw [List.foldl_cons, ih, hf]

theorem foldl_memory {α : Type} {f : Dev → α → Dev} (hf : ∀ d x, (f d x).mem = d.mem) (l : List α) (d : Dev) :
    (l.foldl f d).mem = d.mem :=
  foldl_keeps Dev.mem hf l d

theorem foldl_state_memory {α : Type} {f : State → α → State} (hf : ∀ s x, (f s x).dev.mem = s.dev.mem) (l : List α)
    (s : State) : (l.foldl f s).dev.mem = s.dev.mem :=
  foldl_keeps (fun s : State => s.dev.mem) hf l s

theorem foldl_io_memory {α : Type} {f : Io → α → Io} (hf : ∀ r x, (f r x).dev.mem = r.dev.mem) (l : List α) (r : Io) :
    (l.foldl f r).dev.mem = r.dev.mem :=
  foldl_keeps (fun r : Io => r.dev.mem) hf l r

section
variable (d : Dev) (n clk : Nat)

/-! ### Records of the device -/

@[simp] theorem send_memory (m : OutMsg) : (send d m).mem = d.mem := rfl
@[simp] theorem updCrew_memory (uid : Nat) (f : Crew → Crew) : (updCrew d uid f).mem = d.mem := rfl
@[simp] theorem updCtx_memory (slot : Nat) (f : Context → Context) : (updCtx d slot f).mem = d.mem := rfl
@[simp] theorem updQueue_memory (q : Nat) (f : Queue → Queue) : (updQueue d q f).mem = d.mem := rfl
@[simp] theorem updJob_memory (id : DWord) (f : Job → Job) : (updJob d id f).mem = d.mem := rfl
@[simp] theorem endJob_memory (k : Nat) (j : Job) : (endJob d k j).mem = d.mem := rfl
@[simp] theorem clearSlot_memory (key : Nat) : (clearSlot d key).mem = d.mem := rfl
@[simp] theorem putCtxWord_memory (slot k : Nat) (x : Word) : (putCtxWord d clk slot k x).mem = d.mem := rfl
@[simp] theorem withdrawFor_memory (uid : Nat) : (withdrawFor d clk uid).mem = d.mem := rfl
@[simp] theorem recordAll_memory : (recordAll d).mem = d.mem := rfl
@[simp] theorem wakeAll_memory : (wakeAll d clk).mem = d.mem := rfl
@[simp] theorem markFirst_memory : (markFirst d clk).mem = d.mem := rfl
@[simp] theorem extendPreq_memory (k : Nat) : (extendPreq k d).mem = d.mem := rfl

@[simp] theorem doneStep_memory (k : Nat) : (doneStep d n clk k).mem = d.mem := by
  fun_cases doneStep <;> rfl

@[simp] theorem doneLost_memory (j : Job) : (doneLost d j).mem = d.mem := by
  fun_cases doneLost <;> rfl

@[simp] theorem dropCrew_memory (uid : Nat) : (dropCrew d uid).mem = d.mem := rfl
@[simp] theorem dropCard_memory (q : Nat) : (dropCard d q).mem = d.mem := rfl
@[simp] theorem condemn_memory (u : Nat) : (condemn d u).mem = d.mem := rfl
@[simp] theorem adoptLink_memory (a b : Link) : (adoptLink d a b).mem = d.mem := rfl

@[simp] theorem dropDone_memory (k : Nat) : (dropDone d k).mem = d.mem := by
  fun_cases dropDone <;> simp

@[simp] theorem noteTriggered_memory (c : Crew) : (noteTriggered d c).mem = d.mem := by
  fun_cases noteTriggered <;> rfl

@[simp] theorem retireCrew_memory (c : Crew) : (retireCrew d n c).mem = d.mem := by
  fun_cases retireCrew <;> rfl

/-! ### Jobs -/

@[simp] theorem acceptJob_memory (c : Card) (receiver ctx : Nat) (queue : Option Nat) (prio : Nat) (pred : Option DWord) :
    (acceptJob d c receiver ctx queue prio pred).2.mem = d.mem := rfl

@[simp] theorem rejectJob_memory (c : Card) (receiver ctx check : Nat) (queue : Option Nat) :
    (rejectJob d c receiver ctx check queue).mem = d.mem := by
  fun_cases rejectJob <;> rfl

/-! ### Caches and translations -/

@[simp] theorem touchLine_memory (line : Nat) (own : Bool) (key : Nat) : (touchLine d n line own key).mem = d.mem := by
  obtain ⟨p, hp⟩ := touchLine_pc d n line own key
  rw [hp]

@[simp] theorem touchLines_memory (key : Nat) (lines : List Nat) : (touchLines d n key lines).mem = d.mem :=
  foldl_memory (fun d _ => touchLine_memory d ..) _ _

@[simp] theorem ownLines_memory (key : Nat) (lines : List Nat) : (ownLines d n key lines).mem = d.mem :=
  foldl_memory (fun d _ => touchLine_memory d ..) _ _

@[simp] theorem loadLine_memory (core tag gen va size pa key : Nat) :
    (loadLine d n core tag gen va size pa key).mem = d.mem := by
  fun_cases loadLine <;> simp +zetaDelta

@[simp] theorem storeLine_memory (core tag gen va size pa key : Nat) :
    (storeLine d n core tag gen va size pa key).mem = d.mem := by
  fun_cases storeLine <;> simp +zetaDelta

@[simp] theorem learn_memory (who : Asker) (es : List TlbEntry) (ws : List WalkEntry) : (learn d who n es ws).mem = d.mem :=
  rfl

@[simp] theorem sendAts_memory (die slot page : Nat) (w : Want) (entry : Bool × Bool × Bool) (again : Bool)
    (links : List Link)
    (pred : Option Nat) : (sendAts d die slot page w entry again links pred).mem = d.mem := rfl

@[simp] theorem askAts_memory (die slot page : Nat) (w : Want) (entry : Bool × Bool × Bool) (links : List Link)
    (pred : Option Nat) : (askAts d die slot page w entry links pred).mem = d.mem := by
  fun_cases askAts <;> rfl

@[simp] theorem forgetNote_memory (who : Asker) (slot page : Nat) : (forgetNote d who slot page).mem = d.mem := rfl

@[simp] theorem hostTranslate_memory (who : Asker) (slot va : Nat) (w : Want) (rd wr ex : Bool) :
    (hostTranslate d who slot n va w rd wr ex).2.mem = d.mem := by
  fun_cases hostTranslate <;> simp

@[simp] theorem walkTranslate_memory (who : Asker) (slot va : Nat) (w : Want) :
    (walkTranslate d who slot n va w).2.mem = d.mem := by
  fun_cases walkTranslate <;> simp +zetaDelta

@[simp] theorem translatePlain_memory (who : Asker) (slot va : Nat) (w : Want) :
    (translatePlain d who slot n va w).2.mem = d.mem := by
  fun_cases translatePlain <;> simp

@[simp] theorem translate_memory (who : Asker) (slot va : Nat) (w : Want) :
    (translate d who slot n va w).2.mem = d.mem := by
  have h := translatePlain_memory d n who slot va w
  fun_cases translate <;> simp_all

@[simp] theorem translate64_memory (who : Asker) (slot a : Nat) (w : Want) :
    (translate64 d who slot n a w).2.mem = d.mem := by
  fun_cases translate64 <;> simp

theorem memory_of_translate64 {d d1 : Dev} {n slot a : Nat} {who : Asker} {w : Want} {t : Tr}
    (h : translate64 d who slot n a w = (t, d1)) : d1.mem = d.mem := by
  rw [← translate64_memory d n who slot a w, h]

@[simp] theorem fetchCard_memory (who : Asker) (slot : Nat) (a : DWord) : (fetchCard d who slot n a).2.mem = d.mem := by
  have h := translate64_memory d n who slot a.toNat wantRead
  fun_cases fetchCard <;> simp_all +zetaDelta

theorem memory_of_fetchCard {d d1 : Dev} {n slot : Nat} {who : Asker} {a : DWord} {r : CardRead}
    (h : fetchCard d who slot n a = (r, d1)) : d1.mem = d.mem := by
  rw [← fetchCard_memory d n who slot a, h]

@[simp] theorem addMissing_memory (die slot page : Nat) (host : Bool) (w : Want) (links : List Link) :
    (addMissing d die slot page clk host w links).mem = d.mem := by
  fun_cases addMissing <;> rfl

@[simp] theorem predictPage_memory (die slot page : Nat) (w : Want) :
    (predictPage d die slot n page clk w).mem = d.mem := by
  fun_cases predictPage <;> simp +zetaDelta

@[simp] theorem predictNext_memory (die slot : Nat) (w : Want) (vas pages : List Nat) :
    (predictNext d die slot n clk w vas pages).mem = d.mem := by
  fun_cases predictNext <;> simp

@[simp] theorem predictAfter_memory (c : Crew) (m : MemOp) (ps : List Piece) :
    (predictAfter d c m n clk ps).mem = d.mem := predictNext_memory ..

@[simp] theorem predictTrace_memory (s : State) (c : Crew) (rs : List LaneRun) (missed : List Nat) :
    (predictTrace d s c rs missed).mem = d.mem :=
  foldl_memory (fun d _ => predictPage_memory d ..) _ _

@[simp] theorem predictCopy_memory (s : State) (c : Crew) (p : CopyOp) (missed : List Nat) :
    (predictCopy d s c p missed).mem = d.mem :=
  foldl_memory (fun d _ => predictPage_memory d ..) _ _

@[simp] theorem linkMisses_memory (die slot : Nat) (w : Want) (k : Link) (ps : List (Piece × Tr)) :
    (linkMisses d die slot n clk w k ps).mem = d.mem := by
  rw [linkMisses, predictNext_memory]
  exact foldl_memory (fun d _ => addMissing_memory d ..) _ _

/-! ### Missing pages and page requests -/

@[simp] theorem setPhase_memory (m : Missing) (p : MissPhase) : (setPhase d m p).mem = d.mem := rfl
@[simp] theorem missAgain_memory (m : Missing) (host : Bool) : (missAgain d clk m host).mem = d.mem := rfl

@[simp] theorem releaseLink_memory (k : Link) : (releaseLink clk n d k).mem = d.mem := by
  fun_cases releaseLink <;> rfl

@[simp] theorem releasePage_memory (m : Missing) : (releasePage clk n d m).mem = d.mem :=
  foldl_memory (fun d k => releaseLink_memory d n clk k) _ _

@[simp] theorem failLink_memory (k : Link) : (failLink d k).mem = d.mem := by
  fun_cases failLink <;> simp

@[simp] theorem failPage_memory (m : Missing) : (failPage d m).mem = d.mem :=
  foldl_memory failLink_memory _ _

@[simp] theorem sendGroup_memory (pasid index : Nat) (ms : List Missing) : (sendGroup pasid index ms d).mem = d.mem := by
  induction ms generalizing d with
  | nil => rfl
  | cons m ms ih => rw [sendGroup, ih]; rfl

@[simp] theorem askHost_memory (ms : List Missing) (slot : Nat) : (askHost clk n ms d slot).mem = d.mem := by
  fun_cases askHost <;> simp [foldl_memory]

@[simp] theorem refuseOp_memory (write granted : Bool) (u id page : Nat) :
    (refuseOp d write granted u id page).mem = d.mem := by
  fun_cases refuseOp <;> rfl

@[simp] theorem answerLink_memory (r : AtsReq) (a : AtsAnswer) (k : Link) : (answerLink clk r a d k).mem = d.mem := by
  fun_cases answerLink <;> rfl

@[simp] theorem takeAnswer_memory (r : AtsReq) (a : AtsAnswer) : (takeAnswer d clk n r a).mem = d.mem := by
  fun_cases takeAnswer <;> simp +zetaDelta [foldl_memory, apply_ite Dev.mem]

@[simp] theorem lookLater_memory (k : Link) : (lookLater d k).mem = d.mem := by
  fun_cases lookLater <;> rfl

/-! ### Invalidations -/

@[simp] theorem dropRange_memory (tag lo len : Nat) : (dropRange d tag lo len).mem = d.mem := rfl
@[simp] theorem startInval_memory (who : InvFor) (tag lo len : Nat) : (startInval d who tag lo len).mem = d.mem := rfl
@[simp] theorem forgetDenied_memory (lo len slot : Nat) : (forgetDenied lo len d slot).mem = d.mem := rfl

@[simp] theorem dropWaited_memory (x : Nat × Nat × List (Nat × Nat)) : (dropWaited d x).mem = d.mem := by
  fun_cases dropWaited <;> rfl

/-! ### Operations of the engines -/

@[simp] theorem settleMem_memory (c : Crew) (o : Op) (m : MemOp) (late : Option (Nat × Nat)) :
    (settleMem d c o m n late).1.mem = d.mem := by
  fun_cases settleMem <;> rfl

@[simp] theorem hubDone_memory (x : Nat × Nat × Nat × Nat) : (hubDone d n x).mem = d.mem := by
  fun_cases hubDone <;> simp +zetaDelta

@[simp] theorem touchPbar_memory (job : DWord) (w : Word) (index : Nat) : (touchPbar d job w index n).2.mem = d.mem := rfl

@[simp] theorem placePieces_memory (who : Asker) (slot : Nat) (w : Want) (ps : List Piece) :
    (placePieces who slot n w d ps).2.mem = d.mem := by
  induction ps generalizing d with
  | nil => rfl
  | cons p ps ih => simp [placePieces, ih]

@[simp] theorem fetchVirt_memory (who : Asker) (slot m : Nat) (fresh : Bool) (va k : Nat) :
    (fetchVirt who slot m n fresh d va k).2.2.mem = d.mem := by
  fun_induction fetchVirt with
  | case1 => rfl
  | case2 => exact memory_of_translate64 ‹_›
  | case3 fresh d va k pa key d1 ht _ d2 r ih =>
    calc
      _ = d2.mem := ih
      _ = d1.mem := by simp only [d2]; split <;> simp
      _ = d.mem := memory_of_translate64 ht
  | case4 => exact memory_of_translate64 ‹_›

theorem memory_of_fetchVirt {d d1 : Dev} {n slot m va k : Nat} {who : Asker} {fresh : Bool} {bs : List Byte}
    {e : Option (Tr × Nat)} (h : fetchVirt who slot m n fresh d va k = (bs, e, d1)) : d1.mem = d.mem := by
  rw [← fetchVirt_memory d n who slot m fresh va k, h]

@[simp] theorem fetchClause_memory (who : Asker) (slot m a : Nat) : (fetchClause d who slot m n a).2.mem = d.mem := by
  fun_cases fetchClause
  · exact memory_of_fetchVirt ‹_›
  · exact (memory_of_fetchVirt ‹_›).trans (memory_of_fetchVirt ‹_›)
  · exact (memory_of_fetchVirt ‹_›).trans (memory_of_fetchVirt ‹_›)

/-! ### Between steps -/

@[simp] theorem overLimit_memory (p : Power) : (overLimit d n clk p).mem = d.mem := by
  fun_cases overLimit <;> rfl

@[simp] theorem gateQuads_memory : (gateQuads d).mem = d.mem := by
  fun_cases gateQuads <;> rfl

@[simp] theorem settleSlots_memory : (settleSlots d).mem = d.mem :=
  foldl_memory (fun d v => by dsimp only; split <;> rfl) _ _

@[simp] theorem containCrew_memory (c : Crew) (cause : Nat) : (containCrew d clk c cause).mem = d.mem := by
  have hw := foldl_memory (f := fun d u => withdrawFor d clk u) fun d u => withdrawFor_memory d clk u
  fun_cases containCrew <;> simp +zetaDelta [hw]

@[simp] theorem containAll_memory : (containAll d clk).mem = d.mem :=
  foldl_memory (fun d c => by split <;> simp) _ _

end

/-! ### Reads by the engines' units -/

section
variable (who : Asker) (slot n : Nat) (r : Io)

@[simp] theorem Io.start_memory (d : Dev) (m : Nat) : (Io.start d n m).dev.mem = d.mem := rfl

@[simp] theorem ioPage_memory (at_ : Nat) (wr : Bool) (page : Nat) :
    (ioPage who slot at_ wr r page).dev.mem = r.dev.mem := by
  fun_cases ioPage
  · rfl
  all_goals exact memory_of_translate64 ‹_›

@[simp] theorem ioTouch_memory (noWatch : Bool) (t : Touch) : (ioTouch who slot noWatch r t).dev.mem = r.dev.mem := by
  fun_cases ioTouch
  · rfl
  · rfl
  · rename_i r0 r1
    calc
      _ = r0.dev.mem := foldl_io_memory (fun r _ => ioPage_memory who slot r ..) _ _
      _ = r.dev.mem := by simp only [r0]; split <;> rfl

@[simp] theorem ioReach_memory (ts : List Touch) : (ioReach ts r).dev.mem = r.dev.mem := by
  fun_cases ioReach
  · rfl
  · exact foldl_memory (fun d l => touchLine_memory d ..) _ _

@[simp] theorem ioOpen_memory (d : Dev) (m : Nat) (noWatch : Bool) (ts : List Touch) :
    (ioOpen d who slot n m noWatch ts).dev.mem = d.mem := by
  rw [ioOpen, ioReach_memory, foldl_io_memory fun r t => ioTouch_memory who slot r noWatch t]
  rfl

@[simp] theorem ioUntil_memory (d : Dev) (m : Nat) (noWatch : Bool) (ts : List Touch) :
    (ioUntil d who slot n m noWatch ts).dev.mem = d.mem := by
  rw [ioUntil, ioReach_memory, foldl_io_memory fun r t => by split <;> simp]
  rfl

theorem openLeaves_memory (noWatch : Bool) (c : Crew) (qs : List (Nat × Rect)) (st : Io × Option Nat × Option Nat) :
    (openLeaves who slot noWatch c qs st).1.dev.mem = st.1.dev.mem := by
  fun_induction openLeaves with
  | case1 => rfl
  | case2 _ _ _ _ _ _ _ ih => exact ih
  | case3 _ _ _ _ _ _ _ _ _ _ _ ih => exact ih.trans (foldl_io_memory (fun r t => ioTouch_memory who slot r noWatch t) _ _)

end

end Sys2Proof.Machine
end

section
/-! SUPPORT. Rays, the units of the engines' operations, and the steps of the dispatch engines: memory as it is.  And
KeepsMemory, which says the same of an outcome, with the first rows of the device. -/

namespace Sys2Proof.Machine

/-! ### Rays -/

section
variable (v : TraceEnv) (r : LaneRun)

@[simp] theorem laneGet_memory (a n : Nat) : (laneGet v r a n).dev.mem = r.dev.mem := ioOpen_memory ..

/-- What the look at one triangle of a leaf can do: its read stops, the lane has hit under ANY, or it goes on.  (The
recursion is opened by hand: Lean's own equation for it does not come out, its proof evaluates the read.) -/
theorem runLeaf_succ (k a : Nat) :
    runLeaf v (k + 1) a r = (r, some (some (laneGet v r a 64))) ∨
    ∃ q : LaneRun, q.dev = (laneGet v r a 64).dev ∧
      (runLeaf v (k + 1) a r = (q, some none) ∨ runLeaf v (k + 1) a r = runLeaf v k (a + 64) q) := by
  delta runLeaf
  dsimp only [Nat.brecOn, runLeaf._f]
  split
  · exact .inl rfl
  · split
    · exact .inr ⟨_, rfl, .inr rfl⟩
    · split
      · split
        · exact .inr ⟨_, rfl, .inl rfl⟩
        · exact .inr ⟨_, rfl, .inr rfl⟩
      · exact .inr ⟨_, rfl, .inr rfl⟩

theorem runLeaf_memory (k a : Nat) :
    (runLeaf v k a r).1.dev.mem = r.dev.mem ∧ ∀ io, (runLeaf v k a r).2 = some (some io) → io.dev.mem = r.dev.mem := by
  induction k generalizing a r with
  | zero => exact ⟨rfl, fun _ h => nomatch h⟩
  | succ k ih =>
    have hg := laneGet_memory v r a 64
    obtain h | ⟨q, hq, h | h⟩ := runLeaf_succ v r k a <;> rw [h]
    · exact ⟨rfl, fun _ h => by cases h; exact hg⟩
    · exact ⟨by rw [hq, hg], fun _ h => nomatch h⟩
    · rw [← hg, ← hq]
      exact ih q (a + 64)

/-- The device as a turn of a ray's traversal leaves it. -/
def Turn.dev : Turn → Dev
  | .pop r => r.dev
  | .take r _ => r.dev
  | .halt r => r.dev

theorem takeEntry_memory (e : Word × Word) : (takeEntry v r e).dev.mem = r.dev.mem := by
  fun_cases takeEntry
  case case8 a _ q io h => exact (h ▸ runLeaf_memory v r _ a).2 io rfl
  case case9 a _ q h => exact (h ▸ runLeaf_memory v r _ a).1
  case case10 a _ q h => exact (h ▸ runLeaf_memory v r _ a).1
  case case4 => rfl
  case case11 => rfl
  case case12 => rfl
  all_goals exact laneGet_memory ..

theorem runLane_memory (k : Nat) (e : Option (Word × Word)) : (runLane v k e r).dev.mem = r.dev.mem := by
  fun_induction runLane with
  | case1 => rfl
  | case2 => rfl
  | case3 _ _ _ _ _ ih => exact ih
  | case4 => rfl
  | case5 _ e r _ r1 h ih => exact ih.trans (h ▸ takeEntry_memory v r e :)
  | case6 _ e r _ r1 e1 h ih => exact ih.trans (h ▸ takeEntry_memory v r e :)
  | case7 _ e r _ r1 h => exact (h ▸ takeEntry_memory v r e :)

theorem rebuild_memory (k : Nat) : (rebuild v k r).dev.mem = r.dev.mem := by
  fun_induction rebuild with
  | case1 => rfl
  | case2 => rfl
  | case3 => exact laneGet_memory ..
  | case4 => exact laneGet_memory ..
  | case5 _ _ _ _ _ _ _ _ _ _ ih => exact ih.trans (laneGet_memory ..)

theorem traceLane_memory (root : Nat) (d : Dev) (x : TraceLane) : (traceLane v root d x).dev.mem = d.mem := by
  fun_cases traceLane
  · exact rebuild_memory ..
  · exact (runLane_memory ..).trans (rebuild_memory ..)
  · rfl
  · rfl
  · exact runLane_memory ..

theorem runLanes_memory (root : Nat) (d : Dev) (xs : List TraceLane) : (runLanes v root d xs).1.mem = d.mem := by
  fun_induction runLanes with
  | case1 => rfl
  | case2 _ _ _ _ _ ih => exact ih.trans (traceLane_memory ..)

end

/-! ### What a unit of an operation leaves -/

section
variable (s : State) (c : Crew) (o : Op)

theorem readLane_memory (d : Dev) (t : SmpOp) (x : Texture) (p : Nat × Word × Word) :
    (readLane s d c o t x p).io.dev.mem = d.mem := by
  fun_cases readLane <;> simp +zetaDelta

theorem readLanes_memory (d : Dev) (t : SmpOp) (x : Texture) (ps : List (Nat × Word × Word)) :
    (readLanes s c o t x d ps).1.mem = d.mem := by
  fun_induction readLanes with
  | case1 => rfl
  | case2 _ _ _ _ _ ih => exact ih.trans (readLane_memory ..)

@[simp] theorem putCrew_memory (d : Dev) : (putCrew s d c).dev.mem = d.mem := rfl

@[simp] theorem ioStop_memory (r : Io) : (ioStop s c o r).dev.mem = r.dev.mem := by
  have hm (ms : List (Nat × Bool × Bool)) := foldl_memory
    (f := fun d p => addMissing d (dieOf c.core) c.ctx (vaBits p.1 / 4096) s.clk p.2.2 (touchWant p.2.1) [.op c.uid o.id])
    (fun d _ => addMissing_memory d ..) ms r.dev
  fun_cases ioStop <;> simp +zetaDelta [hm]

@[simp] theorem chainStop_memory (h : ChainOp) (r : Io) : (chainStop s c o h r).dev.mem = r.dev.mem := ioStop_memory ..

@[simp] theorem demandStop_memory (t : DemandOp) (r : Io) (stop : Option Nat) :
    (demandStop s c o t r stop).dev.mem = r.dev.mem := ioStop_memory ..

@[simp] theorem chainLate_memory (h : ChainOp) (d : Dev) (cause va : Nat) :
    (chainLate s c o h d cause va).dev.mem = d.mem :=
  chainStop_memory ..

@[simp] theorem copyStop_memory (p : CopyOp) (r : Io) : (copyStop s c o p r).dev.mem = r.dev.mem := by
  have hm (ms : List (Nat × Bool × Bool)) := foldl_memory
    (f := fun d q => addMissing d (dieOf c.core) c.ctx (vaBits q.1 / 4096) s.clk q.2.2 (touchWant q.2.1) [.op c.uid o.id])
    (fun d _ => addMissing_memory d ..) ms r.dev
  fun_cases copyStop <;> simp +zetaDelta [hm]

@[simp] theorem stepWrite_memory (h : ChainOp) (d : Dev) (w : StepWord) (dst : Nat) (out : List Byte × List Nat) :
    (stepWrite s c o h d w dst out).dev.mem = d.mem := by
  fun_cases stepWrite <;> rfl

@[simp] theorem stepCompute_memory (h : ChainOp) (d : Dev) (w : StepWord) (e : CoreEntry) (dst : Nat) :
    (stepCompute s c o h d w e dst).dev.mem = d.mem := by
  fun_cases stepCompute <;> simp +zetaDelta

@[simp] theorem finishChain_memory (d : Dev) : (finishChain s c o d).dev.mem = d.mem := rfl

theorem traceRun_memory (t : TraceOp) (park : Bool) : (traceRun s c o t park).dev.mem = s.dev.mem := by
  have h := runLanes_memory ⟨opAsker c o, c.ctx, s.nfree, o, t.any, t.cull⟩ t.root.toNat s.dev
    (t.lanes.filter (fun x => !x.ended))
  fun_cases traceRun <;> simp_all +zetaDelta

theorem memory_of_readLanes {s : State} {c : Crew} {o : Op} {t : SmpOp} {x : Texture} {d d1 : Dev}
    {ps : List (Nat × Word × Word)}
    {rs : List LaneRead} (h : readLanes s c o t x d ps = (d1, rs)) : d1.mem = d.mem := by
  rw [← readLanes_memory s c o d t x ps, h]

theorem smpRun_memory (t : SmpOp) (park : Bool) : (smpRun s c o t park).dev.mem = s.dev.mem := by
  fun_cases smpRun
  case case7 => simpa +zetaDelta using memory_of_readLanes ‹_›
  case case8 => simpa using memory_of_readLanes ‹_›
  case case9 => simpa using memory_of_readLanes ‹_›
  all_goals simp +zetaDelta

theorem memory_of_openLeaves {who : Asker} {slot : Nat} {noWatch : Bool} {c : Crew} {qs : List (Nat × Rect)} {io io1 : Io}
    {a b a1 b1 : Option Nat} (h : openLeaves who slot noWatch c qs (io, a, b) = (io1, a1, b1)) :
    io1.dev.mem = io.dev.mem := by
  have := openLeaves_memory who slot noWatch c qs (io, a, b)
  rwa [h] at this

theorem evalBlock_memory (t : DemandOp) (x : TNode) {k : Io → List (Word × ElemEvents) → State}
    (hk : ∀ io es, (k io es).dev.mem = io.dev.mem) : (evalBlock s c o t x k).dev.mem = s.dev.mem := by
  have ht (ts : List Touch) (io : Io) (b : Bool) : (ts.foldl (ioTouch (opAsker c o) c.ctx b) io).dev.mem = io.dev.mem :=
    foldl_io_memory (fun r t => ioTouch_memory _ _ r _ t) ts io
  fun_cases evalBlock
  · exact (demandStop_memory ..).trans (memory_of_openLeaves ‹_›)
  · exact ((demandStop_memory ..).trans (ht ..)).trans (memory_of_openLeaves ‹_›)
  · exact ((hk ..).trans (ht ..)).trans (memory_of_openLeaves ‹_›)

end

/-! ### Steps of the dispatch engines and of Salamander -/

section
variable (s : State)

@[simp] theorem endInval_memory (i : Inval) : (endInval s i).dev.mem = s.dev.mem := by
  have hw := foldl_memory dropWaited_memory i.waits { s.dev with invals := s.dev.invals.filter (fun x => x.id != i.id) }
  fun_cases endInval <;> exact hw

@[simp] theorem lookAt_memory (m : Missing) : (lookAt s m).dev.mem = s.dev.mem := by
  fun_cases lookAt <;> simp +zetaDelta

@[simp] theorem answerLaunch_memory (l : Launch) (id : DWord) (d : Dev) : (answerLaunch s l id d).dev.mem = d.mem := rfl

@[simp] theorem readLaunchCard_memory (l : Launch) : (readLaunchCard s l).dev.mem = s.dev.mem := by
  fun_cases readLaunchCard <;> simp +zetaDelta [memory_of_fetchCard ‹fetchCard _ _ _ _ _ = _›]

@[simp] theorem readQueueCard_memory (die q : Nat) : (readQueueCard s die q).dev.mem = s.dev.mem := by
  fun_cases readQueueCard
  case case1 => rfl
  case case2 => rfl
  case case3 => rfl
  all_goals simp +zetaDelta [memory_of_fetchCard ‹fetchCard _ _ _ _ _ = _›]

@[simp] theorem placeCrew_memory (uid : Nat) : (placeCrew s uid).dev.mem = s.dev.mem := by
  fun_cases placeCrew <;> rfl

@[simp] theorem askRoom_memory (c : Crew) : (askRoom s c).dev.mem = s.dev.mem := by
  fun_cases askRoom <;> rfl

@[simp] theorem startLoad_memory (k : ImageKind) (v : BitVec 64) : (startLoad s k v).dev.mem = s.dev.mem := by
  fun_cases startLoad <;> rfl

@[simp] theorem writeField_memory (r : Reg) (v : BitVec 64) : (writeField s r v).dev.mem = s.dev.mem := by
  fun_cases writeField <;> rfl

@[simp] theorem cwRefuse_memory (slot : Nat) : (cwRefuse s slot).dev.mem = s.dev.mem := rfl

@[simp] theorem focusOn_memory (r : FragRef) : (focusOn s r).dev.mem = s.dev.mem := by
  fun_cases focusOn <;> rfl

end

/-! ### Outcomes -/

/-- The outcome, if it is a next state, holds the bytes of memory that s holds. -/
def KeepsMemory (s : State) (o : Out) : Prop := onNext o fun t => t.dev.mem = s.dev.mem

section
variable {s : State}

theorem event_memory {k : State → State} (hk : (k (stow s)).dev.mem = (stow s).dev.mem) : KeepsMemory s (event s k) :=
  hk.trans (stow_dev_mem s)

theorem hostReg_memory {k : State → State} (hk : (k (stow s)).dev.mem = (stow s).dev.mem) : KeepsMemory s (hostReg s k) :=
  event_memory (by split; exacts [rfl, hk])

theorem slotReg_memory {slot : Nat} {k : State → State} (hk : (k (stow s)).dev.mem = (stow s).dev.mem) :
    KeepsMemory s (slotReg slot s k) :=
  hostReg_memory (by split; exacts [hk, rfl])

theorem stepping_memory {uid id : Nat} {k : Crew → Op → State} (hk : ∀ c o, (k c o).dev.mem = s.dev.mem) :
    (stepping s uid id k).dev.mem = s.dev.mem := by
  fun_cases stepping
  case case3 => exact hk ..
  all_goals rfl

theorem calling_memory {c : Crew} {o : Op} {n : Nat} {f : CopyOp → Xform → State}
    (hf : ∀ p x, (f p x).dev.mem = s.dev.mem) :
    (calling s c o n f).dev.mem = s.dev.mem := by
  unfold calling
  split
  · rfl
  · split
    · rfl
    · split
      · rfl
      · extract_lets may
        split
        · exact hf ..
        · rfl

theorem forcing_memory {c n : Nat} {k : Crew → Op → DemandOp → TNode → State}
    (hk : ∀ c o t x, (k c o t x).dev.mem = s.dev.mem) :
    (forcing s c n k).dev.mem = s.dev.mem := by
  fun_cases forcing
  case case4 => exact hk ..
  all_goals rfl

/-! ### Device rows -/

theorem execStartupTimeout_memory (die : Nat) : KeepsMemory s (execStartupTimeout die s) :=
  event_memory (by dsimp only; split <;> rfl)

theorem execStartupStep_memory (die : Nat) (ok : Bool) : KeepsMemory s (execStartupStep die ok s) := by
  refine event_memory ?_
  extract_lets x k
  split
  · rfl
  · split
    · rfl
    · split
      · exact doneStep_memory ..
      · rfl

theorem execImageLoadDone_memory : KeepsMemory s (execImageLoadDone s) := event_memory (by split <;> rfl)

theorem execL2Evict_memory (line : Nat) : KeepsMemory s (execL2Evict line s) := event_memory (by split <;> rfl)

theorem execFrameDrain_memory (die frame : Nat) : KeepsMemory s (execFrameDrain die frame s) := by
  refine event_memory ?_
  split
  · rfl
  · split
    · rfl
    · split <;> rfl

theorem execFrameFill_memory (frame : Nat) : KeepsMemory s (execFrameFill frame s) := by
  refine event_memory ?_
  split
  · rfl
  · split <;> rfl

theorem execCounterDecay_memory : KeepsMemory s (execCounterDecay s) :=
  hostReg_memory (by dsimp only; split <;> rfl)

theorem execWrapClear_memory (tag : Nat) : KeepsMemory s (execWrapClear tag s) := event_memory (by split <;> rfl)

theorem execInvalidationComplete_memory (i : Nat) : KeepsMemory s (execInvalidationComplete i s) := by
  refine event_memory ?_
  split
  · split <;> simp
  · rfl

theorem execPageArrive_memory (die slot page : Nat) : KeepsMemory s (execPageArrive die slot page s) := by
  refine event_memory ?_
  split
  · exact lookAt_memory ..
  · split
    · exact releasePage_memory ..
    · rfl

theorem execCardRead_memory (die i : Nat) : KeepsMemory s (execCardRead die i s) := by
  refine hostReg_memory ?_
  split
  · split <;> simp
  · split
    · split <;> simp
    · rfl

theorem execCrewPlace_memory (c : Nat) : KeepsMemory s (execCrewPlace c s) := event_memory (placeCrew_memory ..)

theorem execWaveRetire_memory (c w : Nat) : KeepsMemory s (execWaveRetire c w s) := by
  refine event_memory ?_
  split
  · rfl
  · split
    · rfl
    · split
      · rfl
      · dsimp only
        split <;> simp

theorem execCrewSave_memory (c : Nat) : KeepsMemory s (execCrewSave c s) := by
  refine event_memory ?_
  split
  · rfl
  · split
    · rfl
    · split <;> rfl

theorem execPreqExpire_memory (c : Nat) : KeepsMemory s (execPreqExpire c s) := event_memory rfl

theorem execPlacementHold_memory (c : Nat) : KeepsMemory s (execPlacementHold c s) := event_memory rfl

theorem execCrewResume_memory (c cx cy : Nat) : KeepsMemory s (execCrewResume c cx cy s) := by
  have hs := stow_dev_mem s
  fun_cases execCrewResume
  case case3 => exact (askRoom_memory ..).trans hs
  all_goals exact hs

end

end Sys2Proof.Machine
end

section
/-! SUPPORT. The other rows of the device and of the host that leave memory as it is. -/

namespace Sys2Proof.Machine

section
variable {s : State}

theorem execWaittTimeout_memory (f : FragRef) : KeepsMemory s (execWaittTimeout f s) := event_memory rfl
theorem execSleepExpire_memory (f : FragRef) : KeepsMemory s (execSleepExpire f s) := event_memory rfl
theorem execFragmentAged_memory (f : FragRef) : KeepsMemory s (execFragmentAged f s) := event_memory rfl

theorem execTracePark_memory (c o : Nat) : KeepsMemory s (execTracePark c o s) :=
  event_memory (stepping_memory fun _ _ => by split; exacts [traceRun_memory .., rfl])

theorem execTraceComplete_memory (c o : Nat) : KeepsMemory s (execTraceComplete c o s) :=
  event_memory (stepping_memory fun _ _ => by split; exacts [traceRun_memory .., rfl])

theorem execSmpPark_memory (c o : Nat) : KeepsMemory s (execSmpPark c o s) :=
  event_memory (stepping_memory fun _ _ => by split; exacts [smpRun_memory .., rfl])

theorem execSmpComplete_memory (c o : Nat) : KeepsMemory s (execSmpComplete c o s) :=
  event_memory (stepping_memory fun _ _ => by split; exacts [smpRun_memory .., rfl])

theorem execTdemComplete_memory (c o : Nat) : KeepsMemory s (execTdemComplete c o s) :=
  event_memory (stepping_memory fun _ _ => by split; exacts [rfl, by split <;> rfl])

theorem execMaterialise_memory (c n : Nat) : KeepsMemory s (execMaterialise c n s) := by
  refine event_memory (forcing_memory fun _ _ _ _ => ?_)
  split
  · rfl
  · refine evalBlock_memory _ _ _ _ _ fun _ _ => ?_
    dsimp only
    split <;> rfl

theorem execMmatComplete_memory (c o : Nat) : KeepsMemory s (execMmatComplete c o s) :=
  event_memory (stepping_memory fun _ _ => by split; exacts [rfl, by split <;> rfl])

theorem execMmaoComplete_memory (c o : Nat) : KeepsMemory s (execMmaoComplete c o s) :=
  event_memory (stepping_memory fun _ _ => by split; exacts [rfl, by split <;> rfl])

theorem execRoutineFault_memory (c o : Nat) : KeepsMemory s (execRoutineFault c o s) :=
  event_memory (stepping_memory fun _ _ => calling_memory fun _ _ => rfl)

theorem execArgs_memory (c o : Nat) : KeepsMemory s (execArgs c o s) :=
  event_memory (stepping_memory fun _ _ => calling_memory fun _ _ => rfl)

theorem execEndRoutine_memory (c o : Nat) : KeepsMemory s (execEndRoutine c o s) :=
  event_memory (stepping_memory fun _ _ => calling_memory fun _ _ => rfl)

theorem execPutout_memory (c o : Nat) : KeepsMemory s (execPutout c o s) :=
  event_memory (stepping_memory fun _ _ => calling_memory fun _ _ => rfl)

theorem execGetin_memory (c o : Nat) : KeepsMemory s (execGetin c o s) := by
  refine event_memory (stepping_memory fun _ _ => calling_memory fun _ _ => ?_)
  extract_lets
  split <;> simp +zetaDelta

theorem execTsmovComplete_memory (c o : Nat) : KeepsMemory s (execTsmovComplete c o s) := by
  refine event_memory (stepping_memory fun _ _ => ?_)
  split
  · split
    · rfl
    · split <;> rfl
  · split
    · rfl
    · split
      · split <;> rfl
      · rfl
      · rfl

theorem execWbufComplete_memory (c o : Nat) : KeepsMemory s (execWbufComplete c o s) := by
  refine event_memory (stepping_memory fun _ _ => ?_)
  split
  · rfl
  · split
    · split
      · exact (putCrew_memory ..).trans (foldl_memory (fun d k => by split <;> rfl) _ _)
      · rfl
    · rfl
    · rfl

theorem execCopyComplete_memory (c o : Nat) : KeepsMemory s (execCopyComplete c o s) := by
  refine event_memory (stepping_memory fun _ _ => ?_)
  split
  · split
    · rfl
    · dsimp only
      split <;> rfl
  · rfl

theorem execPwrlim_memory (v : BitVec 64) : KeepsMemory s (execPwrlim v s) :=
  hostReg_memory (by dsimp only; split <;> rfl)

theorem execKeyctl_memory (v : BitVec 64) : KeepsMemory s (execKeyctl v s) :=
  hostReg_memory (by dsimp only; split <;> rfl)

theorem execFwload_memory (v : BitVec 64) : KeepsMemory s (execFwload v s) := event_memory (startLoad_memory ..)

theorem execRtload_memory (v : BitVec 64) : KeepsMemory s (execRtload v s) := hostReg_memory (startLoad_memory ..)

theorem execPooldec_memory (i : Nat) (v : BitVec 64) : KeepsMemory s (execPooldec i v s) := by
  refine hostReg_memory ?_
  split
  · rfl
  · dsimp only
    split <;> rfl

theorem execPcmark_memory (die : Nat) (v : BitVec 64) : KeepsMemory s (execPcmark die v s) := by
  refine hostReg_memory ?_
  extract_lets
  split
  · rfl
  · split <;> rfl

theorem execCxcwdRead_memory (slot : Nat) : KeepsMemory s (execCxcwdRead slot s) :=
  slotReg_memory (by split <;> rfl)

theorem execCxcwn_memory (slot : Nat) (v : BitVec 64) : KeepsMemory s (execCxcwn slot v s) := slotReg_memory rfl

theorem execCxpre_memory (slot : Nat) (v : BitVec 64) : KeepsMemory s (execCxpre slot v s) :=
  slotReg_memory (by split <;> rfl)

theorem execCxinvc_memory (slot : Nat) (v : BitVec 64) : KeepsMemory s (execCxinvc slot v s) :=
  slotReg_memory (by dsimp only; split <;> rfl)

theorem execCxfresp_memory (slot : Nat) (v : BitVec 64) : KeepsMemory s (execCxfresp slot v s) := by
  refine slotReg_memory ?_
  extract_lets
  split
  · rfl
  · split
    · rfl
    · dsimp only
      split <;> simp

theorem execCxctl_memory (slot : Nat) (v : BitVec 64) : KeepsMemory s (execCxctl slot v s) := by
  refine slotReg_memory ?_
  extract_lets
  split
  · rfl
  · dsimp only
    split <;> rfl

theorem execQlaunch_memory (q : Nat) (v : BitVec 64) : KeepsMemory s (execQlaunch q v s) :=
  event_memory (by split <;> rfl)

theorem execFsclr_memory (v : BitVec 64) : KeepsMemory s (execFsclr v s) :=
  event_memory (by dsimp only; split <;> rfl)

theorem execPowerCheck_memory (draw : Nat) : KeepsMemory s (execPowerCheck draw s) :=
  event_memory (by dsimp only; split <;> simp)

theorem execPortFail_memory (port : Nat) : KeepsMemory s (execPortFail port s) := event_memory (by split <;> rfl)

theorem execPoolFail_memory (port base size : Nat) : KeepsMemory s (execPoolFail port base size s) := event_memory rfl

theorem execHostLinkUp_memory : KeepsMemory s (execHostLinkUp s) := by
  refine event_memory ?_
  extract_lets
  split
  · rfl
  · dsimp only
    split <;> rfl

theorem execHostLinkDown_memory : KeepsMemory s (execHostLinkDown s) := event_memory (by split <;> rfl)

theorem execHbmUncorrectable_memory (line : Nat) : KeepsMemory s (execHbmUncorrectable line s) := by
  refine event_memory ?_
  split
  · rfl
  · split
    · rfl
    · split
      · rfl
      · split <;> rfl

theorem execBackInvalidation_memory (line kind : Nat) : KeepsMemory s (execBackInvalidation line kind s) :=
  event_memory (by split <;> rfl)

theorem execSnoop_memory (line kind : Nat) : KeepsMemory s (execSnoop line kind s) := event_memory (by split <;> rfl)

theorem execAtsInvalidation_memory (pasid : Nat) (addr : BitVec 64) (size tag : Nat) :
    KeepsMemory s (execAtsInvalidation pasid addr size tag s) := by
  refine event_memory ?_
  extract_lets lo d0
  split
  · rfl
  · exact (foldl_memory (fun d slot => forgetDenied_memory d lo size slot) _ _).trans
      (foldl_memory (fun d t => dropRange_memory d t lo size) _ _)

theorem execAtsCompletion_memory (i : Nat) (v : BitVec 64) : KeepsMemory s (execAtsCompletion i v s) := by
  refine event_memory ?_
  split
  · rfl
  · dsimp only
    split
    · split
      · rfl
      · split
        · rfl
        · exact foldl_memory lookLater_memory _ _
    · exact takeAnswer_memory ..

end

end Sys2Proof.Machine
end

section
/-! SUPPORT. The operations that write memory keep its canonical form: the fault queues, the hubs, the status words, the
units of the engines, the loads and stores. -/

namespace Sys2Proof.Machine

section
variable {d : Dev} {s : State}

/-! ### The fault queues -/

theorem writeHeld_wf (n slot fuel : Nat) (h : Memory.wf d.mem = true) : Memory.wf (writeHeld n slot fuel d).mem = true := by
  fun_induction writeHeld with
  | case1 => exact h
  | case2 => exact h
  | case3 => exact h
  | case4 => exact h
  | case5 _ _ _ _ _ _ _ _ _ _ _ ih =>
    refine ih ?_
    rw [send_memory, updCtx_memory]
    exact storeBytes_wf _ _ _ _ ((touchLine_memory ..).symm ▸ h)

theorem flushFq_wf (n slot : Nat) (h : Memory.wf d.mem = true) : Memory.wf (flushFq d n slot).mem = true :=
  writeHeld_wf _ _ _ h

theorem postFq_wf (n slot : Nat) (e : FqEntry) (h : Memory.wf d.mem = true) : Memory.wf (postFq d n slot e).mem = true :=
  flushFq_wf _ _ h

theorem askQueue_wf (n : Nat) (m : Missing) (h : Memory.wf d.mem = true) : Memory.wf (askQueue n d m).mem = true :=
  postFq_wf _ _ _ h

theorem sendBatch_wf (die : Nat) (h : Memory.wf s.dev.mem = true) : Memory.wf (sendBatch s die).dev.mem = true := by
  unfold sendBatch
  dsimp only
  rw [foldl_memory fun d slot => askHost_memory d ..]
  exact foldl_dev_wf _ (fun _ _ h => askQueue_wf _ _ h) _ _ h

/-! ### The hubs -/

theorem deliverHub_wf (n : Nat) (e : HubEntry) (h : Memory.wf d.mem = true) : Memory.wf (deliverHub d n e).mem = true := by
  fun_cases deliverHub
  · rw [foldl_memory fun d x => updCrew_memory d ..]
    exact h
  · rw [foldl_memory fun d x => hubDone_memory d n x]
    exact storeBytes_wf _ _ _ _ ((touchLine_memory ..).symm ▸ h)

theorem flushHubs_wf (slot n : Nat) (h : Memory.wf d.mem = true) : Memory.wf (flushHubs d slot n).mem = true :=
  foldl_dev_wf _ (fun _ _ h => deliverHub_wf _ _ h) _ _ h

/-! ### Status words and reports -/

theorem writeDone_wf (k : Nat) (j : Job) (h : Memory.wf s.dev.mem = true) : Memory.wf (writeDone s k j).dev.mem = true := by
  fun_cases writeDone
  · exact h
  · exact (memory_of_translate64 ‹_›).symm ▸ h
  · simpa [memory_of_translate64 ‹translate64 _ _ _ _ _ _ = _›] using h
  · simpa [memory_of_translate64 ‹translate64 _ _ _ _ _ _ = _›] using h
  · simpa [memory_of_translate64 ‹translate64 _ _ _ _ _ _ = _›] using h
  · exact storeBytes_wf _ _ _ _ (by simpa [memory_of_translate64 ‹translate64 _ _ _ _ _ _ = _›] using h)

theorem reportWatch_wf (n slot pa i : Nat) (h : Memory.wf d.mem = true) :
    Memory.wf (reportWatch n slot pa d i).mem = true :=
  postFq_wf _ _ _ h

theorem watchWrite_wf (n pa len slot : Nat) (h : Memory.wf d.mem = true) :
    Memory.wf (watchWrite n pa len d slot).mem = true := by
  fun_cases watchWrite
  · exact foldl_dev_wf _ (fun _ _ h => reportWatch_wf _ _ _ _ h) _ _ h
  · exact h

/-! ### Writes by the engines' units -/

theorem Io.put_wf {r : Io} (va : Nat) (b : Byte) (h : Memory.wf r.dev.mem = true) : Memory.wf (r.put va b).dev.mem = true :=
  storeByte_wf _ _ _ _ h

theorem foldl_io_wf {α : Type} {f : Io → α → Io}
    (hf : ∀ r x, Memory.wf r.dev.mem = true → Memory.wf (f r x).dev.mem = true) (l : List α) (r : Io)
    (h : Memory.wf r.dev.mem = true) : Memory.wf (l.foldl f r).dev.mem = true :=
  l.foldlRecOn f h fun r hr x _ => hf r x hr

theorem Io.write_wf {r : Io} (va : Nat) (bs : List Byte) (h : Memory.wf r.dev.mem = true) :
    Memory.wf (r.write va bs).dev.mem = true := by
  refine foldl_io_wf (fun _ _ h => Io.put_wf _ _ h) _ _ ?_
  exact (foldl_memory (fun d l => touchLine_memory d ..) _ _).symm ▸ h

variable (c : Crew) (o : Op)

theorem writeSnap_wf (p : ChainOp) {r : Io} (buf tag : Nat) {k : Io → Crew → ChainOp → State}
    (hk : ∀ r c p, Memory.wf r.dev.mem = true → Memory.wf (k r c p).dev.mem = true) (h : Memory.wf r.dev.mem = true) :
    Memory.wf (writeSnap s c o p r buf tag k).dev.mem = true := by
  have hw (l : List ((Nat × List Byte) × Nat)) : Memory.wf (l.foldl (fun r p => r.write p.1.1 p.1.2) r).dev.mem = true :=
    foldl_io_wf (fun _ _ h => Io.write_wf _ _ h) _ _ h
  fun_cases writeSnap
  case case1 r1 _ =>
    simp only [putCrew_memory, r1]
    exact hw _
  case case2 r1 _ =>
    refine hk r1 _ _ ?_
    simp only [r1]
    exact hw _

theorem stepSnapshot_wf (p : ChainOp) (w : StepWord) (e : CoreEntry) (dst : Nat) (h : Memory.wf d.mem = true) :
    Memory.wf (stepSnapshot s c o p d w e dst).dev.mem = true := by
  fun_cases stepSnapshot
  · simpa using h
  · simpa +zetaDelta using h
  · exact writeSnap_wf _ _ _ _ _ (fun _ _ _ h => by simpa using h) (by simpa +zetaDelta using h)

theorem stepPlaced_wf (p : ChainOp) (w : StepWord) (e : CoreEntry) (h : Memory.wf d.mem = true) :
    Memory.wf (stepPlaced s c o p d w e).dev.mem = true := by
  fun_cases stepPlaced
  · simpa using h
  · exact stepSnapshot_wf _ _ _ _ _ _ h

theorem stepBarrier_wf (p : ChainOp) (w : StepWord) (e : CoreEntry) (h : Memory.wf d.mem = true) :
    Memory.wf (stepBarrier s c o p d w e).dev.mem = true := by
  fun_cases stepBarrier
  case case1 => exact stepPlaced_wf _ _ _ _ _ h
  case case2 => exact stepPlaced_wf _ _ _ _ _ h
  all_goals simpa +zetaDelta using h

theorem stepWith_wf (p : ChainOp) (h : Memory.wf d.mem = true) : Memory.wf (stepWith s c o p d).dev.mem = true := by
  fun_cases stepWith
  case case1 => simpa using h
  case case2 => exact stepBarrier_wf _ _ _ _ _ h
  case case3 => exact stepBarrier_wf _ _ _ _ _ h
  case case4 => simpa +zetaDelta using h
  case case5 => simpa +zetaDelta using h
  case case6 => exact stepBarrier_wf _ _ _ _ _ (by simpa +zetaDelta using h)

theorem stepRun_wf (p : ChainOp) (h : Memory.wf s.dev.mem = true) : Memory.wf (stepRun s c o p).dev.mem = true := by
  fun_cases stepRun
  · exact stepWith_wf _ _ _ h
  · simpa +zetaDelta using h
  · exact stepWith_wf _ _ _ (by simpa +zetaDelta using h)

theorem foldl_unit_wf {α : Type} {f : Io × Crew → α → Io × Crew}
    (hf : ∀ st x, Memory.wf st.1.dev.mem = true → Memory.wf (f st x).1.dev.mem = true) {l : List α} {st st1 : Io × Crew}
    (he : l.foldl f st = st1) (h : Memory.wf st.1.dev.mem = true) : Memory.wf st1.1.dev.mem = true := by
  subst he
  exact l.foldlRecOn f h fun st hs x _ => hf st x hs

theorem writeBlockWord_wf (kind : DemandKind) {st : Io × Crew} (w : Nat × List Byte) (h : Memory.wf st.1.dev.mem = true) :
    Memory.wf (writeBlockWord kind st w).1.dev.mem = true := by
  fun_cases writeBlockWord
  case case1 => exact Io.write_wf _ _ h
  all_goals exact h

theorem writeBlock_wf (t : DemandOp) (h : Memory.wf s.dev.mem = true) : Memory.wf (writeBlock s c o t).dev.mem = true := by
  have hio (ts : List Touch) : Memory.wf (ioOpen s.dev (opAsker c o) c.ctx s.nfree o.memMark true ts).dev.mem = true :=
    (ioOpen_memory ..).symm ▸ h
  fun_cases writeBlock
  case case1 => exact (demandStop_memory ..).symm ▸ hio _
  case case2 he _ => exact foldl_unit_wf (fun _ _ h => writeBlockWord_wf _ _ h) he (hio _)
  case case3 he _ => exact foldl_unit_wf (fun _ _ h => writeBlockWord_wf _ _ h) he (hio _)

theorem runBlock_wf (t : DemandOp) (h : Memory.wf s.dev.mem = true) : Memory.wf (runBlock s c o t).dev.mem = true := by
  fun_cases runBlock
  · exact h
  · rw [evalBlock_memory s c o _ _ fun _ _ => putCrew_memory ..]
    exact h
  · exact writeBlock_wf _ _ _ h

theorem writeWord_wf {st : Io × Crew} (x : UnitPlan) (w : Nat × List Byte) (h : Memory.wf st.1.dev.mem = true) :
    Memory.wf (writeWord st x w).1.dev.mem = true := by
  fun_cases writeWord
  case case1 => exact Io.write_wf _ _ h
  all_goals exact h

theorem runUnit_wf (p : CopyOp) (u : Nat) (x : UnitPlan) (h : Memory.wf s.dev.mem = true) :
    Memory.wf (runUnit s c o p u x).dev.mem = true := by
  have hio (ts : List Touch) :
    Memory.wf (ioOpen s.dev (opAsker c o) c.ctx s.nfree o.memMark (unitSkips o ts) ts).dev.mem = true :=
    (ioOpen_memory ..).symm ▸ h
  fun_cases runUnit
  case case1 p ts io0 io _ =>
    have hi : Memory.wf io.dev.mem = true := by simp only [io]; split <;> exact hio _
    exact (copyStop_memory ..).symm ▸ hi
  case case2 p ts io0 io _ _ _ _ _ _ he _ _ =>
    have hi : Memory.wf io.dev.mem = true := by simp only [io]; split <;> exact hio _
    exact foldl_unit_wf (fun _ _ h => writeWord_wf _ _ h) he hi
  case case3 p ts io0 io _ _ _ _ _ _ he _ _ _ _ _ =>
    have hi : Memory.wf io.dev.mem = true := by simp only [io]; split <;> exact hio _
    exact foldl_unit_wf (fun _ _ h => writeWord_wf _ _ h) he hi

theorem copyStep_wf (p : CopyOp) (u : Nat) (h : Memory.wf s.dev.mem = true) :
    Memory.wf (copyStep s c o p u).dev.mem = true := by
  fun_cases copyStep
  · exact runUnit_wf _ _ _ _ _ h
  · exact h

/-! ### Memory events -/

theorem memoryEvent_wf (n : Nat) (m : MemOp) (p : Piece) (pa : Nat) (h : Memory.wf d.mem = true) :
    Memory.wf (memoryEvent d n c m p pa).2.mem = true := by
  fun_cases memoryEvent
  case case1 => exact storeBytes_wf _ _ _ _ ((storeLine_memory ..).symm ▸ h)
  case case7 => exact storeBytes_wf _ _ _ _ ((touchLine_memory ..).symm ▸ h)
  all_goals simpa using h

theorem tryPiece_wf (m : MemOp) (n clk : Nat) (p : Piece) (h : Memory.wf d.mem = true) :
    Memory.wf (tryPiece d c o m n clk p).2.1.mem = true := by
  unfold tryPiece
  extract_lets p
  split
  · exact h
  · split
    rename_i t d1 he
    have hd : Memory.wf d1.mem = true := by
      split at he
      · cases he
        exact h
      · exact (memory_of_translate64 he).symm ▸ h
    split
    · extract_lets p1
      split
      · exact hd
      · split
        · exact hd
        all_goals exact memoryEvent_wf _ _ _ _ _ hd
    all_goals exact hd

theorem memory_of_settleMem {d d1 : Dev} {c c1 : Crew} {o : Op} {m : MemOp} {n : Nat} {late : Option (Nat × Nat)}
    (h : settleMem d c o m n late = (d1, c1)) : d1.mem = d.mem := by
  rw [← settleMem_memory d n c o m late, h]

theorem runPieces_wf (m : MemOp) (n clk : Nat) (pick : Piece → Bool) (ps : List Piece) (r : MemRun)
    (h : Memory.wf r.dev.mem = true) : Memory.wf (runPieces o m n clk pick ps r).dev.mem = true := by
  fun_induction runPieces with
  | case1 => exact h
  | case2 _ _ _ _ ih => exact ih h
  | case3 p _ r _ e d c p1 he d1 late ih =>
    have hd : Memory.wf d.mem = true := by
      have := tryPiece_wf r.crew o m n clk p h
      rwa [he] at this
    refine ih ?_
    simp only [d1]
    split
    · exact (addMissing_memory ..).symm ▸ hd
    all_goals exact hd

theorem takeLines_wf (uid : Nat) (m : MemOp) (h : Memory.wf s.dev.mem = true) :
    Memory.wf (takeLines s uid c o m).dev.mem = true := by
  fun_cases takeLines
  · exact h
  · rw [updCrew_memory, memory_of_settleMem ‹_›]
    exact runPieces_wf _ _ _ _ _ _ _ h

theorem memProgress_wf (uid id : Nat) (h : Memory.wf s.dev.mem = true) :
    Memory.wf (memProgress s uid id).dev.mem = true := by
  fun_cases memProgress
  case case7 => exact runPieces_wf _ _ _ _ _ _ _ h
  case case8 =>
    rw [updCrew_memory, memory_of_settleMem ‹_›, predictAfter_memory]
    exact runPieces_wf _ _ _ _ _ _ _ h
  all_goals exact h

end

end Sys2Proof.Machine
end

section
/-! SUPPORT. What an instruction does to the fragment in focus leaves the device as it is, or its memory. -/

namespace Sys2Proof.Machine

/-! ### Updates of the fragment in focus -/

section
variable (s : State)

@[simp] theorem takeTrapRec_dev (cause : Nat) (done : Bool) (rec : Option Nat) :
    (takeTrapRec s cause done rec).dev = s.dev := by
  unfold takeTrapRec
  split <;> rfl

@[simp] theorem takeTrap_dev (cause : Nat) (done : Bool) : (takeTrap s cause done).dev = s.dev := takeTrapRec_dev ..

@[simp] theorem atHeader_dev : (atHeader s).dev = s.dev := rfl
@[simp] theorem block_dev (w : WaitFor) : (block s w).dev = s.dev := rfl
@[simp] theorem stall_dev : (stall s).dev = s.dev := rfl
@[simp] theorem enterClause_dev : (enterClause s).dev = s.dev := rfl
@[simp] theorem writeS64_dev (r : Nat) (x : DWord) : (writeS64 s r x).dev = s.dev := rfl
@[simp] theorem queueItem_dev (i : ChainItem) : (queueItem s i).dev = s.dev := rfl
@[simp] theorem barNext_dev (o : Nat) (b : Bar) : (barNext s o b).dev = s.dev := rfl
@[simp] theorem reportBar_dev (m : BitVec 3) (done : Bool) : (reportBar s m done).dev = s.dev := rfl
@[simp] theorem recordArrival_dev (o phase : Nat) : (recordArrival s o phase).dev = s.dev := rfl
@[simp] theorem issueOp_dev (o : Op) : (issueOp s o).dev = s.dev := rfl
@[simp] theorem issueChain_dev (g : Nat) (h : ChainOp) : (issueChain s g h).dev = s.dev := rfl
@[simp] theorem appendNode_dev (dst : Nat) (kind : NodeKind) (rows cols fmt : Nat) (srcs : List Nat) :
    (appendNode s dst kind rows cols fmt srcs).dev = s.dev := rfl

@[simp] theorem deliverLate_dev (o : Op) : (deliverLate s o).dev = s.dev := by
  unfold deliverLate
  split
  · exact takeTrapRec_dev ..
  · rfl

@[simp] theorem testWait_dev : (testWait s).dev = s.dev := by
  fun_cases testWait
  · exact deliverLate_dev ..
  · rfl
  · rfl

@[simp] theorem enterJoin_dev (id : Nat) : (enterJoin s id).dev = s.dev := by
  fun_cases enterJoin <;> rfl

@[simp] theorem beginFetched_dev : (beginFetched s).dev = s.dev := by
  fun_cases beginFetched <;> simp

@[simp] theorem pageTrap_dev (cause : Nat) : (pageTrap s cause).dev = s.dev := by
  fun_cases pageTrap <;> simp

@[simp] theorem awaitOwn_dev (o : Op) : (awaitOwn s o).dev = s.dev := by
  fun_cases awaitOwn <;> simp

@[simp] theorem forceNode_dev (n : Nat) (x : TNode) : (forceNode s n x).dev = s.dev := by
  fun_cases forceNode <;> simp

theorem rangeHook_dev {s t : State} {writes : List (Nat × Nat × Nat)} (h : rangeHook s writes = some t) :
    t.dev = s.dev := by
  revert h
  fun_cases rangeHook <;> intro h <;> cases h <;> simp

@[simp] theorem finishFlags_dev (fl : Flags) : (finishFlags s fl).dev = s.dev := by
  fun_cases finishFlags <;> simp +zetaDelta

@[simp] theorem laneEffect_dev (r : Nat) (f : Nat → Word → LaneResult) : (laneEffect s r f).dev = s.dev := by
  simp [laneEffect]

@[simp] theorem laneEffectWhere_dev (r : Nat) (p : Nat → Bool) (f : Nat → Word → LaneResult) :
    (laneEffectWhere s r p f).dev = s.dev := by
  simp [laneEffectWhere]

@[simp] theorem writeScalarDst_dev (d : BitVec 8) (x : Word) : (writeScalarDst s d x).dev = s.dev := by
  fun_cases writeScalarDst <;> rfl

@[simp] theorem scalarEffect_dev (d : BitVec 8) (r : LaneResult) : (scalarEffect s d r).dev = s.dev := by
  simp [scalarEffect]

@[simp] theorem f3Effect_dev (codes : List (BitVec 8)) (d : BitVec 8) (f : State → Bool → Nat → Word → LaneResult) :
    (f3Effect s codes d f).dev = s.dev := by
  fun_cases f3Effect <;> simp +zetaDelta

@[simp] theorem pairEffect_dev (codes : List (BitVec 8)) (d : BitVec 8) (f : State → Nat → DWord) :
    (pairEffect s codes d f).dev = s.dev := by
  fun_cases pairEffect <;> simp +zetaDelta

@[simp] theorem splitBranch_dev (m : Lanes) (target : DWord) (mk : Option DWord) :
    (splitBranch s m target mk).dev = s.dev := by
  unfold splitBranch
  extract_lets
  split
  · exact takeTrap_dev ..
  · split
    · exact takeTrap_dev ..
    · extract_lets
      split
      · rfl
      · split <;> rfl

@[simp] theorem trapReturn_dev : (trapReturn s).dev = s.dev := by
  fun_cases trapReturn <;> simp

@[simp] theorem trapAccess_dev (q : MemReq) (a : LaneAcc) (cause : Nat) : (trapAccess s q a cause).dev = s.dev := by
  unfold trapAccess
  extract_lets lanes o h
  split
  · exact takeTrapRec_dev ..
  · exact takeTrap_dev ..

@[simp] theorem issueTrace_dev (g : Nat) (any cull : Bool) (dst : Nat) (b : BitVec 8) :
    (issueTrace s g any cull dst b).dev = s.dev := by
  fun_cases issueTrace <;> simp

@[simp] theorem issueWbuf_dev (g : Nat) (mcast : Bool) (f : Nat) (a : BitVec 8) :
    (issueWbuf s g mcast f a).dev = s.dev := by
  fun_cases issueWbuf <;> simp +zetaDelta

@[simp] theorem issueCpy_dev (g sub f : Nat) (a : BitVec 8) : (issueCpy s g sub f a).dev = s.dev := by
  fun_cases issueCpy
  case case4 => exact rangeHook_dev ‹_›
  all_goals simp +zetaDelta

@[simp] theorem issueTsmem_dev (g : Nat) (toMem : Bool) (a b : BitVec 8) : (issueTsmem s g toMem a b).dev = s.dev := by
  fun_cases issueTsmem
  case case6 => exact rangeHook_dev ‹_›
  all_goals simp

@[simp] theorem issueTsreg_dev (g : Nat) (toReg : Bool) (n : Nat) (a b : BitVec 8) :
    (issueTsreg s g toReg n a b).dev = s.dev := by
  fun_cases issueTsreg
  case case4 h =>
    split at h
    · cases h
    · exact rangeHook_dev h
  all_goals simp

/-! ### Fetches, blocks and exits -/

@[simp] theorem stopFetch_memory (t : Tr) (va : Nat) : (stopFetch s t va).dev.mem = s.dev.mem := by
  fun_cases stopFetch <;> simp

@[simp] theorem withClause_memory {k : State → State} (hk : ∀ u, (k u).dev.mem = u.dev.mem) :
    (withClause s k).dev.mem = s.dev.mem := by
  have h := fetchClause_memory s.dev s.nfree (fragAsker s) s.crew.ctx s.wave.fetchMark s.frag.clause.toNat
  fun_cases withClause <;> simp_all

theorem relatch_memory : (relatch s).dev.mem = s.dev.mem := by
  refine withClause_memory s fun u => ?_
  split
  · simp
  · split
    · rfl
    · split <;> rfl

theorem afterClause_memory : (afterClause s).dev.mem = s.dev.mem := by
  fun_cases afterClause
  · simpa using memory_of_fetchVirt ‹fetchVirt _ _ _ _ _ _ _ _ = _›
  · exact memory_of_fetchVirt ‹_›

@[simp] theorem waitPage_memory (d : Dev) (w : WaitFor) (a : DWord) (host : Bool) (want : Want) :
    (waitPage s d w a host want).dev.mem = d.mem := addMissing_memory ..

@[simp] theorem forgetAsks_memory : (forgetAsks s).dev.mem = s.dev.mem := rfl
@[simp] theorem putPbar_memory (e : PBar) : (putPbar s e).dev.mem = s.dev.mem := rfl
@[simp] theorem endFragment_memory : (endFragment s).dev.mem = s.dev.mem := rfl

theorem memory_of_acceptJob {d d1 : Dev} {c : Card} {receiver ctx prio : Nat} {queue : Option Nat}
    {pred : Option DWord} {id : DWord}
    (h : acceptJob d c receiver ctx queue prio pred = (id, d1)) : d1.mem = d.mem := by
  rw [← acceptJob_memory d c receiver ctx queue prio pred, h]

@[simp] theorem launchSuccessor_memory (a : DWord) (c : Card) : (launchSuccessor s a c).dev.mem = s.dev.mem := by
  fun_cases launchSuccessor
  · rfl
  · simp [memory_of_acceptJob ‹acceptJob _ _ _ _ _ _ _ = _›]

@[simp] theorem launchAccess_memory (g : Nat) (q : MemReq) (ps : List (Piece × Tr)) :
    (launchAccess s g q ps).dev.mem = s.dev.mem := by
  fun_cases launchAccess <;> simp +zetaDelta

theorem memory_of_placePieces {d d1 : Dev} {who : Asker} {slot n : Nat} {w : Want} {ps : List Piece}
    {qs : List (Piece × Tr)}
    (h : placePieces who slot n w d ps = (qs, d1)) : d1.mem = d.mem := by
  rw [← placePieces_memory d n who slot w ps, h]

@[simp] theorem issueAccess_memory (g : Nat) (q : MemReq) : (issueAccess s g q).dev.mem = s.dev.mem := by
  fun_cases issueAccess
  case case4 h =>
    split at h
    · rw [rangeHook_dev h]
    · cases h
  case case6 | case7 | case8 | case9 => simp +zetaDelta [memory_of_placePieces ‹placePieces _ _ _ _ _ _ = _›]
  all_goals simp

@[simp] theorem afterAccesses_memory {k : State → State} (hk : (k s).dev.mem = s.dev.mem) :
    (afterAccesses s k).dev.mem = s.dev.mem := by
  fun_cases afterAccesses
  · rfl
  · exact hk

@[simp] theorem issueSmp_memory (g sub comp dst : Nat) (b : BitVec 8) :
    (issueSmp s g sub comp dst b).dev.mem = s.dev.mem := by
  unfold issueSmp
  split
  · rfl
  · extract_lets i
    split
    · simp
    · split
      · rfl
      · refine afterAccesses_memory _ ?_
        extract_lets io s1
        have h1 : s1.dev.mem = s.dev.mem := ioOpen_memory ..
        split
        · exact h1
        · split
          · exact h1
          · split
            · simpa using h1
            · exact h1
end

end Sys2Proof.Machine
end

section
/-! SUPPORT. The shapes that instructions share, and the instructions of the lanes, of control and of barriers: memory as
it is. -/

namespace Sys2Proof.Machine

/-! ### What the shared shapes of an instruction keep -/

section
variable {s : State}

theorem KeepsMemory.of_dev {t : State} (h : t.dev = s.dev) : KeepsMemory s (.next t) := congrArg Dev.mem h

theorem takeTrap_memory (cause : Nat) (done : Bool) : (takeTrap s cause done).dev.mem = s.dev.mem :=
  congrArg Dev.mem (takeTrap_dev ..)

theorem checked_memory_of {i : Instr} {c : RoleClass} {k : State → State}
    (hk : (k (latchClk s (uniformCodes i))).dev.mem = s.dev.mem) : KeepsMemory s (checked i c s k) := by
  unfold checked
  split
  · exact takeTrap_memory ..
  · split
    · exact takeTrap_memory ..
    · exact hk

theorem checked_memory {i : Instr} {c : RoleClass} {k : State → State} (hk : ∀ u, (k u).dev.mem = u.dev.mem) :
    KeepsMemory s (checked i c s k) :=
  checked_memory_of ((hk _).trans (congrArg Dev.mem (latchClk_dev ..)))

theorem inTrapMode_memory {o : Out} (ho : KeepsMemory s o) : KeepsMemory s (inTrapMode s o) := by
  unfold inTrapMode
  split
  · exact ho
  · exact takeTrap_memory ..

theorem longLatency_memory {i : Instr} {c : RoleClass} {k : State → Nat → State}
    (hk : ∀ u g, (k u g).dev.mem = u.dev.mem) : KeepsMemory s (longLatency i c s k) :=
  checked_memory fun u => by
    dsimp only
    split
    · rfl
    · exact hk ..

theorem accessInstr_memory {i : Instr} {c : RoleClass} {mk : State → MemReq} : KeepsMemory s (accessInstr i c s mk) :=
  longLatency_memory fun u g => by
    dsimp only
    split <;> simp

theorem withBar_memory {o : Nat} {needValid : Bool} {k : Bar → State} (hk : ∀ b, (k b).dev.mem = s.dev.mem) :
    (withBar s o needValid k).dev.mem = s.dev.mem := by
  fun_cases withBar <;> simp [hk]

theorem parkOffset_memory {o : Nat} {k : State → State} (hk : (k s).dev.mem = s.dev.mem) :
    (parkOffset s o k).dev.mem = s.dev.mem := by
  fun_cases parkOffset <;> simp [hk]

theorem atExit_memory {k : State → State} (hk : (k s).dev.mem = s.dev.mem) : (atExit s k).dev.mem = s.dev.mem := by
  fun_cases atExit <;> simp [hk]

theorem blockBehind_memory {k : State → State} (hk : (k s).dev.mem = s.dev.mem) :
    (blockBehind s k).dev.mem = s.dev.mem := by
  fun_cases blockBehind <;> simp [hk]

theorem withTarget_memory {a : DWord} {t : State} (hk : t.dev.mem = s.dev.mem) :
    (withTarget s a t).dev.mem = s.dev.mem := by
  fun_cases withTarget <;> simp [hk]

theorem withBatch_memory {a : BitVec 8} {k : Word → Bool → State} (hk : ∀ x done, (k x done).dev.mem = s.dev.mem) :
    (withBatch s a k).dev.mem = s.dev.mem := by
  fun_cases withBatch <;> simp [hk]

theorem withPbar_memory {a b : BitVec 8} {wait : Bool} {k : State → PBar → Nat → State}
    (hk : ∀ u e p, (k u e p).dev.mem = u.dev.mem) : (withPbar s a b wait k).dev.mem = s.dev.mem := by
  unfold withPbar
  extract_lets w sel n
  split
  · exact takeTrap_memory ..
  · exact (hk ..).trans (touchPbar_memory ..)

theorem withThunks_memory {k : State → State} (hk : (k s).dev.mem = s.dev.mem) :
    (withThunks s k).dev.mem = s.dev.mem := by
  fun_cases withThunks <;> simp [hk]

theorem makeRoom_memory {view : Bool} {k : State → State} (hk : (k s).dev.mem = s.dev.mem) :
    (makeRoom s view k).dev.mem = s.dev.mem := by
  unfold makeRoom
  extract_lets nodes take
  have ht : ∀ l, (take l).dev.mem = s.dev.mem := fun l => by
    dsimp only [take]
    split
    · simp
    · split <;> simp
  split_ifs <;> simp [ht, hk]

/-! ### The families of lane instructions -/

theorem int32_memory {i : Instr} {d a b : BitVec 8} {f : Word → Word → Word → Word} : KeepsMemory s (int32 i d a b s f) :=
  checked_memory fun _ => by simp

theorem float32_memory {i : Instr} {c : RoleClass} {d a b : BitVec 8} {codes : List (BitVec 8)} {k : FloatOp} :
    KeepsMemory s (float32 i c d a b codes s k) :=
  checked_memory fun _ => by simp

theorem halves_memory {i : Instr} {c : RoleClass} {bf : Bool} {d a b : BitVec 8} {codes : List (BitVec 8)} {k : FloatOp} :
    KeepsMemory s (halves i c bf d a b codes s k) :=
  checked_memory fun _ => by simp

theorem compactInt_memory {i : Instr} {d : BitVec 5} {p : BitVec 6} {f : Word → Word → Word} :
    KeepsMemory s (compactInt i d p s f) :=
  checked_memory fun _ => by simp

theorem imm16_memory {i : Instr} {d : BitVec 8} {x : BitVec 16} {f : Word → BitVec 16 → Word} :
    KeepsMemory s (imm16 i d x s f) :=
  checked_memory fun _ => by simp

theorem cmpInt_memory {i : Instr} {m : BitVec 3} {a b : BitVec 8} {f : Word → Word → Bool} :
    KeepsMemory s (cmpInt i m a b s f) :=
  checked_memory fun _ => by simp

theorem checked_f3Effect_memory {i : Instr} {c : RoleClass} {codes : List (BitVec 8)} {d : BitVec 8}
    {f : State → State → Bool → Nat → Word → LaneResult} :
    KeepsMemory s (checked i c s fun u => f3Effect u codes d (f u)) :=
  checked_memory fun _ => by simp

theorem checked_pairEffect_memory {i : Instr} {c : RoleClass} {codes : List (BitVec 8)} {d : BitVec 8}
    {f : State → State → Nat → DWord} :
    KeepsMemory s (checked i c s fun u => pairEffect u codes d (f u)) :=
  checked_memory fun _ => by simp

/-! ### The lane instructions with a rule of their own -/

theorem execMovCompact_memory (d : BitVec 5) (p : BitVec 6) : KeepsMemory s (execMovCompact d p s) := by
  unfold execMovCompact
  split
  · exact checked_memory fun _ => by simp
  · exact compactInt_memory

theorem execCvtp_memory (d a b : BitVec 8) : KeepsMemory s (execCvtp d a b s) :=
  checked_memory fun _ => by split <;> simp

theorem execDqn_memory (d a b : BitVec 8) : KeepsMemory s (execDqn d a b s) :=
  checked_memory fun _ => by split <;> simp

theorem execDot4F8_memory (d a b : BitVec 8) : KeepsMemory s (execDot4F8 d a b s) :=
  checked_memory fun _ => by split <;> simp

theorem execDot8F4_memory (d a b : BitVec 8) : KeepsMemory s (execDot8F4 d a b s) :=
  checked_memory fun _ => by split <;> simp

theorem execQnt_memory (d a b : BitVec 8) : KeepsMemory s (execQnt d a b s) :=
  checked_memory fun u => by dsimp only; split_ifs <;> simp

theorem execRdlane_memory (d a b : BitVec 8) : KeepsMemory s (execRdlane d a b s) :=
  checked_memory_of (by simp)

theorem execWrlane_memory (d a b : BitVec 8) : KeepsMemory s (execWrlane d a b s) :=
  checked_memory fun _ => by dsimp only; split <;> simp

theorem execWred_memory (d a f : BitVec 8) : KeepsMemory s (execWred d a f s) :=
  checked_memory fun _ => by dsimp only; split_ifs <;> simp

theorem execWscan_memory (d a f : BitVec 8) : KeepsMemory s (execWscan d a f s) :=
  checked_memory fun _ => by simp

theorem execCmpF32_memory (m : BitVec 3) (c : BitVec 5) (a b : BitVec 8) : KeepsMemory s (execCmpF32 m c a b s) :=
  checked_memory fun _ => by simp

theorem execMop_memory (m : BitVec 3) (c : BitVec 5) (a b : BitVec 8) : KeepsMemory s (execMop m c a b s) :=
  checked_memory fun _ => by simp

theorem execMmov_memory (m : BitVec 3) (c : BitVec 5) (a b : BitVec 8) : KeepsMemory s (execMmov m c a b s) :=
  checked_memory fun _ => by dsimp only; rw [advance_dev]; split <;> simp

theorem execCtlReord_memory (n : BitVec 4) (a b : BitVec 8) : KeepsMemory s (execCtlReord n a b s) :=
  checked_memory fun u => by
    dsimp only
    rw [advance_dev, writeM_dev]
    exact foldl_state_memory (fun t j => congrArg Dev.mem (writeLanes_dev ..)) ..

/-! ### Branches and the clause -/

theorem execBra_memory (o : BitVec 20) : KeepsMemory s (execBra o s) :=
  checked_memory fun _ => withTarget_memory (by simp)

theorem execBrany_memory (m : BitVec 3) (o : BitVec 20) : KeepsMemory s (execBrany m o s) :=
  checked_memory fun _ => withTarget_memory (by split <;> simp)

theorem execBrall_memory (m : BitVec 3) (o : BitVec 20) : KeepsMemory s (execBrall m o s) :=
  checked_memory fun _ => withTarget_memory (by split <;> simp)

theorem execBrs_memory (m : BitVec 3) (o : BitVec 20) : KeepsMemory s (execBrs m o s) :=
  checked_memory fun _ => withTarget_memory (withTarget_memory (by split_ifs <;> simp))

theorem execJoinat_memory (m : BitVec 3) (o : BitVec 20) : KeepsMemory s (execJoinat m o s) :=
  checked_memory fun _ => by
    split
    · split <;> simp
    · simp

theorem execCall_memory (o : BitVec 20) : KeepsMemory s (execCall o s) :=
  checked_memory fun _ => by
    dsimp only
    split
    · simp
    · exact withTarget_memory (by simp)

theorem execCtlJmpr_memory (a : BitVec 8) : KeepsMemory s (execCtlJmpr a s) :=
  checked_memory fun _ => withTarget_memory (by simp)

theorem execCtlSleep_memory (a : BitVec 8) : KeepsMemory s (execCtlSleep a s) :=
  checked_memory fun _ => by dsimp only; split <;> simp

theorem execClauseBegin_memory : KeepsMemory s (execClauseBegin s) := by
  unfold execClauseBegin
  split_ifs
  · exact afterClause_memory s
  · exact .of_dev (enterClause_dev s)
  · exact .of_dev (testWait_dev s)
  · exact withClause_memory s fun u => congrArg Dev.mem (beginFetched_dev u)

theorem execLit_memory (l : BitVec 24) : KeepsMemory s (execLit l s) := by
  unfold execLit
  split
  · exact takeTrap_memory ..
  · rfl

/-! ### Barriers, fences, batches -/

theorem execLdrec_memory (d a : BitVec 8) (w n : BitVec 3) : KeepsMemory s (execLdrec d a w n s) := by
  unfold execLdrec
  refine longLatency_memory fun u g => ?_
  extract_lets i base count
  split
  · exact takeTrap_memory ..
  · exact issueAccess_memory ..

theorem execBarInit_memory (a b : BitVec 8) : KeepsMemory s (execBarInit a b s) := by
  unfold execBarInit
  refine checked_memory fun u => afterAccesses_memory _ ?_
  extract_lets o x y
  split
  · exact takeTrap_memory ..
  · exact withBar_memory fun _ => congrArg Dev.mem (barNext_dev ..)

theorem execBarArrive_memory (a b : BitVec 8) : KeepsMemory s (execBarArrive a b s) :=
  checked_memory fun _ => afterAccesses_memory _ (by
    dsimp only
    split
    · simp
    · exact withBar_memory fun _ => by split <;> simp)

theorem execBarExpect_memory (a b : BitVec 8) : KeepsMemory s (execBarExpect a b s) :=
  checked_memory fun _ => afterAccesses_memory _ (by
    dsimp only
    split
    · simp
    · exact withBar_memory fun _ => by simp)

theorem execBarArrivex_memory (a b : BitVec 8) : KeepsMemory s (execBarArrivex a b s) :=
  checked_memory fun _ => afterAccesses_memory _ (by
    dsimp only
    split
    · simp
    · exact withBar_memory fun _ => by split <;> simp)

theorem execBarWait_memory (a b : BitVec 8) : KeepsMemory s (execBarWait a b s) :=
  checked_memory fun _ => blockBehind_memory (by
    split
    · simp
    · simp
    all_goals
      dsimp only
      split
      · simp
      · exact withBar_memory fun _ => by split_ifs <;> simp)

theorem execBarWaitt_memory (m : BitVec 3) (a b : BitVec 8) : KeepsMemory s (execBarWaitt m a b s) :=
  checked_memory fun _ => blockBehind_memory (by
    split
    · simp
    · simp
    · simp
    · dsimp only
      split
      · simp
      · exact withBar_memory fun _ => by split_ifs <;> simp)

theorem execBarTest_memory (m : BitVec 3) (a b : BitVec 8) : KeepsMemory s (execBarTest m a b s) :=
  checked_memory fun _ => afterAccesses_memory _ (by
    dsimp only
    split
    · simp
    · exact withBar_memory fun _ => by split <;> simp)

theorem execBarEnroll_memory (a : BitVec 8) : KeepsMemory s (execBarEnroll a s) :=
  checked_memory fun _ => afterAccesses_memory _ (withBar_memory fun _ => by split_ifs <;> simp)

theorem execBarDrop_memory (a : BitVec 8) : KeepsMemory s (execBarDrop a s) :=
  checked_memory fun _ => afterAccesses_memory _ (withBar_memory fun _ => by
    split
    · simp
    · split <;> simp)

theorem execBarInval_memory (a : BitVec 8) : KeepsMemory s (execBarInval a s) :=
  checked_memory fun _ => afterAccesses_memory _ (withBar_memory fun _ => by simp)

theorem execPbarArrive_memory (a b : BitVec 8) : KeepsMemory s (execPbarArrive a b s) :=
  checked_memory fun _ => afterAccesses_memory _ (withPbar_memory fun _ _ _ => by simp)

theorem execPbarWait_memory (a b : BitVec 8) : KeepsMemory s (execPbarWait a b s) :=
  checked_memory fun _ => blockBehind_memory (by
    split
    · simp
    · exact withPbar_memory fun _ _ _ => by dsimp only; split <;> simp)

theorem execPbarTest_memory (m : BitVec 3) (a b : BitVec 8) : KeepsMemory s (execPbarTest m a b s) :=
  checked_memory fun _ => afterAccesses_memory _ (withPbar_memory fun _ _ _ => by simp)

theorem execFenceOpc_memory : KeepsMemory s (execFenceOpc s) := checked_memory fun _ => by simp

theorem execFenceIfetch_memory : KeepsMemory s (execFenceIfetch s) := checked_memory fun _ => by simp

theorem execFenceAsync_memory : KeepsMemory s (execFenceAsync s) :=
  checked_memory fun _ => by
    dsimp only
    split
    · simp
    · split <;> simp

theorem execCbatchSeal_memory (a : BitVec 8) : KeepsMemory s (execCbatchSeal a s) :=
  checked_memory fun _ => by dsimp only; split <;> simp

theorem execCbatchWait_memory (a : BitVec 8) : KeepsMemory s (execCbatchWait a s) :=
  checked_memory fun _ => by
    split
    · simp
    · exact withBatch_memory fun _ _ => by split <;> simp

theorem execCbatchTest_memory (m : BitVec 3) (a : BitVec 8) : KeepsMemory s (execCbatchTest m a s) := by
  unfold execCbatchTest
  refine checked_memory fun u => withBatch_memory fun x done => ?_
  rw [advance_dev, writeM_dev]

end

end Sys2Proof.Machine
end

section
/-! SUPPORT. The instructions of the matrix, tensor, chain, trace and job units, and the privileged ones: memory as it is.
And the answers to page requests. -/

namespace Sys2Proof.Machine

/-! ### Copies, matrices, tensors and chains -/

section
variable {s : State}

theorem execMmao_memory (t f : BitVec 4) (a b : BitVec 8) : KeepsMemory s (execMmao t f a b s) := by
  unfold execMmao
  refine longLatency_memory fun u g => ?_
  extract_lets
  split
  · exact takeTrap_memory ..
  · split <;> rfl

theorem execMmat_memory (t f : BitVec 4) (a : BitVec 8) : KeepsMemory s (execMmat t f a s) := by
  unfold execMmat
  refine longLatency_memory fun u g => ?_
  extract_lets
  split
  · exact takeTrap_memory ..
  · split
    · exact takeTrap_memory ..
    · split
      · exact takeTrap_memory ..
      · split
        · rw [rangeHook_dev ‹_›]
        · rfl

theorem execWbufInval_memory (f : BitVec 4) : KeepsMemory s (execWbufInval f s) :=
  checked_memory fun _ => by
    dsimp only
    rw [advance_dev]
    split <;> simp

theorem execWbufQuery_memory (f : BitVec 4) (a : BitVec 8) : KeepsMemory s (execWbufQuery f a s) :=
  checked_memory fun _ => by simp

theorem execTdefView_memory (f : BitVec 4) (a b : BitVec 8) : KeepsMemory s (execTdefView f a b s) := by
  unfold execTdefView
  refine checked_memory fun u => ?_
  extract_lets
  split_ifs
  · exact takeTrap_memory ..
  · exact takeTrap_memory ..
  · exact takeTrap_memory ..
  · exact takeTrap_memory ..
  · exact makeRoom_memory (congrArg Dev.mem (appendNode_dev ..))
  · exact takeTrap_memory ..
  · exact makeRoom_memory (congrArg Dev.mem (appendNode_dev ..))

theorem execTdefConst_memory (a b : BitVec 8) : KeepsMemory s (execTdefConst a b s) := by
  unfold execTdefConst
  refine checked_memory fun u => ?_
  extract_lets
  split
  · exact takeTrap_memory ..
  · exact makeRoom_memory (congrArg Dev.mem (appendNode_dev ..))

theorem execTop_memory (d a b p : BitVec 6) : KeepsMemory s (execTop d a b p s) := by
  unfold execTop
  refine checked_memory fun u => withThunks_memory ?_
  extract_lets
  split
  · split
    · split
      · split
        · exact takeTrap_memory ..
        · exact makeRoom_memory (congrArg Dev.mem (appendNode_dev ..))
      · exact takeTrap_memory ..
    · exact takeTrap_memory ..
    · exact takeTrap_memory ..
  · exact takeTrap_memory ..
  · exact takeTrap_memory ..

theorem execTmap_memory (d a b p : BitVec 6) : KeepsMemory s (execTmap d a b p s) := by
  unfold execTmap
  refine checked_memory fun u => withThunks_memory ?_
  split
  · exact takeTrap_memory ..
  · split
    · exact takeTrap_memory ..
    · extract_lets
      split
      · exact makeRoom_memory (congrArg Dev.mem (appendNode_dev ..))
      · exact takeTrap_memory ..

theorem execTdemStore_memory (f : BitVec 4) (a b : BitVec 8) : KeepsMemory s (execTdemStore f a b s) := by
  unfold execTdemStore
  refine longLatency_memory fun u g => ?_
  extract_lets
  split
  · exact takeTrap_memory ..
  · split_ifs
    · exact takeTrap_memory ..
    · exact takeTrap_memory ..
    · exact takeTrap_memory ..
    · exact takeTrap_memory ..
    · rfl
    · exact takeTrap_memory ..
    · exact takeTrap_memory ..
    · split
      · rw [rangeHook_dev ‹_›]
      · rfl

theorem execTdemForce_memory (a b : BitVec 8) : KeepsMemory s (execTdemForce a b s) := by
  unfold execTdemForce
  refine longLatency_memory fun u g => ?_
  extract_lets
  split
  · exact takeTrap_memory ..
  · split_ifs
    · exact takeTrap_memory ..
    · exact takeTrap_memory ..
    · exact takeTrap_memory ..
    · rfl
    · split
      · rw [rangeHook_dev ‹_›]
      · rfl

theorem execTdemDrop_memory (a : BitVec 8) : KeepsMemory s (execTdemDrop a s) := checked_memory fun _ => rfl

theorem execTdemQuery_memory (a b : BitVec 8) : KeepsMemory s (execTdemQuery a b s) := checked_memory fun _ => rfl

theorem execTdemDiscard_memory (b : BitVec 8) : KeepsMemory s (execTdemDiscard b s) := by
  unfold execTdemDiscard
  refine checked_memory fun u => ?_
  extract_lets
  split_ifs <;> simp

theorem execChBind_memory (a b : BitVec 8) : KeepsMemory s (execChBind a b s) := by
  unfold execChBind
  refine checked_memory fun u => ?_
  extract_lets
  split
  · exact takeTrap_memory ..
  · extract_lets
    split_ifs
    case neg => rfl
    all_goals exact takeTrap_memory ..

theorem execChBond_memory (a b : BitVec 8) : KeepsMemory s (execChBond a b s) :=
  checked_memory fun _ => by dsimp only; split <;> simp

theorem execChMode_memory (a b : BitVec 8) : KeepsMemory s (execChMode a b s) :=
  checked_memory fun _ => by dsimp only; split <;> simp

theorem execChStep_memory (a : BitVec 8) : KeepsMemory s (execChStep a s) :=
  longLatency_memory fun _ _ => by dsimp only; split <;> simp

theorem execChRun_memory (a b : BitVec 8) : KeepsMemory s (execChRun a b s) :=
  longLatency_memory fun _ _ => by dsimp only; split_ifs <;> simp

theorem execChEnv_memory (a : BitVec 8) : KeepsMemory s (execChEnv a s) :=
  longLatency_memory fun _ _ => by dsimp only; split <;> simp

theorem execChQuery_memory (a : BitVec 8) : KeepsMemory s (execChQuery a s) := by
  unfold execChQuery
  exact checked_memory fun _ => rfl

theorem execChReset_memory : KeepsMemory s (execChReset s) := checked_memory fun _ => rfl

theorem execTraceQuery_memory (a : BitVec 8) : KeepsMemory s (execTraceQuery a s) := checked_memory fun _ => rfl

/-! ### Jobs and privileged instructions -/

theorem execJobLaunch_memory (a b : BitVec 8) : KeepsMemory s (execJobLaunch a b s) := by
  unfold execJobLaunch
  refine checked_memory fun u => blockBehind_memory ?_
  split
  · rfl
  · extract_lets addr
    split
    · exact takeTrap_memory ..
    · split
      · simp [memory_of_translate64 ‹translate64 _ _ _ _ _ _ = _›]
      · simp [memory_of_translate64 ‹translate64 _ _ _ _ _ _ = _›]
      · simp [memory_of_translate64 ‹translate64 _ _ _ _ _ _ = _›]
      · split <;> simp [memory_of_translate64 ‹translate64 _ _ _ _ _ _ = _›]

theorem execJobNext_memory (a : BitVec 8) : KeepsMemory s (execJobNext a s) := checked_memory fun _ => rfl

theorem execJobTrig_memory : KeepsMemory s (execJobTrig s) :=
  checked_memory fun _ => afterAccesses_memory _ (by simp)

theorem execJobDepwait_memory (a : BitVec 8) : KeepsMemory s (execJobDepwait a s) :=
  checked_memory fun _ => by split <;> simp

theorem execJobExit_memory : KeepsMemory s (execJobExit s) :=
  checked_memory fun _ => atExit_memory (endFragment_memory _)

theorem execJobExits_memory (a : BitVec 8) : KeepsMemory s (execJobExits a s) := by
  unfold execJobExits
  refine checked_memory fun u => atExit_memory ?_
  extract_lets addr
  split
  · exact takeTrap_memory ..
  · split
    · simp [memory_of_fetchCard ‹fetchCard _ _ _ _ _ = _›]
    · simp [memory_of_fetchCard ‹fetchCard _ _ _ _ _ = _›]
    · simp [memory_of_fetchCard ‹fetchCard _ _ _ _ _ = _›]
    · simp [memory_of_fetchCard ‹fetchCard _ _ _ _ _ = _›]
    · rename_i b d h
      extract_lets s1 c
      have h1 : s1.dev.mem = u.dev.mem := memory_of_fetchCard h
      split_ifs
      · exact (takeTrap_memory ..).trans h1
      · exact (blockBehind_memory (by simp)).trans h1
      · simpa using h1

theorem execJobYield_memory : KeepsMemory s (execJobYield s) :=
  checked_memory fun _ => by split <;> rfl

theorem execJobYieldonBar_memory (a b : BitVec 8) : KeepsMemory s (execJobYieldonBar a b s) :=
  checked_memory fun _ => blockBehind_memory (by
    split
    · simp
    · simp
    all_goals exact withTarget_memory (withBar_memory fun _ => by split_ifs <;> simp))

theorem execJobYieldonFlg_memory (a b : BitVec 8) : KeepsMemory s (execJobYieldonFlg a b s) :=
  checked_memory fun _ => by
    split
    · simp
    · exact withTarget_memory (by split <;> simp)

theorem execSysTrap_memory (a : BitVec 8) : KeepsMemory s (execSysTrap a s) :=
  checked_memory fun _ => by split <;> simp

theorem execSysEret_memory : KeepsMemory s (execSysEret s) :=
  inTrapMode_memory (checked_memory fun _ => by split <;> simp)

theorem execSysCtlrd_memory (a b : BitVec 8) : KeepsMemory s (execSysCtlrd a b s) :=
  checked_memory_of (by
    dsimp only
    split
    · simp
    · split <;> simp)

theorem execSysParkrd_memory (a b : BitVec 8) : KeepsMemory s (execSysParkrd a b s) :=
  inTrapMode_memory (checked_memory fun _ => parkOffset_memory (by simp))

theorem execSysParkwr_memory (a b : BitVec 8) : KeepsMemory s (execSysParkwr a b s) :=
  inTrapMode_memory (checked_memory fun _ => parkOffset_memory rfl)

theorem execSysWatch_memory (i : BitVec 2) (a : BitVec 8) : KeepsMemory s (execSysWatch i a s) :=
  inTrapMode_memory (checked_memory fun _ => by dsimp only; split <;> simp)

theorem execSysTlbinv_memory (a : BitVec 8) : KeepsMemory s (execSysTlbinv a s) :=
  inTrapMode_memory (checked_memory fun _ => by
    split
    · simp
    · dsimp only
      split <;> simp)

theorem execSysHalt_memory : KeepsMemory s (execSysHalt s) := inTrapMode_memory (checked_memory fun _ => rfl)

/-! ### What the page requests' answers leave -/

@[simp] theorem refuseLink_memory (writes : List Link) (granted : Bool) (page : Nat) (k : Link) :
    (refuseLink writes granted page s k).dev.mem = s.dev.mem := by
  unfold refuseLink
  split
  · exact refuseOp_memory ..
  · extract_lets t
    split
    · rw [stow_dev_mem]
      split <;> rw [takeTrap_memory] <;> exact focusOn_memory ..
    · rfl
  · exact dropCard_memory ..
  · split
    · exact answerLaunch_memory ..
    · rfl
  · exact dropDone_memory ..
  · rfl
  · rfl

@[simp] theorem refusePage_memory (m : Missing) : (refusePage s m).dev.mem = s.dev.mem := by
  unfold refusePage
  extract_lets granted same
  exact foldl_state_memory (fun t k => refuseLink_memory ..) ..

theorem execPrgResponse_memory (group code : Nat) : KeepsMemory s (execPrgResponse group code s) := by
  refine event_memory ?_
  extract_lets
  split
  · rfl
  · split
    · exact foldl_memory (fun d m => setPhase_memory d ..) ..
    · exact foldl_state_memory (fun t m => refusePage_memory ..) ..
    · exact (foldl_memory (fun d k => updCtx_memory d ..) ..).trans (foldl_memory (fun d m => failPage_memory d ..) ..)
end

end Sys2Proof.Machine
end

section
/-! SUPPORT. The rows and instructions that write memory keep its canonical form. -/

namespace Sys2Proof.Machine

/-! ### The rows that write memory -/

/-- The next state, where there is one, holds memory in its canonical form. -/
def NextWf (o : Out) : Prop := onNext o fun t => Memory.wf t.dev.mem = true

section
variable {s : State}

theorem KeepsMemory.nextWf {o : Out} (ho : KeepsMemory s o) (h : Memory.wf s.dev.mem = true) : NextWf o := by
  cases o with
  | next t => exact (congrArg (Memory.wf · = true) ho).mpr h
  | fault => trivial
  | refused => trivial

theorem stow_wf (h : Memory.wf s.dev.mem = true) : Memory.wf (stow s).dev.mem = true := (stow_dev_mem s).symm ▸ h

theorem event_wf {k : State → State} (h : Memory.wf s.dev.mem = true)
    (hk : ∀ u, Memory.wf u.dev.mem = true → Memory.wf (k u).dev.mem = true) : NextWf (event s k) :=
  hk _ (stow_wf h)

theorem hostReg_wf {k : State → State} (h : Memory.wf s.dev.mem = true)
    (hk : ∀ u, Memory.wf u.dev.mem = true → Memory.wf (k u).dev.mem = true) : NextWf (hostReg s k) :=
  event_wf h fun u hu => by
    split
    · exact hu
    · exact hk u hu

theorem slotReg_wf {slot : Nat} {k : State → State} (h : Memory.wf s.dev.mem = true)
    (hk : ∀ u, Memory.wf u.dev.mem = true → Memory.wf (k u).dev.mem = true) : NextWf (slotReg slot s k) :=
  hostReg_wf h fun u hu => by
    split
    · exact hk u hu
    · exact hu

theorem stepping_wf {uid id : Nat} {k : Crew → Op → State} (h : Memory.wf s.dev.mem = true)
    (hk : ∀ c o, Memory.wf (k c o).dev.mem = true) : Memory.wf (stepping s uid id k).dev.mem = true := by
  fun_cases stepping
  case case3 => exact hk ..
  all_goals exact h

variable (h : Memory.wf s.dev.mem = true)
include h

theorem execKeyInstall_wf : NextWf (execKeyInstall s) :=
  hostReg_wf h fun u hu => by
    split
    · exact hu
    · exact rekeyLines_wf _ _ _ _ hu

theorem execPcclrDone_wf : NextWf (execPcclrDone s) :=
  hostReg_wf h fun u hu => by
    split
    · exact hu
    · dsimp only
      split
      · exact clearLines_wf _ _ _ hu
      · exact hu

theorem execHubFlush_wf (i : Nat) : NextWf (execHubFlush i s) :=
  event_wf h fun u hu => by
    split
    · split
      · exact hu
      · exact deliverHub_wf _ _ hu
    · exact hu

theorem execSalamanderBatch_wf (die : Nat) : NextWf (execSalamanderBatch die s) :=
  event_wf h fun u hu => by
    split
    · exact sendBatch_wf _ hu
    · exact hu

theorem execDoneWrite_wf (j : Nat) : NextWf (execDoneWrite j s) :=
  event_wf h fun u hu => by
    split
    · split
      · exact writeDone_wf _ _ hu
      · exact hu
    · exact hu

theorem execChainStep_wf (c : Nat) : NextWf (execChainStep c s) :=
  event_wf h fun u hu => by
    split
    · exact hu
    · refine stepping_wf hu fun x o => ?_
      split
      · exact hu
      · split
        · exact stepRun_wf _ _ _ hu
        · exact hu

theorem execChainComplete_wf (c o : Nat) : NextWf (execChainComplete c o s) :=
  event_wf h fun u hu => stepping_wf hu fun x p => by
    split
    · exact hu
    · split
      · exact hu
      · split
        · extract_lets buf ts r
          have hr : Memory.wf r.dev.mem = true := (ioOpen_memory ..).symm ▸ hu
          split
          · exact (chainStop_memory ..).symm ▸ hr
          · exact writeSnap_wf _ _ _ _ _ (fun _ _ _ h => (finishChain_memory ..).symm ▸ h) hr
        · exact (finishChain_memory ..).symm ▸ hu

theorem execDemandBlock_wf (c o b : Nat) : NextWf (execDemandBlock c o b s) :=
  event_wf h fun u hu => stepping_wf hu fun x p => by
    split
    · exact hu
    · split
      · exact runBlock_wf _ _ _ hu
      · exact hu

theorem execCopyUnit_wf (c o k : Nat) : NextWf (execCopyUnit c o k s) :=
  event_wf h fun u hu => stepping_wf hu fun x q => by
    split
    · exact copyStep_wf _ _ _ _ hu
    · exact hu

theorem execFullEmptyRetest_wf (c o : Nat) : NextWf (execFullEmptyRetest c o s) :=
  event_wf h fun u hu => stepping_wf hu fun x q => by
    split
    · exact takeLines_wf _ _ _ _ hu
    · split
      · split
        · exact copyStep_wf _ _ _ _ hu
        · exact hu
      · exact hu

theorem execStoreComplete_wf (c o : Nat) : NextWf (execStoreComplete c o s) := event_wf h fun _ hu => memProgress_wf _ _ hu

theorem execLoadComplete_wf (c o : Nat) : NextWf (execLoadComplete c o s) := event_wf h fun _ hu => memProgress_wf _ _ hu

theorem execCxfqhead_wf (slot : Nat) (v : BitVec 64) : NextWf (execCxfqhead slot v s) :=
  slotReg_wf h fun _ hu => flushFq_wf _ _ hu

theorem execCxfq_wf (slot : Nat) (v : BitVec 64) : NextWf (execCxfq slot v s) :=
  slotReg_wf h fun _ hu => flushFq_wf _ _ hu

theorem execAttest_wf (v : BitVec 64) : NextWf (execAttest v s) :=
  hostReg_wf h fun u hu => by
    extract_lets a
    split
    · exact hu
    · exact storeBytes_wf _ _ _ _ (by simpa +zetaDelta using hu)

theorem execPcclr_wf (v : BitVec 64) : NextWf (execPcclr v s) :=
  hostReg_wf h fun u hu => by
    extract_lets page c
    split
    · exact hu
    · split
      · exact hu
      · exact clearLines_wf _ _ _ hu

omit h in
theorem ctxWrite_wf {t : State} {slot n : Nat} {x : Word} (h : Memory.wf s.dev.mem = true)
    (ht : ctxWrite s slot n x = some t) :
    Memory.wf t.dev.mem = true := by
  revert ht
  fun_cases ctxWrite <;> intro ht <;> cases ht
  case case4 => exact flushHubs_wf _ _ h
  all_goals exact h

theorem execCxcwdWrite_wf (slot : Nat) (v : BitVec 64) : NextWf (execCxcwdWrite slot v s) :=
  slotReg_wf h fun u hu => by
    extract_lets c
    split
    · exact (cwRefuse_memory ..).symm ▸ hu
    · split
      · exact ctxWrite_wf hu ‹_›
      · exact (cwRefuse_memory ..).symm ▸ hu

omit h in
theorem ctlWrite_wf {t : State} {n : Nat} {x : Word} (h : Memory.wf s.dev.mem = true) (ht : ctlWrite s n x = some t) :
    Memory.wf t.dev.mem = true := by
  revert ht
  fun_cases ctlWrite <;> intro ht
  case case2 =>
    obtain ⟨u, hu, rfl⟩ := Option.map_eq_some_iff.mp ht
    exact (focusOn_memory ..).symm ▸ ctxWrite_wf (stow_wf h) hu
  case case7 =>
    obtain ⟨f, -, rfl⟩ := Option.map_eq_some_iff.mp ht
    exact h
  case case1 | case4 => cases ht
  case case3 | case5 | case6 =>
    cases ht
    exact h

theorem checked_wf {i : Instr} {c : RoleClass} {k : State → State}
    (hk : ∀ u, Memory.wf u.dev.mem = true → Memory.wf (k u).dev.mem = true) : NextWf (checked i c s k) := by
  have ht (cause : Nat) : NextWf (.next (takeTrap s cause false)) :=
    KeepsMemory.nextWf (takeTrap_memory cause false) h
  unfold checked
  split
  · exact ht _
  · split
    · exact ht _
    · exact hk _ ((congrArg Dev.mem (latchClk_dev ..)).symm ▸ h)

theorem inTrapMode_wf {o : Out} (ho : NextWf o) : NextWf (inTrapMode s o) := by
  unfold inTrapMode
  split
  · exact ho
  · exact KeepsMemory.nextWf (takeTrap_memory 8 false) h

theorem execSysCtlwr_wf (a b : BitVec 8) : NextWf (execSysCtlwr a b s) :=
  inTrapMode_wf h (checked_wf h fun u hu => by
    dsimp only
    split
    · exact (takeTrap_memory ..).symm ▸ hu
    · split
      · exact hu
      · rename_i t ht _
        exact (congrArg Dev.mem (advance_dev t)).symm ▸ ctlWrite_wf hu ht)

theorem execRegisterWrite_wf (addr : Nat) (v : BitVec 64) : NextWf (execRegisterWrite addr v s) := by
  unfold execRegisterWrite
  split
  · exact (execFsclr_memory ..).nextWf h
  · exact (execQlaunch_memory ..).nextWf h
  · exact (execCxctl_memory ..).nextWf h
  · exact execCxfq_wf h ..
  · exact execCxfqhead_wf h ..
  · exact (execCxfresp_memory ..).nextWf h
  · exact (execCxinvc_memory ..).nextWf h
  · exact (execCxpre_memory ..).nextWf h
  · exact (execCxcwn_memory ..).nextWf h
  · exact execCxcwdWrite_wf h ..
  · exact execPcclr_wf h ..
  · exact (execPcmark_memory ..).nextWf h
  · exact (execPooldec_memory ..).nextWf h
  · exact (execRtload_memory ..).nextWf h
  · exact (execFwload_memory ..).nextWf h
  · exact execAttest_wf h ..
  · exact (execKeyctl_memory ..).nextWf h
  · exact (execPwrlim_memory ..).nextWf h
  · exact event_wf h fun u hu => (writeField_memory ..).symm ▸ hu

theorem execReset_wf : NextWf (execReset s) := resetDev_wf _ (stow_wf h)

omit h in
@[simp] theorem hostClears_memory (n : Nat) (d : Dev) (line : Nat) : (hostClears n d line).mem = d.mem := by
  unfold hostClears
  split <;> rfl

theorem execHostWrite_wf (pa : Nat) (bytes : List (BitVec 8)) : NextWf (execHostWrite pa bytes s) :=
  event_wf h fun u hu => by
    extract_lets lines src d1 d2 len
    have h2 : Memory.wf d2.mem = true :=
      hostBytes_wf _ _ _ ((foldl_memory (fun d l => hostClears_memory _ d l) _ _).symm ▸ hu)
    split
    · exact h2
    · exact foldl_dev_wf _ (fun d k hd => watchWrite_wf _ _ _ _ hd) _ _ h2

end

end Sys2Proof.Machine
end

section
/-! Every instruction, every step of the device and so every step of the machine keeps memory in its canonical form. -/

namespace Sys2Proof.Machine

/-! ### Every instruction and every step of the device keep the canonical form -/

section
variable {s : State} (h : Memory.wf s.dev.mem = true)
include h

theorem exec_wf (i : Instr) : NextWf (exec i s) := by
  cases i
  case movCompact => exact (execMovCompact_memory ..).nextWf h
  case addI32Compact | subI32Compact | andCompact | orCompact | xorCompact | shlCompact | shrN32Compact | shrI32Compact =>
    dsimp only [exec]
    exact compactInt_memory.nextWf h
  case addF32Compact | subF32Compact | mulF32Compact | maxF32Compact | minF32Compact | addF32 | subF32 | mulF32 |
      fmaF32 | minF32 | maxF32 =>
    dsimp only [exec]
    exact float32_memory.nextWf h
  case addF16x2Compact | mulF16x2Compact | addF16x2 | mulF16x2 | fmaF16x2 | addBf16x2 | fmaBf16x2 | maxF16x2 =>
    dsimp only [exec]
    exact halves_memory.nextWf h
  case addI32 | subI32 | mulI32 | mulhiI32 | mulhiN32 | madI32 | minI32 | maxI32 | minN32 | maxN32 | and | or | xor |
      andn | shl | shrN32 | shrI32 | rot | bfx | bfi | bitu =>
    dsimp only [exec]
    exact int32_memory.nextWf h
  case addI64 | subI64 | madN64N32 | mov64 =>
    dsimp only [exec]
    exact checked_pairEffect_memory.nextWf h
  case funF32 | cvt | sel | shfl | dot4I8 | dot4N8 | dot8I4 | dot2F16 | dot2Bf16 | sclx =>
    dsimp only [exec]
    exact checked_f3Effect_memory.nextWf h
  case cvtp => exact (execCvtp_memory ..).nextWf h
  case qnt => exact (execQnt_memory ..).nextWf h
  case dqn => exact (execDqn_memory ..).nextWf h
  case rdlane => exact (execRdlane_memory ..).nextWf h
  case wrlane => exact (execWrlane_memory ..).nextWf h
  case wred => exact (execWred_memory ..).nextWf h
  case wscan => exact (execWscan_memory ..).nextWf h
  case cmpI32 | cmpN32 | test =>
    dsimp only [exec]
    exact cmpInt_memory.nextWf h
  case cmpF32 => exact (execCmpF32_memory ..).nextWf h
  case mop => exact (execMop_memory ..).nextWf h
  case mmov => exact (execMmov_memory ..).nextWf h
  case movi | movhi | addi | andi | ori =>
    dsimp only [exec]
    exact imm16_memory.nextWf h
  case bra => exact (execBra_memory ..).nextWf h
  case brany => exact (execBrany_memory ..).nextWf h
  case brall => exact (execBrall_memory ..).nextWf h
  case brs => exact (execBrs_memory ..).nextWf h
  case joinat => exact (execJoinat_memory ..).nextWf h
  case call => exact (execCall_memory ..).nextWf h
  case ctlJmpr => exact (execCtlJmpr_memory ..).nextWf h
  case ctlReord => exact (execCtlReord_memory ..).nextWf h
  case ctlSleep => exact (execCtlSleep_memory ..).nextWf h
  case dot4F8 => exact (execDot4F8_memory ..).nextWf h
  case dot8F4 => exact (execDot8F4_memory ..).nextWf h
  case ld | st | lds | sts | ldc | stp | atom | red | atoms | ldu | stu =>
    dsimp only [exec]
    exact accessInstr_memory.nextWf h
  case ldrec => exact (execLdrec_memory ..).nextWf h
  case barInit => exact (execBarInit_memory ..).nextWf h
  case barArrive => exact (execBarArrive_memory ..).nextWf h
  case barExpect => exact (execBarExpect_memory ..).nextWf h
  case barArrivex => exact (execBarArrivex_memory ..).nextWf h
  case barWait => exact (execBarWait_memory ..).nextWf h
  case barWaitt => exact (execBarWaitt_memory ..).nextWf h
  case barTest => exact (execBarTest_memory ..).nextWf h
  case barEnroll => exact (execBarEnroll_memory ..).nextWf h
  case barDrop => exact (execBarDrop_memory ..).nextWf h
  case barInval => exact (execBarInval_memory ..).nextWf h
  case pbarArrive => exact (execPbarArrive_memory ..).nextWf h
  case pbarWait => exact (execPbarWait_memory ..).nextWf h
  case pbarTest => exact (execPbarTest_memory ..).nextWf h
  case fenceOpc => exact (execFenceOpc_memory ..).nextWf h
  case fenceIfetch => exact (execFenceIfetch_memory ..).nextWf h
  case fenceAsync => exact (execFenceAsync_memory ..).nextWf h
  case cpyLin | cpyTile | cpyGather | cpyScatter | cpyXform | cpyFill =>
    dsimp only [exec]
    exact (longLatency_memory fun u g => congrArg Dev.mem (issueCpy_dev u g ..)).nextWf h
  case cbatchSeal => exact (execCbatchSeal_memory ..).nextWf h
  case cbatchWait => exact (execCbatchWait_memory ..).nextWf h
  case cbatchTest => exact (execCbatchTest_memory ..).nextWf h
  case mmao => exact (execMmao_memory ..).nextWf h
  case mmat => exact (execMmat_memory ..).nextWf h
  case wbufLoad | wbufMcast =>
    dsimp only [exec]
    exact (longLatency_memory fun u g => congrArg Dev.mem (issueWbuf_dev u g ..)).nextWf h
  case wbufInval => exact (execWbufInval_memory ..).nextWf h
  case wbufQuery => exact (execWbufQuery_memory ..).nextWf h
  case tsmovToreg | tsmovFromreg =>
    dsimp only [exec]
    exact (longLatency_memory fun u g => congrArg Dev.mem (issueTsreg_dev u g ..)).nextWf h
  case tsmovTomem | tsmovFrommem =>
    dsimp only [exec]
    exact (longLatency_memory fun u g => congrArg Dev.mem (issueTsmem_dev u g ..)).nextWf h
  case tdefView => exact (execTdefView_memory ..).nextWf h
  case tdefConst => exact (execTdefConst_memory ..).nextWf h
  case top => exact (execTop_memory ..).nextWf h
  case tmap => exact (execTmap_memory ..).nextWf h
  case tdemStore => exact (execTdemStore_memory ..).nextWf h
  case tdemForce => exact (execTdemForce_memory ..).nextWf h
  case tdemDrop => exact (execTdemDrop_memory ..).nextWf h
  case tdemQuery => exact (execTdemQuery_memory ..).nextWf h
  case tdemDiscard => exact (execTdemDiscard_memory ..).nextWf h
  case chBind => exact (execChBind_memory ..).nextWf h
  case chBond => exact (execChBond_memory ..).nextWf h
  case chMode => exact (execChMode_memory ..).nextWf h
  case chStep => exact (execChStep_memory ..).nextWf h
  case chRun => exact (execChRun_memory ..).nextWf h
  case chEnv => exact (execChEnv_memory ..).nextWf h
  case chQuery => exact (execChQuery_memory ..).nextWf h
  case chReset => exact (execChReset_memory ..).nextWf h
  case traceClosest | traceAny =>
    dsimp only [exec]
    exact (longLatency_memory fun u g => congrArg Dev.mem (issueTrace_dev u g ..)).nextWf h
  case traceQuery => exact (execTraceQuery_memory ..).nextWf h
  case smpBil | smpPt | smpGather4 =>
    dsimp only [exec]
    exact (longLatency_memory fun u g => issueSmp_memory u g ..).nextWf h
  case jobLaunch => exact (execJobLaunch_memory ..).nextWf h
  case jobNext => exact (execJobNext_memory ..).nextWf h
  case jobTrig => exact (execJobTrig_memory ..).nextWf h
  case jobDepwait => exact (execJobDepwait_memory ..).nextWf h
  case jobExit => exact (execJobExit_memory ..).nextWf h
  case jobExits => exact (execJobExits_memory ..).nextWf h
  case jobYield => exact (execJobYield_memory ..).nextWf h
  case jobYieldonBar => exact (execJobYieldonBar_memory ..).nextWf h
  case jobYieldonFlg => exact (execJobYieldonFlg_memory ..).nextWf h
  case sysTrap => exact (execSysTrap_memory ..).nextWf h
  case sysEret => exact (execSysEret_memory ..).nextWf h
  case sysCtlrd => exact (execSysCtlrd_memory ..).nextWf h
  case sysCtlwr => exact execSysCtlwr_wf h ..
  case sysParkrd => exact (execSysParkrd_memory ..).nextWf h
  case sysParkwr => exact (execSysParkwr_memory ..).nextWf h
  case sysWatch => exact (execSysWatch_memory ..).nextWf h
  case sysTlbinv => exact (execSysTlbinv_memory ..).nextWf h
  case sysHalt => exact (execSysHalt_memory ..).nextWf h
  case lit => exact (execLit_memory ..).nextWf h
  case clauseBegin => exact (execClauseBegin_memory ..).nextWf h
  case fragmentAged => exact (execFragmentAged_memory ..).nextWf h
  case sleepExpire => exact (execSleepExpire_memory ..).nextWf h
  case waittTimeout => exact (execWaittTimeout_memory ..).nextWf h
  case loadComplete => exact execLoadComplete_wf h ..
  case storeComplete => exact execStoreComplete_wf h ..
  case fullEmptyRetest => exact execFullEmptyRetest_wf h ..
  case hubFlush => exact execHubFlush_wf h ..
  case qlaunch => exact (execQlaunch_memory ..).nextWf h
  case cardRead => exact (execCardRead_memory ..).nextWf h
  case crewPlace => exact (execCrewPlace_memory ..).nextWf h
  case placementHold => exact (execPlacementHold_memory ..).nextWf h
  case preqExpire => exact (execPreqExpire_memory ..).nextWf h
  case crewSave => exact (execCrewSave_memory ..).nextWf h
  case crewResume => exact (execCrewResume_memory ..).nextWf h
  case waveRetire => exact (execWaveRetire_memory ..).nextWf h
  case doneWrite => exact execDoneWrite_wf h ..
  case copyUnit => exact execCopyUnit_wf h ..
  case copyComplete => exact (execCopyComplete_memory ..).nextWf h
  case getin => exact (execGetin_memory ..).nextWf h
  case putout => exact (execPutout_memory ..).nextWf h
  case endRoutine => exact (execEndRoutine_memory ..).nextWf h
  case args => exact (execArgs_memory ..).nextWf h
  case routineFault => exact (execRoutineFault_memory ..).nextWf h
  case wbufComplete => exact (execWbufComplete_memory ..).nextWf h
  case mmaoComplete => exact (execMmaoComplete_memory ..).nextWf h
  case mmatComplete => exact (execMmatComplete_memory ..).nextWf h
  case tsmovComplete => exact (execTsmovComplete_memory ..).nextWf h
  case materialise => exact (execMaterialise_memory ..).nextWf h
  case demandBlock => exact execDemandBlock_wf h ..
  case tdemComplete => exact (execTdemComplete_memory ..).nextWf h
  case chainStep => exact execChainStep_wf h ..
  case chainComplete => exact execChainComplete_wf h ..
  case traceComplete => exact (execTraceComplete_memory ..).nextWf h
  case smpComplete => exact (execSmpComplete_memory ..).nextWf h
  case salamanderBatch => exact execSalamanderBatch_wf h ..
  case pageArrive => exact (execPageArrive_memory ..).nextWf h
  case atsCompletion => exact (execAtsCompletion_memory ..).nextWf h
  case atsInvalidation => exact (execAtsInvalidation_memory ..).nextWf h
  case invalidationComplete => exact (execInvalidationComplete_memory ..).nextWf h
  case prgResponse => exact (execPrgResponse_memory ..).nextWf h
  case wrapClear => exact (execWrapClear_memory ..).nextWf h
  case cxctl => exact (execCxctl_memory ..).nextWf h
  case cxfresp => exact (execCxfresp_memory ..).nextWf h
  case cxinvc => exact (execCxinvc_memory ..).nextWf h
  case cxpre => exact (execCxpre_memory ..).nextWf h
  case cxfq => exact execCxfq_wf h ..
  case cxcwn => exact (execCxcwn_memory ..).nextWf h
  case cxcwdRead => exact (execCxcwdRead_memory ..).nextWf h
  case cxcwdWrite => exact execCxcwdWrite_wf h ..
  case hostWrite => exact execHostWrite_wf h ..
  case snoop => exact (execSnoop_memory ..).nextWf h
  case backInvalidation => exact (execBackInvalidation_memory ..).nextWf h
  case counterDecay => exact (execCounterDecay_memory ..).nextWf h
  case frameFill => exact (execFrameFill_memory ..).nextWf h
  case frameDrain => exact (execFrameDrain_memory ..).nextWf h
  case l2Evict => exact (execL2Evict_memory ..).nextWf h
  case hbmUncorrectable => exact (execHbmUncorrectable_memory ..).nextWf h
  case poolFail => exact (execPoolFail_memory ..).nextWf h
  case hostLinkDown => exact (execHostLinkDown_memory ..).nextWf h
  case hostLinkUp => exact (execHostLinkUp_memory ..).nextWf h
  case pcclr => exact execPcclr_wf h ..
  case pcclrDone => exact execPcclrDone_wf h ..
  case pcmark => exact (execPcmark_memory ..).nextWf h
  case keyctl => exact (execKeyctl_memory ..).nextWf h
  case keyInstall => exact execKeyInstall_wf h ..
  case pooldec => exact (execPooldec_memory ..).nextWf h
  case rtload => exact (execRtload_memory ..).nextWf h
  case fwload => exact (execFwload_memory ..).nextWf h
  case imageLoadDone => exact (execImageLoadDone_memory ..).nextWf h
  case attest => exact execAttest_wf h ..
  case fsclr => exact (execFsclr_memory ..).nextWf h
  case reset => exact execReset_wf h ..
  case startupStep => exact (execStartupStep_memory ..).nextWf h
  case startupTimeout => exact (execStartupTimeout_memory ..).nextWf h
  case portFail => exact (execPortFail_memory ..).nextWf h
  case pwrlim => exact (execPwrlim_memory ..).nextWf h
  case powerCheck => exact (execPowerCheck_memory ..).nextWf h
  case registerWrite => exact execRegisterWrite_wf h ..
  case cxfqhead => exact execCxfqhead_wf h ..
  case tracePark => exact (execTracePark_memory ..).nextWf h
  case smpPark => exact (execSmpPark_memory ..).nextWf h

end

/-- The row of the instruction table that a step of the device is. -/
noncomputable def DevStep.row : DevStep → Instr
  | .loadComplete c o => .loadComplete c o
  | .storeComplete c o => .storeComplete c o
  | .fullEmptyRetest c o => .fullEmptyRetest c o
  | .chainComplete c o => .chainComplete c o
  | .copyUnit c o u => .copyUnit c o u
  | .copyComplete c o => .copyComplete c o
  | .wbufComplete c o => .wbufComplete c o
  | .tsmovComplete c o => .tsmovComplete c o
  | .getin c o => .getin c o
  | .putout c o => .putout c o
  | .endRoutine c o => .endRoutine c o
  | .args c o => .args c o
  | .routineFault c o => .routineFault c o
  | .mmaoComplete c o => .mmaoComplete c o
  | .mmatComplete c o => .mmatComplete c o
  | .materialise c n => .materialise c n
  | .demandBlock c o b => .demandBlock c o b
  | .tdemComplete c o => .tdemComplete c o
  | .smpComplete c o => .smpComplete c o
  | .smpPark c o => .smpPark c o
  | .traceComplete c o => .traceComplete c o
  | .tracePark c o => .tracePark c o
  | .fragmentAged f => .fragmentAged f
  | .sleepExpire f => .sleepExpire f
  | .waittTimeout f => .waittTimeout f
  | .crewResume c cx cy => .crewResume c cx cy
  | .placementHold c => .placementHold c
  | .chainStep c => .chainStep c
  | .preqExpire c => .preqExpire c
  | .crewSave c => .crewSave c
  | .waveRetire c w => .waveRetire c w
  | .crewPlace c => .crewPlace c
  | .cardRead die i => .cardRead die i
  | .doneWrite j => .doneWrite j
  | .salamanderBatch die => .salamanderBatch die
  | .pageArrive die slot page => .pageArrive die slot page
  | .invalidationComplete i => .invalidationComplete i
  | .wrapClear tag => .wrapClear tag
  | .hubFlush i => .hubFlush i
  | .counterDecay => .counterDecay
  | .frameFill frame => .frameFill frame
  | .frameDrain die frame => .frameDrain die frame
  | .l2Evict line => .l2Evict line
  | .pcclrDone => .pcclrDone
  | .keyInstall => .keyInstall
  | .imageLoadDone => .imageLoadDone
  | .startupStep die ok => .startupStep die ok
  | .startupTimeout die => .startupTimeout die

theorem DevStep.run_eq_exec_row (e : DevStep) (s : State) : e.run s = exec e.row s := by cases e <;> rfl

section
variable {s : State}

theorem DevStep.run_wf (h : Memory.wf s.dev.mem = true) (e : DevStep) : NextWf (e.run s) :=
  e.run_eq_exec_row s ▸ exec_wf h e.row

theorem deviceStep_wf (h : Memory.wf s.dev.mem = true) : NextWf (deviceStep s) := by
  unfold deviceStep
  split
  · exact h
  · exact DevStep.run_wf h _

theorem issue_wf (h : Memory.wf s.dev.mem = true) : NextWf (issue s) := by
  unfold issue
  split
  · exact exec_wf h _
  · split
    · exact KeepsMemory.nextWf (relatch_memory s) h
    · split
      · exact exec_wf h _
      · exact KeepsMemory.nextWf (takeTrap_memory 8 false) h

theorem agendaStep_wf (h : Memory.wf s.dev.mem = true) (a : Act) : NextWf (agendaStep a s) := by
  unfold agendaStep
  split
  · split
    · exact exec_wf h _
    · exact h
  · extract_lets t
    have ht : Memory.wf t.dev.mem = true := (focusOn_memory ..).symm ▸ stow_wf h
    split
    · exact issue_wf ht
    · exact h

@[simp] theorem tidy_memory (s : State) : (tidy s).dev.mem = s.dev.mem := by simp [tidy]

@[simp] theorem takeFocus_memory (s : State) : (takeFocus s).dev.mem = s.dev.mem := by
  fun_cases takeFocus
  case case2 => exact focusOn_memory ..
  all_goals rfl

theorem settle_memory (s : State) : (settle s).dev.mem = s.dev.mem := by
  rw [settle, takeFocus_memory, tidy_memory]

theorem finish_wf {o : Out} (ho : NextWf o) : NextWf (finish o) := by
  cases o with
  | next t => exact KeepsMemory.nextWf (settle_memory t) ho
  | fault => trivial
  | refused => trivial

theorem step_wf (h : Memory.wf s.dev.mem = true) : NextWf (step s) := by
  unfold step
  split
  · rename_i a rest _
    have hr : Memory.wf ({ s with agenda := rest } : State).dev.mem = true := h
    exact finish_wf (agendaStep_wf hr a)
  · refine finish_wf ?_
    split
    · exact issue_wf h
    · exact deviceStep_wf h

/-- Settles O60: memory is empty after reset, and every step that writes it writes bytes one at a time through `putByte`,
whose table stays canonical, or is the reset, which keeps a part of it in order. -/
theorem memoryCanonical : Obligations.MemoryCanonical := by
  unfold Obligations.MemoryCanonical
  refine ⟨reset_memory_wf, fun s t h hst => ?_⟩
  have hn := step_wf h
  rwa [hst] at hn

end

end Sys2Proof.Machine
end

section
/-! The decoder and the encoder: a field read back from each packed form, a word packed again of its fields, and so each
undoes the other (R53 to R55, R65 to R73). -/

namespace Sys2Proof

/-! ### A word is packed of the fields read from it -/

theorem extract_extract {n : Nat} (w : BitVec n) {s l s' l' : Nat} (h : s' + l' ≤ l) :
    (w.extractLsb' s l).extractLsb' s' l' = w.extractLsb' (s + s') l' := by
  apply BitVec.eq_of_getLsbD_eq
  intro i hi
  simp [hi, Nat.add_assoc]
  omega

/-- A field is two fields one behind the other exactly where each is its part of it. -/
theorem append_eq_extract_iff {m n k : Nat} (x : BitVec m) (y : BitVec n) (w : BitVec k) (s : Nat) :
    x ++ y = w.extractLsb' s (m + n) ↔ x = w.extractLsb' (s + n) m ∧ y = w.extractLsb' s n := by
  constructor
  · intro h
    refine ⟨?_, ?_⟩
    · rw [← extract_extract w (l := m + n) (by omega), ← h, BitVec.extractLsb'_append_eq_left]
    · rw [← BitVec.extractLsb'_append_eq_right (a := x) (b := y), h, extract_extract w (by omega), Nat.add_zero]
  · rintro ⟨rfl, rfl⟩
    exact BitVec.extractLsb'_append_extractLsb'_eq_extractLsb' rfl

theorem split32_eq_iff {x w : BitVec 32} : split32 x = split32 w ↔ x = w.extractLsb' 0 32 := by
  rw [extract_whole]
  constructor
  · intro h
    simp only [split32, List.cons.injEq, and_true] at h
    rw [← split32_join x, h.1, h.2, split32_join]
  · exact congrArg _

section
variable {s : Nat} {w : BitVec 32}

theorem cat44_eq_iff {x y} : cat44 x y = w.extractLsb' s 8 ↔ x = w.extractLsb' (s + 4) 4 ∧ y = w.extractLsb' s 4 :=
  append_eq_extract_iff x y w s
theorem cat53_eq_iff {x y} : cat53 x y = w.extractLsb' s 8 ↔ x = w.extractLsb' (s + 3) 5 ∧ y = w.extractLsb' s 3 :=
  append_eq_extract_iff x y w s
theorem cat13_eq_iff {x y} : cat13 x y = w.extractLsb' s 4 ↔ x = w.extractLsb' (s + 3) 1 ∧ y = w.extractLsb' s 3 :=
  append_eq_extract_iff x y w s
theorem cat31_eq_iff {x y} : cat31 x y = w.extractLsb' s 4 ↔ x = w.extractLsb' (s + 1) 3 ∧ y = w.extractLsb' s 1 :=
  append_eq_extract_iff x y w s
theorem cat22_eq_iff {x y} : cat22 x y = w.extractLsb' s 4 ↔ x = w.extractLsb' (s + 2) 2 ∧ y = w.extractLsb' s 2 :=
  append_eq_extract_iff x y w s
theorem cat314_eq_iff {x y z} : cat314 x y z = w.extractLsb' s 8 ↔
    x = w.extractLsb' (s + 5) 3 ∧ y = w.extractLsb' (s + 4) 1 ∧ z = w.extractLsb' s 4 :=
  (append_eq_extract_iff x _ w s).trans (and_congr .rfl (append_eq_extract_iff y z w s))
theorem cat233_eq_iff {x y z} : cat233 x y z = w.extractLsb' s 8 ↔
    x = w.extractLsb' (s + 6) 2 ∧ y = w.extractLsb' (s + 3) 3 ∧ z = w.extractLsb' s 3 :=
  (append_eq_extract_iff x _ w s).trans (and_congr .rfl (append_eq_extract_iff y z w s))

theorem pack4_eq_iff {b a d lo} : pack4 b a d lo = w.extractLsb' 0 32 ↔
    (b = w.extractLsb' 24 8 ∧ a = w.extractLsb' 16 8) ∧ d = w.extractLsb' 8 8 ∧ lo = w.extractLsb' 0 8 :=
  (append_eq_extract_iff (b ++ a) (d ++ lo) w 0).trans
    (and_congr (append_eq_extract_iff b a w 16) (append_eq_extract_iff d lo w 0))
theorem packFI_eq_iff {i d lo} : packFI i d lo = w.extractLsb' 0 32 ↔
    i = w.extractLsb' 16 16 ∧ d = w.extractLsb' 8 8 ∧ lo = w.extractLsb' 0 8 :=
  (append_eq_extract_iff i _ w 0).trans (and_congr .rfl (append_eq_extract_iff d lo w 0))
theorem packFB_eq_iff {o m lo} : packFB o m lo = w.extractLsb' 0 32 ↔
    o = w.extractLsb' 12 20 ∧ m = w.extractLsb' 8 4 ∧ lo = w.extractLsb' 0 8 :=
  (append_eq_extract_iff o _ w 0).trans (and_congr .rfl (append_eq_extract_iff m lo w 0))
theorem packFT_eq_iff {p b a d lo} : packFT p b a d lo = w.extractLsb' 0 32 ↔
    (p = w.extractLsb' 26 6 ∧ b = w.extractLsb' 20 6) ∧ a = w.extractLsb' 14 6 ∧ d = w.extractLsb' 8 6 ∧
      lo = w.extractLsb' 0 8 :=
  (append_eq_extract_iff (p ++ b) _ w 0).trans (and_congr (append_eq_extract_iff p b w 20)
    ((append_eq_extract_iff a _ w 0).trans (and_congr .rfl (append_eq_extract_iff d lo w 0))))
theorem packLIT_eq_iff {l lo} : packLIT l lo = w.extractLsb' 0 32 ↔ l = w.extractLsb' 8 24 ∧ lo = w.extractLsb' 0 8 :=
  append_eq_extract_iff l lo w 0
end

theorem decode_split32_append {w : BitVec 32} {i : Instr} {lo : BitVec 8} {sub : BitVec 4} (rest : List Parcel)
    (hlo : w.extractLsb' 0 8 = lo) (h0 : lo.getLsbD 0 = true) (hsub : w.extractLsb' 8 4 = sub)
    (h : decodeMaj lo.toNat sub.toNat w = .ok i) : decode (split32 w ++ rest) = .ok (i, rest) := by
  subst hlo hsub
  have hb : (w.extractLsb' 0 16).getLsbD 0 = true := by simpa using h0
  simp only [split32, List.cons_append, List.nil_append, decode, hb, if_true, split32_join, decode32, h]

theorem decode_packC_append (s d op) (rest : List Parcel) :
    decode ([packC s d op] ++ rest) = .ok (decode16 (packC s d op), rest) := by
  simp only [List.cons_append, List.nil_append, decode, packC_bit0, Bool.false_eq_true, if_false]

/-! ### A word of each form decodes by its low byte, and by SUB where the form has one (R53, R71) -/

section
variable {b a d lo : BitVec 8} {i : Instr} (rest : List Parcel) (h0 : lo.getLsbD 0 = true)
include h0

theorem decode_pack4 (h : decodeMaj lo.toNat (d.extractLsb' 0 4).toNat (pack4 b a d lo) = .ok i) :
    decode (split32 (pack4 b a d lo) ++ rest) = .ok (i, rest) :=
  decode_split32_append rest ((pack4_0 b a d lo 0 8 (by omega)).trans (extract_whole lo)) h0
    (pack4_1 b a d lo 8 4 (by omega) (by omega)) h

theorem decode_pack4_sub {f sub : BitVec 4} (h : decodeMaj lo.toNat sub.toNat (pack4 b a (cat44 f sub) lo) = .ok i) :
    decode (split32 (pack4 b a (cat44 f sub) lo) ++ rest) = .ok (i, rest) := by
  refine decode_pack4 rest h0 ?_
  rwa [cat44_low _ _ _ _ (by omega), extract_whole]

theorem decode_packFI {v : BitVec 16} (h : decodeMaj lo.toNat (d.extractLsb' 0 4).toNat (packFI v d lo) = .ok i) :
    decode (split32 (packFI v d lo) ++ rest) = .ok (i, rest) :=
  decode_split32_append rest ((packFI_0 v d lo 0 8 (by omega)).trans (extract_whole lo)) h0
    (packFI_1 v d lo 8 4 (by omega) (by omega)) h

theorem decode_packFB {o : BitVec 20} {m : BitVec 4} (h : decodeMaj lo.toNat m.toNat (packFB o m lo) = .ok i) :
    decode (split32 (packFB o m lo) ++ rest) = .ok (i, rest) :=
  decode_split32_append rest ((packFB_0 o m lo 0 8 (by omega)).trans (extract_whole lo)) h0
    ((packFB_1 o m lo 8 4 (by omega) (by omega)).trans (extract_whole m)) h

theorem decode_packFT {p b a d : BitVec 6}
    (h : decodeMaj lo.toNat (d.extractLsb' 0 4).toNat (packFT p b a d lo) = .ok i) :
    decode (split32 (packFT p b a d lo) ++ rest) = .ok (i, rest) :=
  decode_split32_append rest ((packFT_0 p b a d lo 0 8 (by omega)).trans (extract_whole lo)) h0
    (packFT_1 p b a d lo 8 4 (by omega) (by omega)) h

theorem decode_packLIT {l : BitVec 24} (h : decodeMaj lo.toNat (l.extractLsb' 0 4).toNat (packLIT l lo) = .ok i) :
    decode (split32 (packLIT l lo) ++ rest) = .ok (i, rest) :=
  decode_split32_append rest ((packLIT_0 l lo 0 8 (by omega)).trans (extract_whole lo)) h0
    (packLIT_1 l lo 8 4 (by omega)) h

end

/-! ### Decoding undoes encoding -/

theorem decode_encode_append (i : Instr) (rest : List Parcel) (h : encode i ≠ []) :
    decode (encode i ++ rest) = .ok (i, rest) := by
  cases i
  case movCompact | addI32Compact | subI32Compact | andCompact | orCompact | xorCompact | shlCompact | shrN32Compact
    | addF32Compact | subF32Compact | mulF32Compact | maxF32Compact | minF32Compact | addF16x2Compact
    | mulF16x2Compact | shrI32Compact =>
    rw [encode, decode_packC_append, decode16]
    simp only [packC_1, packC_5, packC_10]
    rfl
  case addI32 | subI32 | mulI32 | mulhiI32 | mulhiN32 | madI32 | minI32 | maxI32 | minN32 | maxN32 | and | or | xor
    | andn | shl | shrN32 | shrI32 | rot | bfx | bfi | bitu | addI64 | subI64 | madN64N32 | addF32 | subF32
    | mulF32 | fmaF32 | minF32 | maxF32 | addF16x2 | mulF16x2 | fmaF16x2 | addBf16x2 | fmaBf16x2 | maxF16x2
    | funF32 | cvt | cvtp | qnt | dqn | sel | shfl | rdlane | wrlane | wred | wscan | cmpI32 | cmpN32 | cmpF32
    | test | mop | mmov | dot4I8 | dot4N8 | dot8I4 | dot4F8 | dot8F4 | dot2F16 | dot2Bf16 | ld | st | lds | sts
    | ldc | stp | ldu | stu | mmao =>
    refine decode_pack4 rest rfl (congrArg Except.ok ?_)
    simp only [pack4_1, pack4_2, pack4_3, cat53_low, cat53_high, cat44_low, cat44_high, Nat.reduceAdd, Nat.reduceSub,
      Nat.reduceLeDiff, extract_whole]
  case ctlReord | tsmovToreg | tsmovFromreg | tdefView | tdemStore =>
    refine decode_pack4_sub rest rfl (congrArg Except.ok ?_)
    simp only [pack4_1, pack4_2, pack4_3, cat44_high, Nat.reduceAdd, Nat.reduceSub, Nat.reduceLeDiff, extract_whole]
  case movi | movhi | addi | andi | ori =>
    refine decode_packFI rest rfl (congrArg Except.ok ?_)
    simp only [packFI_1, packFI_2, Nat.reduceAdd, Nat.reduceSub, Nat.reduceLeDiff, extract_whole]
  case top | tmap =>
    refine decode_packFT rest rfl (congrArg Except.ok ?_)
    simp only [packFT_1, packFT_2, packFT_3, packFT_4, Nat.reduceAdd, Nat.reduceSub, Nat.reduceLeDiff, extract_whole]
  case lit =>
    refine decode_packLIT rest rfl (congrArg Except.ok ?_)
    simp only [packLIT_1, Nat.reduceSub, Nat.reduceLeDiff, extract_whole]
  case bra | brany | brall | brs | joinat | call =>
    refine decode_packFB rest rfl ((if_pos ?_).trans (congrArg Except.ok ?_)) <;>
    simp only [packFB_1, packFB_2, cat13_low, cat13_high, Nat.reduceAdd, Nat.reduceSub, Nat.reduceLeDiff, extract_whole]
  case mov64 | sclx | atom | red | atoms | ldrec | mmat =>
    refine decode_pack4 rest rfl ((if_pos ?_).trans (congrArg Except.ok ?_)) <;>
    simp only [pack4_1, pack4_2, pack4_3, cat44_low, cat44_high, cat314_low, cat314_mid, cat314_high, cat233_low,
      cat233_mid, cat233_high, Nat.reduceAdd, Nat.reduceSub, Nat.reduceLeDiff, extract_whole]
  case fenceOpc | fenceIfetch | fenceAsync | chReset | jobTrig | jobExit | jobYield | sysEret | sysHalt =>
    exact decode_pack4_sub rest rfl rfl
  case ctlJmpr | ctlSleep | barInit | barArrive | barExpect | barArrivex | barWait | barWaitt | barTest | barEnroll
    | barDrop | barInval | pbarArrive | pbarWait | pbarTest | cpyLin | cpyTile | cpyGather | cpyScatter
    | cpyXform | cpyFill | cbatchSeal | cbatchWait | cbatchTest | wbufLoad | wbufMcast | wbufInval | wbufQuery
    | tsmovTomem | tsmovFrommem | tdefConst | tdemForce | tdemDrop | tdemQuery | tdemDiscard | chBind | chBond
    | chMode | chStep | chRun | chEnv | chQuery | traceClosest | traceAny | traceQuery | smpBil | smpPt
    | smpGather4 | jobLaunch | jobNext | jobDepwait | jobExits | jobYieldonBar | sysTrap | sysCtlrd | sysCtlwr
    | sysParkrd | sysParkwr | sysWatch | sysTlbinv =>
    refine decode_pack4_sub rest rfl ((if_pos ?_).trans (congrArg Except.ok ?_)) <;>
    simp only [pack4_1, pack4_2, pack4_3, cat44_high, cat13_low, cat13_high, cat31_low, cat31_high, cat22_low, cat22_high,
      Nat.reduceAdd, Nat.reduceSub, Nat.reduceLeDiff, extract_whole, and_self]
  case jobYieldonFlg =>
    refine decode_pack4_sub rest rfl ((if_neg ?_).trans ((if_pos ?_).trans (congrArg Except.ok ?_))) <;>
    simp only [pack4_1, pack4_2, pack4_3, cat44_high, Nat.reduceAdd, Nat.reduceSub, Nat.reduceLeDiff, extract_whole]
    decide
  all_goals exact absurd rfl h

/-! ### Encoding undoes decoding -/

theorem packC_eq_iff {s d op} {w : Parcel} : packC s d op = w.extractLsb' 0 16 ↔
    s = w.extractLsb' 10 6 ∧ d = w.extractLsb' 5 5 ∧ op = w.extractLsb' 1 4 ∧ 0#1 = w.extractLsb' 0 1 :=
  (append_eq_extract_iff s _ w 0).trans (and_congr .rfl ((append_eq_extract_iff d _ w 0).trans
    (and_congr .rfl (append_eq_extract_iff op 0#1 w 0))))

theorem packC_fields {w : Parcel} (h : w.getLsbD 0 = false) :
    packC (w.extractLsb' 10 6) (w.extractLsb' 5 5) (w.extractLsb' 1 4) = w := by
  have h0 : 0#1 = w.extractLsb' 0 1 := by
    apply BitVec.eq_of_getLsbD_eq
    intro i hi
    obtain rfl : i = 0 := by omega
    simpa using h.symm
  rw [packC_eq_iff.2 ⟨rfl, rfl, rfl, h0⟩, extract_whole]

theorem encode_decode16 {w : Parcel} (h : w.getLsbD 0 = false) : encode (decode16 w) = [w] := by
  have he : encode (decode16 w) =
      [packC (w.extractLsb' 10 6) (w.extractLsb' 5 5) (BitVec.ofNat 4 (w.extractLsb' 1 4).toNat)] := by
    fun_cases decode16 w
    case case16 =>
      have hop : (w.extractLsb' 1 4).toNat = 15 := by
        have hlt := (w.extractLsb' 1 4).isLt
        simp only [imp_false] at *
        omega
      rw [encode, hop]
    all_goals rename_i hop; rw [encode, hop]
  rw [he, BitVec.ofNat_toNat, BitVec.setWidth_eq, packC_fields h]

theorem encode_of_decodeMaj {lo sub : Nat} {w : BitVec 32} {i : Instr} (hlo : BitVec.ofNat 8 lo = w.extractLsb' 0 8)
    (hsub : BitVec.ofNat 4 sub = w.extractLsb' 8 4) (h : decodeMaj lo sub w = .ok i) : encode i = split32 w := by
  revert h
  fun_cases decodeMaj lo sub w
  all_goals
    rintro ⟨⟩ <;>
    simp_all only [encode, split32_eq_iff, pack4_eq_iff, packFI_eq_iff, packFB_eq_iff, packFT_eq_iff, packLIT_eq_iff,
      cat44_eq_iff, cat53_eq_iff, cat13_eq_iff, cat31_eq_iff, cat22_eq_iff, cat314_eq_iff, cat233_eq_iff, Nat.reduceAdd,
      and_self]

theorem encode_of_decode32 {w : BitVec 32} {i : Instr} (h : decode32 w = .ok i) : encode i = split32 w :=
  encode_of_decodeMaj (by rw [BitVec.ofNat_toNat, BitVec.setWidth_eq]) (by rw [BitVec.ofNat_toNat, BitVec.setWidth_eq]) h

theorem split32_append (q p : Parcel) : split32 (q ++ p) = [p, q] := by
  simp only [split32]
  rw [BitVec.extractLsb'_append_eq_left, BitVec.extractLsb'_append_eq_right]

/-- The parcels that decode to an instruction are its encoding, and the parcels left over. -/
theorem eq_encode_append_of_decode {ps rest : List Parcel} {i : Instr} (h : decode ps = .ok (i, rest)) :
    encode i ≠ [] ∧ ps = encode i ++ rest := by
  revert h
  fun_cases decode ps with
  | case1 | case2 | case4 => rintro ⟨⟩
  | case3 p h0 q rest' j hj =>
    rintro ⟨⟩
    rw [encode_of_decode32 hj, split32_append]
    exact ⟨List.cons_ne_nil _ _, rfl⟩
  | case5 p rest' h0 =>
    rintro ⟨⟩
    rw [encode_decode16 (by simpa using h0)]
    exact ⟨List.cons_ne_nil _ _, rfl⟩

/-- Settles O54: the decoder evaluated on each of the closed words. -/
theorem decodeWords : Obligations.DecodeWords := ⟨by decide, by decide, by decide⟩

/-- Settles O55: each form's fields read back what was packed, and a decoded word is packed of the fields it was
read by. -/
theorem decodeEncode : Obligations.DecodeEncode :=
  ⟨decode_encode_append, fun _ _ _ => eq_encode_append_of_decode⟩

end Sys2Proof
end

section
/-! The checks every instruction of a program passes before any effect, said of `exec` (R67, R194, R195). -/

namespace Sys2Proof.Machine

/-- Outcome o of instruction i, of class c, is the trap that R67 or R195 gives it where it breaks one of them. -/
def TurnedAwayBy (i : Instr) (c : RoleClass) (s : State) (o : Out) : Prop :=
  (legalHere s i = false → o = .next (takeTrap s 0x08 false)) ∧
  (legalHere s i = true → s.frag.trapMode = false → roleAllows s.wave.role c = false →
    o = .next (takeTrap s 0x10 false))

theorem checked_turnedAway {i : Instr} {c : RoleClass} {s : State} {k : State → State} :
    TurnedAwayBy i c s (checked i c s k) :=
  ⟨checked_illegal k, checked_role k⟩

/-! The families of instructions, each of which begins with the checks. -/

section
variable {i : Instr} {c : RoleClass} {s : State}

theorem int32_turnedAway {d a b : BitVec 8} {f : Word → Word → Word → Word} :
    TurnedAwayBy i (classByDst d) s (int32 i d a b s f) := checked_turnedAway

theorem imm16_turnedAway {d : BitVec 8} {x : BitVec 16} {f : Word → BitVec 16 → Word} :
    TurnedAwayBy i (classByDst d) s (imm16 i d x s f) := checked_turnedAway

theorem compactInt_turnedAway {d : BitVec 5} {p : BitVec 6} {f : Word → Word → Word} :
    TurnedAwayBy i .laneArith s (compactInt i d p s f) := checked_turnedAway

theorem float32_turnedAway {d a b : BitVec 8} {codes : List (BitVec 8)} {k : FloatOp} :
    TurnedAwayBy i c s (float32 i c d a b codes s k) := checked_turnedAway

theorem halves_turnedAway {bf : Bool} {d a b : BitVec 8} {codes : List (BitVec 8)} {k : FloatOp} :
    TurnedAwayBy i c s (halves i c bf d a b codes s k) := checked_turnedAway

theorem cmpInt_turnedAway {m : BitVec 3} {a b : BitVec 8} {f : Word → Word → Bool} :
    TurnedAwayBy i .control s (cmpInt i m a b s f) := checked_turnedAway

theorem longLatency_turnedAway {k : State → Nat → State} : TurnedAwayBy i c s (longLatency i c s k) :=
  checked_turnedAway

theorem accessInstr_turnedAway {mk : State → MemReq} : TurnedAwayBy i c s (accessInstr i c s mk) :=
  longLatency_turnedAway

end

/-- Every role may execute the control class (R194), so a SYS instruction is only ever turned away as illegal. -/
theorem inTrapMode_turnedAway {i : Instr} {s : State} {k : State → State} :
    TurnedAwayBy i .control s (inTrapMode s (checked i .control s k)) := by
  refine ⟨fun h => ?_, fun _ _ hr => absurd hr (by simp [roleAllows])⟩
  rw [checked_illegal k h, inTrapMode]
  split <;> rfl

/-! ### The class by the destination (R61, R194) -/

theorem legalHere_operand {s : State} {i : Instr} {x : Opd} (h : legalHere s i = true) (hx : x ∈ operands i) :
    x.ok s.crew.vregs s.crew.sregs = true := by
  simp only [legalHere, legalIn, Bool.and_eq_true, List.all_eq_true] at h
  exact h.1 x hx

theorem scalarDst_of_dst {v s : Nat} {d : BitVec 8}
    (h : (Opd.dst d).ok v s = true ∨ (Opd.dst64 d).ok v s = true ∨ (Opd.dstFi d).ok v s = true) :
    scalarDst d = !decide (d.toNat < 0x80) := by
  simp only [Opd.ok, lanesOk, sregsOk, Bool.or_eq_true, Bool.and_eq_true, decide_eq_true_eq] at h
  by_cases hd : d.toNat < 0x80 <;> simp [scalarDst, hd] <;> omega

/-- Where the destination is one an instruction may name, its class is the one R194 gives by it. -/
theorem TurnedAwayBy.byDst {i : Instr} {s : State} {d : BitVec 8} {o : Out}
    (hx : Opd.dst d ∈ operands i ∨ Opd.dst64 d ∈ operands i ∨ Opd.dstFi d ∈ operands i)
    (h : TurnedAwayBy i (classByDst d) s o) :
    TurnedAwayBy i (if d.toNat < 0x80 then .laneArith else .control) s o := by
  refine ⟨h.1, fun hl ht hr => h.2 hl ht ?_⟩
  have hd := scalarDst_of_dst (hx.imp (legalHere_operand hl) (.imp (legalHere_operand hl) (legalHere_operand hl)))
  rw [← hr, classByDst, hd]
  by_cases h80 : d.toNat < 0x80 <;> simp [h80]

/-! ### Every instruction -/

theorem exec_turnedAway (i : Instr) (k : RoleClass) (s : State) (h : classOf i = some k) :
    TurnedAwayBy i k s (exec i s) := by
  cases i
  case addI32 | subI32 | mulI32 | mulhiI32 | mulhiN32 | madI32 | minI32 | maxI32 | minN32 | maxN32 | and | or | xor
    | andn | shl | shrN32 | shrI32 | rot | bfx | bfi | bitu =>
    cases h
    dsimp only [exec]
    exact TurnedAwayBy.byDst (by simp [operands, f3, f3u]) int32_turnedAway
  case movi | movhi | addi | andi | ori =>
    cases h
    dsimp only [exec]
    exact TurnedAwayBy.byDst (by simp [operands]) imm16_turnedAway
  case addF32 | subF32 | mulF32 | fmaF32 | minF32 | maxF32 =>
    cases h
    dsimp only [exec]
    exact TurnedAwayBy.byDst (by simp [operands, f3]) float32_turnedAway
  case addF16x2 | mulF16x2 | fmaF16x2 | addBf16x2 | fmaBf16x2 | maxF16x2 =>
    cases h
    dsimp only [exec]
    exact TurnedAwayBy.byDst (by simp [operands, f3]) halves_turnedAway
  case addI64 | subI64 | madN64N32 | mov64 | funF32 | cvt | cvtp | qnt | dqn | sel | rdlane | wred | dot4I8 | dot4N8
    | dot8I4 | dot4F8 | dot8F4 | dot2F16 | dot2Bf16 | sclx =>
    cases h
    dsimp only [exec]
    exact TurnedAwayBy.byDst (by simp [operands, f3, f3u]) checked_turnedAway
  case addI32Compact | subI32Compact | andCompact | orCompact | xorCompact | shlCompact | shrN32Compact
    | shrI32Compact =>
    cases h
    dsimp only [exec]
    exact compactInt_turnedAway
  case addF32Compact | subF32Compact | mulF32Compact | maxF32Compact | minF32Compact =>
    cases h
    dsimp only [exec]
    exact float32_turnedAway
  case addF16x2Compact | mulF16x2Compact =>
    cases h
    dsimp only [exec]
    exact halves_turnedAway
  case cmpI32 | cmpN32 | test =>
    cases h
    dsimp only [exec]
    exact cmpInt_turnedAway
  case ld | st | lds | sts | ldc | stp | atom | red | atoms | ldu | stu =>
    cases h
    dsimp only [exec]
    exact accessInstr_turnedAway
  case cpyLin | cpyTile | cpyGather | cpyScatter | cpyXform | cpyFill | mmao | mmat | wbufLoad | wbufMcast
    | tsmovToreg | tsmovFromreg | tsmovTomem | tsmovFrommem | tdemStore | tdemForce | chStep | chRun | chEnv
    | traceClosest | traceAny | smpBil | smpPt | smpGather4 | ldrec =>
    cases h
    dsimp only [exec]
    exact longLatency_turnedAway
  case shfl | wrlane | wscan | ctlReord | cbatchSeal | cbatchWait | cbatchTest | wbufInval | wbufQuery | tdefView
    | tdefConst | top | tmap | tdemDrop | tdemQuery | tdemDiscard | chBind | chBond | chMode | chQuery | chReset
    | traceQuery | cmpF32 | mop | mmov | bra | brany | brall | brs | joinat | call | ctlJmpr | ctlSleep | barInit
    | barArrive | barExpect | barArrivex | barWait | barWaitt | barTest | barEnroll | barDrop | barInval | pbarArrive
    | pbarWait | pbarTest | fenceOpc | fenceIfetch | fenceAsync | jobLaunch | jobNext | jobTrig | jobDepwait | jobExit
    | jobExits | jobYield | jobYieldonBar | jobYieldonFlg | sysTrap | sysCtlrd =>
    cases h
    dsimp only [exec]
    exact checked_turnedAway
  case sysEret | sysCtlwr | sysParkrd | sysParkwr | sysWatch | sysTlbinv | sysHalt =>
    cases h
    dsimp only [exec]
    exact inTrapMode_turnedAway
  case movCompact d p =>
    cases h
    rw [exec, execMovCompact]
    split <;> exact checked_turnedAway
  all_goals exact absurd h (by simp [classOf])

/-- Settles O53: the checks stand before the effect of every instruction that has a class. -/
theorem turnedAway : Obligations.TurnedAway := fun s i k => exec_turnedAway i k s

end Sys2Proof.Machine
end

section
/-! A step of the machine: what it executes, that a row of the device always answers a next state, and what settling
leaves of the clock and of the steps named beforehand (R44, R49, R59). -/

namespace Sys2Proof.Machine

/-! ### The rows of the device answer a next state -/

theorem execCrewResume_next (c cx cy : Nat) (s : State) : ∃ t, execCrewResume c cx cy s = .next t := by
  fun_cases execCrewResume <;> exact ⟨_, rfl⟩

theorem execRegisterWrite_next (addr : Nat) (v : BitVec 64) (s : State) : ∃ t, execRegisterWrite addr v s = .next t := by
  unfold execRegisterWrite
  split <;> exact ⟨_, rfl⟩

theorem exec_deviceRow_next (i : Instr) (s : State) (h : isDeviceRow i = true) : ∃ t, exec i s = .next t := by
  cases i
  case crewResume => exact execCrewResume_next ..
  case registerWrite => exact execRegisterWrite_next ..
  case clauseBegin => exact absurd h (by decide)
  case fragmentAged | sleepExpire | waittTimeout | loadComplete | storeComplete | fullEmptyRetest | hubFlush | qlaunch
    | cardRead | crewPlace | placementHold | preqExpire | crewSave | waveRetire | doneWrite | copyUnit | copyComplete
    | getin | putout | endRoutine | args | routineFault | wbufComplete | mmaoComplete | mmatComplete | tsmovComplete
    | materialise | demandBlock | tdemComplete | chainStep | chainComplete | traceComplete | smpComplete
    | salamanderBatch | pageArrive | atsCompletion | atsInvalidation | invalidationComplete | prgResponse | wrapClear
    | cxctl | cxfresp | cxinvc | cxpre | cxfq | cxcwn | cxcwdRead | cxcwdWrite | hostWrite | snoop | backInvalidation
    | counterDecay | frameFill | frameDrain | l2Evict | hbmUncorrectable | poolFail | hostLinkDown | hostLinkUp
    | pcclr | pcclrDone | pcmark | keyctl | keyInstall | pooldec | rtload | fwload | imageLoadDone | attest | fsclr
    | reset | startupStep | startupTimeout | portFail | pwrlim | powerCheck | cxfqhead | tracePark | smpPark =>
    exact ⟨_, rfl⟩
  all_goals exact absurd h Bool.false_ne_true

/-! ### Settling -/

theorem focusOn_outside (s : State) (r : FragRef) :
    (focusOn s r).clk = s.clk ∧ (focusOn s r).nfree = s.nfree ∧ (focusOn s r).agenda = s.agenda := by
  fun_cases focusOn <;> exact ⟨rfl, rfl, rfl⟩

theorem takeFocus_outside (s : State) :
    (takeFocus s).clk = s.clk ∧ (takeFocus s).nfree = s.nfree ∧ (takeFocus s).agenda = s.agenda := by
  fun_cases takeFocus
  case case2 => exact focusOn_outside ..
  all_goals exact ⟨rfl, rfl, rfl⟩

theorem settle_outside (t : State) :
    (settle t).clk = t.clk + 1 + Config.clocks t.nfree ∧ (settle t).nfree = t.nfree + 1 ∧ (settle t).agenda =
      t.agenda := by
  obtain ⟨hc, hn, ha⟩ := takeFocus_outside (tidy t)
  simp only [settle, hc, hn, ha]
  simp [tidy, Nat.add_assoc]

/-! ### What a step executes -/

theorem step_of_active {s : State} (ha : s.agenda = []) (hs : s.active = true) : step s = finish (issue s) := by
  simp only [step, ha, hs, if_true]

theorem issue_of_header {s : State} (hp : s.frag.parcel = 63) : issue s = exec .clauseBegin s := by
  simp [issue, hp]

theorem issue_of_decoded {s : State} {i : Instr} {rest : List Parcel} (hp : s.frag.parcel ≠ 63)
    (hl : s.frag.latched = true) (hd : decode (s.frag.body.drop s.frag.parcel) = .ok (i, rest)) : issue s = exec i s := by
  simp [issue, hp, hl, hd]

theorem issue_of_undecoded {s : State} {e : DecodeError} (hp : s.frag.parcel ≠ 63) (hl : s.frag.latched = true)
    (hd : decode (s.frag.body.drop s.frag.parcel) = .error e) : issue s = .next (takeTrap s 0x08 false) := by
  simp [issue, hp, hl, hd]

theorem stepRunsDecoded_holds : stepRunsDecoded := by
  intro s ha hs after
  have hstep {o : Out} (h : issue s = o) : step s = after o := by
    rw [step_of_active ha hs, h]
    cases o <;> rfl
  refine ⟨fun hp => hstep (issue_of_header hp), fun hp hl => ⟨fun i rest hd => hstep (issue_of_decoded hp hl hd),
    fun e hd => hstep (issue_of_undecoded hp hl hd)⟩, settle_outside⟩

theorem stepRunsNamed_holds : stepRunsNamed := by
  intro s i rest ha hi
  obtain ⟨t, ht⟩ := exec_deviceRow_next i { s with agenda := rest } hi
  refine ⟨t, ht, ?_⟩
  simp only [step, ha, agendaStep, hi, if_true, ht, finish]

/-- Settles O56: `issue` is `exec` of what the parcels decode to, and every row of the device answers a next state. -/
theorem stepRuns : Obligations.StepRuns := ⟨stepRunsDecoded_holds, stepRunsNamed_holds⟩

end Sys2Proof.Machine
end

section
/-! SUPPORT. The results of the integer instructions as numbers: the model computes them on bit patterns (R210 to
R213). -/

namespace Sys2Proof.Machine

/-! ### Products, orders and shifts (R210) -/

theorem highHalf_ofInt (p : Int) : ((BitVec.ofInt 64 p) >>> 32).setWidth 32 = highHalf p := by
  apply BitVec.eq_of_toNat_eq
  simp only [highHalf, BitVec.toNat_setWidth, BitVec.toNat_ushiftRight, BitVec.toNat_ofInt, Nat.shiftRight_eq_div_pow]
  norm_num
  omega

theorem mulHighSigned_eq (x y : Word) : mulHighSigned x y = highHalf (x.toInt * y.toInt) := by
  rw [← highHalf_ofInt, BitVec.ofInt_mul]
  rfl

theorem mulHighUnsigned_eq (x y : Word) : mulHighUnsigned x y = highHalf ((x.toNat : Int) * y.toNat) := by
  rw [← highHalf_ofInt, BitVec.ofInt_mul, BitVec.ofInt_natCast, BitVec.ofInt_natCast, BitVec.ofNat_toNat,
    BitVec.ofNat_toNat]
  rfl

/-- The lesser of two equal values is either of them: picking by ≤ is picking by <. -/
theorem toInt_le_iff (x y : Word) : x.toInt ≤ y.toInt ↔ x.slt y = true ∨ x = y := by
  rw [BitVec.slt_iff_toInt_lt, ← BitVec.toInt_inj]
  omega

theorem toNat_le_iff (x y : Word) : x.toNat ≤ y.toNat ↔ x.ult y = true ∨ x = y := by
  rw [BitVec.ult_iff_toNat_lt, ← BitVec.toNat_inj]
  omega

theorem min_slt (x y : Word) : (if x.slt y then x else y) = if x.toInt ≤ y.toInt then x else y := by
  by_cases e : x = y <;> simp [toInt_le_iff, e]

theorem max_slt (x y : Word) : (if x.slt y then y else x) = if x.toInt ≤ y.toInt then y else x := by
  by_cases e : x = y <;> simp [toInt_le_iff, e]

theorem min_ult (x y : Word) : (if x.ult y then x else y) = if x.toNat ≤ y.toNat then x else y := by
  by_cases e : x = y <;> simp [toNat_le_iff, e]

theorem max_ult (x y : Word) : (if x.ult y then y else x) = if x.toNat ≤ y.toNat then y else x := by
  by_cases e : x = y <;> simp [toNat_le_iff, e]

theorem sshiftRight_shiftBy (x y : Word) :
    x.sshiftRight (shiftBy y) = BitVec.ofInt 32 (x.toInt / 2 ^ (y.toNat % 32)) := by
  rw [BitVec.sshiftRight, Int.shiftRight_eq_div_pow, shiftBy]
  norm_cast

theorem rotateLeft_shiftBy (x y : Word) :
    x.rotateLeft (shiftBy y) = (x <<< (y.toNat % 32)) ||| (x >>> ((32 - y.toNat % 32) % 32)) := by
  by_cases h : y.toNat % 32 = 0
  · rw [BitVec.rotateLeft_def, shiftBy, h]
    ext i hi
    simp
  · rw [BitVec.rotateLeft_def, shiftBy, Nat.mod_mod, Nat.mod_eq_of_lt (a := 32 - _) (by omega)]

/-! ### Bit fields (R212) -/

theorem ofNat_mask_and (t : Word) (w : Nat) (hw : w < 32) :
    (t &&& BitVec.ofNat 32 (2 ^ w - 1)).toNat = t.toNat % 2 ^ w := by
  have hlt : 2 ^ w < 2 ^ 32 := Nat.pow_lt_pow_right (by norm_num) hw
  rw [BitVec.toNat_and, BitVec.toNat_ofNat, Nat.mod_eq_of_lt (by omega), Nat.and_two_pow_sub_one_eq_mod]

/-- The field itself, zero-extended. -/
theorem field_toNat (x y : Word) :
    (if fieldWidth y == 32 then x >>> shiftBy y
      else (x >>> shiftBy y) &&& BitVec.ofNat 32 (2 ^ fieldWidth y - 1)).toNat =
      x.toNat / 2 ^ (y.toNat % 32) % 2 ^ fieldWidth y := by
  have hw : fieldWidth y ≤ 32 := Nat.min_le_right _ _
  have ht : (x >>> shiftBy y).toNat = x.toNat / 2 ^ (y.toNat % 32) := by
    rw [BitVec.toNat_ushiftRight, Nat.shiftRight_eq_div_pow, shiftBy]
  split
  · rename_i h
    rw [beq_iff_eq] at h
    rw [h, ← ht, Nat.mod_eq_of_lt (BitVec.isLt _)]
  · rename_i h
    rw [beq_iff_eq] at h
    rw [ofNat_mask_and _ _ (by omega), ht]

theorem and_ones_shiftLeft (r : Word) (w : Nat) (hr : r.toNat < 2 ^ w) : r &&& (0xFFFFFFFF#32 <<< w) = 0#32 := by
  ext i hi
  simp only [BitVec.getElem_and, BitVec.getElem_shiftLeft, BitVec.getElem_zero]
  by_cases h : i < w
  · simp [h]
  · have : r[i] = false := by
      rw [← BitVec.getLsbD_eq_getElem, BitVec.getLsbD]
      exact Nat.testBit_lt_two_pow (lt_of_lt_of_le hr (Nat.pow_le_pow_right (by norm_num) (by omega)))
    simp [this]

theorem or_ones_shiftLeft (r : Word) (w : Nat) (hr : r.toNat < 2 ^ w) :
    r ||| (0xFFFFFFFF#32 <<< w) = BitVec.ofInt 32 ((r.toNat : Int) - 2 ^ w) := by
  have hp : BitVec.ofInt 32 (2 ^ w) = BitVec.twoPow 32 w := by
    rw [show (2 : Int) ^ w = ((2 ^ w : Nat) : Int) by norm_cast, BitVec.ofInt_natCast]
    apply BitVec.eq_of_toNat_eq
    rw [BitVec.toNat_ofNat, BitVec.toNat_twoPow]
  rw [← BitVec.add_eq_or_of_and_eq_zero _ _ (and_ones_shiftLeft r w hr), show (0xFFFFFFFF#32) = -1#32 from rfl,
    BitVec.shiftLeft_eq_mul_twoPow, BitVec.neg_mul, BitVec.one_mul, Int.sub_eq_add_neg, BitVec.ofInt_add,
    BitVec.ofInt_neg, hp, BitVec.ofInt_natCast, BitVec.ofNat_toNat, BitVec.setWidth_eq]

theorem getLsbD_top (r : Word) (w : Nat) (hw : 0 < w) (hr : r.toNat < 2 ^ w) :
    r.getLsbD (w - 1) = decide (2 ^ (w - 1) ≤ r.toNat) := by
  obtain ⟨k, rfl⟩ : ∃ k, w = k + 1 := ⟨w - 1, by omega⟩
  rw [Nat.add_sub_cancel, BitVec.getLsbD, Nat.testBit_eq_decide_div_mod_eq]
  rw [pow_succ] at hr
  have h2 : r.toNat / 2 ^ k < 2 := Nat.div_lt_of_lt_mul hr
  rw [Nat.mod_eq_of_lt h2, decide_eq_decide, ← Nat.one_le_div_iff (Nat.two_pow_pos k)]
  omega

/-- The field r, of value u, with its sign bit spread over the word where the descriptor asks for it. -/
theorem signExtend_field (r : Word) (w u : Nat) (sgn : Bool) (hu : r.toNat = u) (hlt : u < 2 ^ w) :
    (if sgn && decide (0 < w) && decide (w < 32) && r.getLsbD (w - 1) then r ||| (0xFFFFFFFF#32 <<< w) else r) =
      if sgn = true ∧ 0 < w ∧ w < 32 ∧ 2 ^ (w - 1) ≤ u then BitVec.ofInt 32 ((u : Int) - 2 ^ w)
      else BitVec.ofNat 32 u := by
  subst hu
  by_cases hs : sgn = true ∧ 0 < w ∧ w < 32
  · obtain ⟨hsgn, h0, h32⟩ := hs
    simp only [hsgn, h0, h32, getLsbD_top r w h0 hlt, or_ones_shiftLeft r w hlt, decide_true, Bool.and_self,
      Bool.true_and, decide_eq_true_eq, true_and, BitVec.ofNat_toNat, BitVec.setWidth_eq]
  · have hm : (sgn && decide (0 < w) && decide (w < 32)) = false := by
      simpa [and_assoc] using hs
    rw [hm, if_neg (by simp), if_neg (fun h => hs ⟨h.1, h.2.1, h.2.2.1⟩), BitVec.ofNat_toNat, BitVec.setWidth_eq]

theorem bitExtract_eq (x y : Word) :
    bitExtract x y = fieldOf x (y.toNat % 32) (min (y.toNat / 256 % 64) 32) (y.getLsbD 16) :=
  signExtend_field _ _ _ _ (field_toNat x y) (Nat.mod_lt _ (Nat.two_pow_pos _))

/-- BFI's mask: W ones from bit L on, as far as they lie in the word. -/
theorem fieldMask_eq (w n : Nat) :
    (if w == 32 then 0xFFFFFFFF#32 else BitVec.ofNat 32 (2 ^ w - 1)) <<< n =
      BitVec.ofNat 32 ((2 ^ w - 1) * 2 ^ n) := by
  have hm : (if w == 32 then 0xFFFFFFFF#32 else BitVec.ofNat 32 (2 ^ w - 1)) = BitVec.ofNat 32 (2 ^ w - 1) := by
    by_cases h : w = 32
    · subst h
      rfl
    · simp [h]
  rw [hm]
  apply BitVec.eq_of_toNat_eq
  simp only [BitVec.toNat_shiftLeft, BitVec.toNat_ofNat, Nat.shiftLeft_eq, Nat.mod_mul_mod]

theorem bitInsert_eq (z x y : Word) :
    bitInsert z x y = insertOf z x (y.toNat % 32) (min (y.toNat / 256 % 64) 32) := by
  have hm : _ = BitVec.ofNat 32 ((2 ^ min (y.toNat / 256 % 64) 32 - 1) * 2 ^ (y.toNat % 32)) :=
    fieldMask_eq (fieldWidth y) (shiftBy y)
  simp only [bitInsert, insertOf, hm, BitVec.or_comm]
  rfl

/-! ### BITU (R213) -/

theorem popCount_countP (x : Word) : popCount x = (List.range 32).countP fun i => x.getLsbD i :=
  List.countP_eq_length_filter.symm

/-- The place of the highest set bit, counted from the top, is the first at which one is found from there. -/
theorem leadingZeros_find (x : Word) :
    (if x == 0#32 then 32 else 31 - Nat.log2 x.toNat) =
      ((List.range 32).find? fun i => x.getLsbD (31 - i)).getD 32 := by
  by_cases h : x = 0#32
  · subst h
    rfl
  · have h0 : x.toNat ≠ 0 := fun e => h (BitVec.eq_of_toNat_eq e)
    have hl : x.toNat.log2 < 32 := (Nat.log2_lt h0).2 x.isLt
    have hf : (List.range 32).find? (fun i => x.getLsbD (31 - i)) = some (31 - x.toNat.log2) := by
      rw [List.find?_range_eq_some]
      refine ⟨?_, by simp; omega, fun j hj => ?_⟩
      · rw [Nat.sub_sub_self (by omega)]
        exact Nat.testBit_log2 h0
      · simp only [BitVec.getLsbD, Bool.not_eq_true']
        exact Nat.testBit_lt_two_pow ((Nat.log2_lt h0).1 (by omega))
    simp [h, hf]

/-- Setting bit 31 − i for each set bit i below n reverses those bits. -/
theorem getLsbD_reverseBelow (x : Word) (n : Nat) (hn : n ≤ 32) (j : Nat) :
    ((List.range n).foldl (fun a i => if x.getLsbD i then a ||| (1#32 <<< (31 - i)) else a) 0#32).getLsbD j =
      (decide (j < 32) && decide (31 - j < n) && x.getLsbD (31 - j)) := by
  induction n with
  | zero => simp
  | succ n ih =>
    have ih := ih (by omega)
    rw [List.range_succ, List.foldl_append, List.foldl_cons, List.foldl_nil]
    by_cases hj : j = 31 - n
    · subst hj
      have e : 31 - (31 - n) = n := by omega
      rw [e] at ih ⊢
      split <;> rename_i h
      · rw [BitVec.getLsbD_or, ih]
        simp [← BitVec.twoPow_eq, BitVec.getLsbD_twoPow, h]
      · simp [ih, h]
    · have e : (31 - j < n + 1) ↔ (31 - j < n) ∨ 32 ≤ j := by omega
      split
      · rw [BitVec.getLsbD_or, ih, ← BitVec.twoPow_eq, BitVec.getLsbD_twoPow]
        simp [e, Ne.symm hj]
        grind
      · simp [ih, e]
        grind

theorem reverse_fold (x : Word) :
    (List.range 32).foldl (fun a i => if x.getLsbD i then a ||| (1#32 <<< (31 - i)) else a) 0#32 = x.reverse := by
  apply BitVec.eq_of_getLsbD_eq
  intro i hi
  rw [getLsbD_reverseBelow x 32 (by omega), BitVec.getLsbD_reverse, BitVec.getMsbD]
  simp [hi]
  omega

theorem append_bytes (a b c d : BitVec 8) :
    (a ++ b ++ c ++ d).toNat = a.toNat * 2 ^ 24 + b.toNat * 2 ^ 16 + c.toNat * 2 ^ 8 + d.toNat := by
  have := b.isLt
  have := c.isLt
  have := d.isLt
  simp only [BitVec.toNat_append]
  rw [← Nat.shiftLeft_add_eq_or_of_lt (by omega), ← Nat.shiftLeft_add_eq_or_of_lt (by omega),
    ← Nat.shiftLeft_add_eq_or_of_lt (by omega)]
  simp only [Nat.shiftLeft_eq]
  ring

theorem swapBytes_toNat (x : Word) :
    (x.extractLsb' 0 8 ++ x.extractLsb' 8 8 ++ x.extractLsb' 16 8 ++ x.extractLsb' 24 8).toNat =
      x.toNat % 2 ^ 8 * 2 ^ 24 + x.toNat / 2 ^ 8 % 2 ^ 8 * 2 ^ 16 + x.toNat / 2 ^ 16 % 2 ^ 8 * 2 ^ 8 +
        x.toNat / 2 ^ 24 := by
  have h3 : x.toNat / 2 ^ 24 % 2 ^ 8 = x.toNat / 2 ^ 24 := Nat.mod_eq_of_lt (by have := x.isLt; omega)
  simp only [append_bytes, BitVec.extractLsb'_toNat, Nat.shiftRight_eq_div_pow, h3, pow_zero, Nat.div_one]

theorem swapBytes_eq (x : Word) :
    x.extractLsb' 0 8 ++ x.extractLsb' 8 8 ++ x.extractLsb' 16 8 ++ x.extractLsb' 24 8 =
      BitVec.ofNat 32 (x.toNat % 256 * 2 ^ 24 + x.toNat / 2 ^ 8 % 256 * 2 ^ 16 + x.toNat / 2 ^ 16 % 256 * 2 ^ 8 +
        x.toNat / 2 ^ 24) := by
  rw [show (256 : Nat) = 2 ^ 8 from rfl, ← swapBytes_toNat x]
  exact (BitVec.ofNat_toNat _ _).symm ▸ (BitVec.setWidth_eq _).symm

theorem bitUnary_eq (k : Nat) (x : Word) : bitUnary k x = bituOf k x := by
  match k with
  | 0 => rw [bitUnary, bituOf, popCount_countP]
  | 1 => rw [bitUnary, bituOf, leadingZeros_find]
  | 2 => rw [bitUnary, bituOf]
  | 3 => simp only [bitUnary, bituOf, reverse_fold]
  | _ + 4 => simp only [bitUnary, bituOf, swapBytes_eq]

/-! ### Immediates (R66) -/

theorem append_low_half (y : Word) (x : BitVec 16) :
    x ++ y.extractLsb' 0 16 = BitVec.ofNat 32 (x.toNat * 65536 + y.toNat % 65536) := by
  apply BitVec.eq_of_toNat_eq
  have := x.isLt
  simp only [BitVec.toNat_append, BitVec.extractLsb'_toNat, BitVec.toNat_ofNat, Nat.shiftRight_zero]
  rw [← Nat.shiftLeft_add_eq_or_of_lt (by omega), Nat.shiftLeft_eq]
  omega

end Sys2Proof.Machine
end

section
/-! SUPPORT. From the effect of an F3 instruction to the outcomes the statements name: with a lane destination and with
a scalar one (R61, R62, R96, R97). -/

namespace Sys2Proof.Machine

section
variable {i : Instr} {s : State} {d : BitVec 8}

theorem Admitted.byDst_lanes (h : Admitted i .laneArith s) (hd : d.toNat < 0x80) : Admitted i (classByDst d) s :=
  (classByDst_lanes hd).symm ▸ h

theorem Admitted.byDst_scalar (h : Admitted i .control s) (hd : scalarDst d = true) : Admitted i (classByDst d) s :=
  (classByDst_scalar hd).symm ▸ h

end

section
variable {i : Instr} {s : State} {codes : List (BitVec 8)} {d : BitVec 8}
  {f : State → Bool → Nat → Word → LaneResult}

theorem roundsLanes_of_f3 (hx : exec i s = .next (f3Effect s codes d f)) (hd : d.toNat < 0x80) :
    roundsLanes i s d.toNat codes (f (latchClk s codes) false) := by
  refine ⟨fun h => ⟨_, hx, f3Effect_lanes s codes d f hd h⟩, fun h => ?_⟩
  obtain ⟨t, e, hf, o⟩ := f3Effect_lanes_trap s codes d f hd h
  exact ⟨t, e ▸ hx, hf, o⟩

/-! ### The scalar destination -/

/-- Only FMT refuses a value (R86). -/
theorem dstAccepts_eq_true {x : Word} : dstAccepts d x = true ↔ (d.toNat = 0xE7 → fmtLegal x = true) := by
  by_cases h : d.toNat = 0xE7 <;> simp [dstAccepts, h]

theorem f3Effect_refused (hd : scalarDst d = true) (h : dstAccepts d (f (latchClk s codes) true 0 0#32).1 = false) :
    f3Effect s codes d f = takeTrap s 0x08 false := by
  simp [f3Effect, hd, h]

theorem f3Effect_accepted (hd : scalarDst d = true) (h : dstAccepts d (f (latchClk s codes) true 0 0#32).1 = true) :
    f3Effect s codes d f = scalarEffect (latchClk s codes) d (f (latchClk s codes) true 0 0#32) := by
  simp [f3Effect, hd, h]

/-- No scalar destination reaches the trap enables (R97, R110). -/
theorem trapsOn_writeScalarDst (s : State) (d : BitVec 8) (x : Word) (fl : Flags) :
    trapsOn (writeScalarDst s d x) fl ↔ trapsOn s fl := by
  unfold writeScalarDst
  dsimp only
  split_ifs <;> rfl

/-- A scalar instruction whose flags take the arithmetic trap: its result and its flags stand as the trap is taken. -/
theorem scalarEffect_trap (s : State) (d : BitVec 8) (r : LaneResult) (hd : scalarDst d = true)
    (h : trapsOn s r.2.1) :
    ∃ t, scalarEffect s d r = takeTrap t 0x0B true ∧ ScalarOutcome s t d [] r.1 r.2.1 ∧
      { t.frag with exec := s.frag.exec, fmt := s.frag.fmt } = s.frag := by
  obtain ⟨h1, h2⟩ := scalarDst_range hd
  refine ⟨_, ?_, writeScalarDst_outcome s d r.1 r.2.1 h1 h2, ?_⟩
  · rw [scalarEffect, finishFlags_trap ((trapsOn_writeScalarDst s d r.1 _).2 h)]
  · obtain ⟨e, m, hf⟩ := writeScalarDst_frag s d r.1
    rw [commitFlags_frag, hf]

/-- A scalar instruction answers as `endsScalar` says, from its effect. -/
theorem endsScalar_of_effect {x : Word} {fl : Flags} {r : LaneResult} (hd : scalarDst d = true) (hr : r.1 = x)
    (hfl : r.2.1 = fl) (hno : dstAccepts d x = false → exec i s = .next (takeTrap s 0x08 false))
    (hyes : dstAccepts d x = true → exec i s = .next (scalarEffect (latchClk s codes) d r)) :
    endsScalar i s d codes x fl := by
  subst hr hfl
  obtain ⟨h1, h2⟩ := scalarDst_range hd
  refine ⟨fun ⟨he, hl⟩ => hno (by simp [dstAccepts, he, hl]), fun ha => ⟨fun hq => ?_, fun ht => ?_⟩⟩
  · obtain ⟨o, g⟩ := scalarEffect_quiet (latchClk s codes) d r h1 h2 ((trapsOn_latch s codes _).not.2 hq)
    refine ⟨_, hyes (dstAccepts_eq_true.2 ha), o.after_latch, ?_⟩
    simpa [GoesOnBut] using g
  · obtain ⟨t, e, o, hf⟩ := scalarEffect_trap (latchClk s codes) d r hd ((trapsOn_latch s codes _).2 ht)
    refine ⟨t, e ▸ hyes (dstAccepts_eq_true.2 ha), o.after_latch, ?_⟩
    simpa using hf

theorem roundsScalar_of_f3 (hx : exec i s = .next (f3Effect s codes d f)) (hd : scalarDst d = true) :
    roundsScalar i s d codes (f (latchClk s codes) true 0 0#32) :=
  endsScalar_of_effect hd rfl rfl (fun h => f3Effect_refused hd h ▸ hx) (fun h => f3Effect_accepted hd h ▸ hx)

end

/-! ### Instructions that raise no flag -/

section
variable {i : Instr} {s : State} {codes : List (BitVec 8)} {d : BitVec 8} {val : State → Bool → Nat → Word}

theorem laneFlags_plain (s : State) (v : Nat → Word) : laneFlags s (fun l g => plain g (v l)) = 0 :=
  laneFlags_none _ _ fun _ _ => rfl

theorem writesLanes_of_f3 (hx : exec i s = .next (f3Effect s codes d fun u sc l g => plain g (val u sc l)))
    (hd : d.toNat < 0x80) : writesLanes i s d.toNat codes (val (latchClk s codes) false) := by
  have h := (roundsLanes_of_f3 hx hd).1
  rw [laneFlags_plain] at h
  exact h (trapsOn_zero s)

theorem writesScalar_of_f3 (hx : exec i s = .next (f3Effect s codes d fun u sc l g => plain g (val u sc l)))
    (hd : scalarDst d = true) : writesScalar i s d codes (val (latchClk s codes) true 0) :=
  fun ha => ((roundsScalar_of_f3 hx hd).2 ha).1 (trapsOn_zero s)

/-- A value that FMT refuses makes the instruction illegal (R62, R86). -/
theorem refused_of_f3 {f : State → Bool → Nat → Word → LaneResult}
    (hx : exec i s = .next (f3Effect s codes 0xE7#8 f))
    (h : fmtLegal (f (latchClk s codes) true 0 0#32).1 = false) : exec i s = .next (takeTrap s 0x08 false) :=
  (roundsScalar_of_f3 hx rfl).1 ⟨rfl, h⟩

end

end Sys2Proof.Machine
end

section
/-! The integer, immediate, compact and 64-bit instructions (R55, R66, R210 to R214, R238). -/

namespace Sys2Proof.Machine

/-! ### What each row executes -/

section
variable {s : State} {i : Instr} {d a b : BitVec 8} {f g : Word → Word → Word → Word}

theorem int32_admitted (h : Admitted i (classByDst d) s) (hu : uniformCodes i = []) (hfg : ∀ x y z, g x y z = f x y z) :
    int32 i d a b s g = .next (f3Effect s [a, b] d fun u _ l w =>
      plain w (f (readSrc u a l) (readSrc u b l) (readSrc u d l))) := by
  obtain rfl : g = f := funext fun x => funext fun y => funext (hfg x y)
  rw [int32, checked_admitted _ h, hu, latchClk_nil]
  rfl

theorem imm16_admitted {x : BitVec 16} {f g : Word → BitVec 16 → Word} (h : Admitted i (classByDst d) s)
    (hu : uniformCodes i = []) (hfg : ∀ y z, g y z = f y z) :
    imm16 i d x s g = .next (f3Effect s [] d fun u _ l w => plain w (f (readSrc u d l) x)) := by
  rw [imm16, checked_admitted _ h, hu, latchClk_nil]
  simp only [hfg]
  rfl

theorem compactInt_admitted {d : BitVec 5} {p : BitVec 6} {f g : Word → Word → Word} (h : Admitted i .laneArith s)
    (hu : uniformCodes i = []) (hfg : ∀ x y, g x y = f x y) :
    compactInt i d p s g = .next (f3Effect s [] (d.setWidth 8) fun u _ l w =>
      plain w (f (readSrc u (d.setWidth 8) l) (readSrc u (compactSrc p) l))) := by
  rw [compactInt, checked_admitted _ h, hu, latchClk_nil]
  simp only [hfg]

end

theorem intRows_exec {s : State} {d a b : BitVec 8} {r : IntRow} (hr : r ∈ intRows)
    (h : Admitted (r.ctor d a b) (classByDst d) s) :
    exec (r.ctor d a b) s = .next (f3Effect s [a, b] d fun u _ l w =>
      plain w (r.f (readSrc u a l) (readSrc u b l) (readSrc u d l))) := by
  simp only [intRows, List.cons_append, List.nil_append, List.mem_cons, List.not_mem_nil, or_false] at hr
  rcases hr with rfl | rfl | rfl | rfl | rfl | rfl | rfl | rfl | rfl | rfl | rfl | rfl | rfl | rfl | rfl | rfl | rfl |
    rfl | rfl | rfl <;> dsimp only [exec] at h ⊢
  · exact (int32_admitted h rfl fun _ _ _ => rfl).trans rfl
  · exact (int32_admitted h rfl fun _ _ _ => rfl).trans rfl
  · exact (int32_admitted h rfl fun _ _ _ => rfl).trans rfl
  · exact (int32_admitted h rfl fun x y _ => mulHighSigned_eq x y).trans rfl
  · exact (int32_admitted h rfl fun x y _ => mulHighUnsigned_eq x y).trans rfl
  · exact (int32_admitted h rfl fun _ _ _ => rfl).trans rfl
  · exact (int32_admitted h rfl fun x y _ => min_slt x y).trans rfl
  · exact (int32_admitted h rfl fun x y _ => max_slt x y).trans rfl
  · exact (int32_admitted h rfl fun x y _ => min_ult x y).trans rfl
  · exact (int32_admitted h rfl fun x y _ => max_ult x y).trans rfl
  · exact (int32_admitted h rfl fun _ _ _ => rfl).trans rfl
  · exact (int32_admitted h rfl fun _ _ _ => rfl).trans rfl
  · exact (int32_admitted h rfl fun _ _ _ => rfl).trans rfl
  · exact (int32_admitted h rfl fun _ _ _ => rfl).trans rfl
  · exact (int32_admitted h rfl fun _ _ _ => rfl).trans rfl
  · exact (int32_admitted h rfl fun _ _ _ => rfl).trans rfl
  · exact (int32_admitted h rfl fun x y _ => sshiftRight_shiftBy x y).trans rfl
  · exact (int32_admitted h rfl fun x y _ => rotateLeft_shiftBy x y).trans rfl
  · exact (int32_admitted h rfl fun x y _ => bitExtract_eq x y).trans rfl
  · exact (int32_admitted h rfl fun x y z => bitInsert_eq z x y).trans rfl

/-- Code 0xC0, the B that BITU has not, is a constant: it latches nothing. -/
theorem latchClk_const (s : State) (a : BitVec 8) : latchClk s [a, 0xC0#8] = latchClk s [a] := by
  simp [latchClk]

theorem f3Effect_const (s : State) (a d : BitVec 8) (f : State → Bool → Nat → Word → LaneResult) :
    f3Effect s [a, 0xC0#8] d f = f3Effect s [a] d f := by
  simp only [f3Effect, latchClk_const]

theorem bitu_exec {s : State} {d a : BitVec 8} {k : Nat} (hk : k ≤ 4)
    (h : Admitted (.bitu d a (BitVec.ofNat 8 k)) (classByDst d) s) :
    exec (.bitu d a (BitVec.ofNat 8 k)) s =
      .next (f3Effect s [a] d fun u _ l w => plain w (bituOf k (readSrc u a l))) := by
  have hn : (BitVec.ofNat 8 k).toNat = k := by
    rw [BitVec.toNat_ofNat]
    omega
  rw [← f3Effect_const]
  dsimp only [exec]
  exact int32_admitted (f := fun x _ _ => bituOf k x) h rfl fun x _ _ => by rw [hn, bitUnary_eq]

theorem immRows_exec {s : State} {d : BitVec 8} {i : BitVec 16} {r : ImmRow} (hr : r ∈ immRows)
    (h : Admitted (r.ctor d i) (classByDst d) s) :
    exec (r.ctor d i) s = .next (f3Effect s [] d fun u _ l w => plain w (r.f (readSrc u d l) i)) := by
  simp only [immRows, List.mem_cons, List.not_mem_nil, or_false] at hr
  rcases hr with rfl | rfl | rfl | rfl | rfl <;> dsimp only [exec] at h ⊢
  · exact (imm16_admitted h rfl fun _ _ => rfl).trans rfl
  · exact (imm16_admitted h rfl append_low_half).trans rfl
  · exact (imm16_admitted h rfl fun _ _ => rfl).trans rfl
  · exact (imm16_admitted h rfl fun _ _ => rfl).trans rfl
  · exact (imm16_admitted h rfl fun _ _ => rfl).trans rfl

theorem compactRows_exec {s : State} {d : BitVec 5} {p : BitVec 6} {r : CompactRow} (hr : r ∈ compactRows)
    (hn : r.ctor d p ≠ .movCompact 0 0) (h : Admitted (r.ctor d p) .laneArith s) :
    exec (r.ctor d p) s = .next (f3Effect s [] (d.setWidth 8) fun u _ l w =>
      plain w (r.f (readSrc u (d.setWidth 8) l) (readSrc u (compactSrc p) l))) := by
  simp only [compactRows, List.mem_cons, List.not_mem_nil, or_false] at hr
  rcases hr with rfl | rfl | rfl | rfl | rfl | rfl | rfl | rfl | rfl <;> dsimp only [exec] at h hn ⊢
  · rw [execMovCompact, if_neg (by simpa using hn)]
    exact (compactInt_admitted h rfl fun _ _ => rfl).trans rfl
  · exact (compactInt_admitted h rfl fun _ _ => rfl).trans rfl
  · exact (compactInt_admitted h rfl fun _ _ => rfl).trans rfl
  · exact (compactInt_admitted h rfl fun _ _ => rfl).trans rfl
  · exact (compactInt_admitted h rfl fun _ _ => rfl).trans rfl
  · exact (compactInt_admitted h rfl fun _ _ => rfl).trans rfl
  · exact (compactInt_admitted h rfl fun _ _ => rfl).trans rfl
  · exact (compactInt_admitted h rfl fun _ _ => rfl).trans rfl
  · exact (compactInt_admitted h rfl fun x y => sshiftRight_shiftBy x y).trans rfl

/-! ### Integer instructions with a scalar destination -/

/-- Settles O2: the row's effect with a scalar destination, no flag raised. -/
theorem intScalars : Obligations.IntScalars := by
  refine fun s d a b hd => ⟨fun r hr h => ?_, fun k hk h => ?_⟩
  · have := writesScalar_of_f3 (intRows_exec hr (h.byDst_scalar hd)) hd
    exact this
  · have := writesScalar_of_f3 (bitu_exec hk (h.byDst_scalar hd)) hd
    exact this

/-! ### Immediate and compact forms -/

theorem compactDst_toNat (d : BitVec 5) : (d.setWidth 8).toNat = d.toNat := by
  rw [BitVec.toNat_setWidth]
  omega

theorem compactDst_lt (d : BitVec 5) : (d.setWidth 8).toNat < 0x80 := by
  rw [compactDst_toNat]
  omega

theorem nop_advances {s : State} (h : Admitted (.movCompact 0 0) .laneArith s) :
    exec (.movCompact 0 0) s = .next (advance s) := by
  dsimp only [exec]
  rw [execMovCompact, if_pos (by decide), checked_admitted _ h]
  rfl

theorem immediateAndCompact_holds : immediateAndCompact := by
  refine ⟨fun s d i r hr => ⟨fun hd h => ?_, fun hd h => ?_⟩, fun _ => nop_advances, fun s d p r hr hn h => ?_⟩
  · have := writesLanes_of_f3 (immRows_exec hr (h.byDst_lanes hd)) hd
    exact this
  · have := writesScalar_of_f3 (immRows_exec hr (h.byDst_scalar hd)) hd
    exact this
  · have := writesLanes_of_f3 (compactRows_exec hr hn h) (compactDst_lt d)
    rwa [compactDst_toNat] at this

end Sys2Proof.Machine
end

section
/-! The 64-bit instructions (R214). -/

namespace Sys2Proof.Machine

theorem lowWord_eq (x : DWord) : x.setWidth 32 = x.extractLsb' 0 32 := by
  rw [BitVec.setWidth_eq_extractLsb' (by norm_num)]

theorem highWord_eq (x : DWord) : (x >>> 32).setWidth 32 = x.extractLsb' 32 32 := by
  apply BitVec.eq_of_toNat_eq
  simp only [BitVec.toNat_setWidth, BitVec.toNat_ushiftRight, BitVec.extractLsb'_toNat]

/-! ### Register pairs -/

theorem Kept.refl (s : State) : Kept s s := ⟨rfl, fun _ => rfl, ⟨rfl, rfl, rfl, rfl⟩, rfl, rfl, rfl⟩

theorem Kept.trans {s t u : State} (h : Kept s t) (k : Kept t u) : Kept s u :=
  ⟨k.dev.trans h.dev, fun a => (k.memory a).trans (h.memory a),
    ⟨k.outside.1.trans h.outside.1, k.outside.2.1.trans h.outside.2.1, k.outside.2.2.1.trans h.outside.2.2.1,
      k.outside.2.2.2.trans h.outside.2.2.2⟩,
    k.ops.trans h.ops, k.crew.trans h.crew, k.wave.trans h.wave⟩

theorem writeLanes_kept (s : State) (r : Nat) (ls : List Nat) (f : Nat → Word) : Kept s (writeLanes s r ls f) :=
  ⟨rfl, fun _ => rfl, ⟨rfl, rfl, rfl, rfl⟩, taintLanes_unmarked _ _ _ _, rfl, rfl⟩

theorem writeS_kept (s : State) (r : Nat) (x : Word) : Kept s (writeS s r x) :=
  ⟨rfl, fun _ => rfl, ⟨rfl, rfl, rfl, rfl⟩, taintScalar_unmarked _ _ _, rfl, rfl⟩

theorem writeM_kept (s : State) (k : Nat) (x : Lanes) : Kept s (writeM s k x) :=
  ⟨rfl, fun _ => rfl, ⟨rfl, rfl, rfl, rfl⟩, rfl, rfl, rfl⟩

theorem advance_kept (s : State) : Kept s (advance s) :=
  ⟨rfl, fun _ => rfl, ⟨rfl, rfl, rfl, rfl⟩, rfl, rfl, rfl⟩

theorem advance_scalarReg (s : State) (r : Nat) : scalarReg (advance s) r = scalarReg s r := rfl

theorem latchClk_kept (s : State) (codes : List (BitVec 8)) : Kept s (latchClk s codes) := (Kept.refl _).after_latch

/-- A register of an active lane holds what was written there, every other register what it held. -/
theorem writeActive_reg (s : State) (r : Nat) (f : Nat → Word) (r' l : Nat) (hl : l < 96) :
    laneReg (writeLanes s r (laneList s.frag.exec) f) r' l =
      if r' = r ∧ s.frag.exec.getLsbD l = true then f l else laneReg s r' l := by
  rw [writeLanes_reg s r _ f (fun l hl => ((mem_laneList _ _).1 hl).1) r' l hl]
  simp only [mem_laneList, hl, true_and]

section
variable {i : Instr} {s : State} {codes : List (BitVec 8)} {d : BitVec 8} {f : State → Nat → DWord}

theorem writesPairLanes_of_effect (hx : exec i s = .next (pairEffect s codes d f)) (hd : d.toNat < 0x80) :
    writesPairLanes i s d.toNat codes (f (latchClk s codes)) := by
  let u := latchClk s codes
  let ls := laneList u.frag.exec
  let lo := writeLanes u d.toNat ls (fun l => (f u l).setWidth 32)
  have e : pairEffect s codes d f =
      advance (writeLanes lo (d.toNat + 1) ls (fun l => (f u l >>> 32).setWidth 32)) := by
    simp [pairEffect, laneDst_of hd, lo, ls, u]
  have hreg : ∀ r l, l < 96 → laneReg (pairEffect s codes d f) r l =
      if r = d.toNat + 1 ∧ s.frag.exec.getLsbD l = true then (f u l >>> 32).setWidth 32
      else if r = d.toNat ∧ s.frag.exec.getLsbD l = true then (f u l).setWidth 32 else laneReg s r l := by
    intro r l hl
    have h1 := writeActive_reg lo (d.toNat + 1) (fun l => (f u l >>> 32).setWidth 32) r l hl
    have h2 := writeActive_reg u d.toNat (fun l => (f u l).setWidth 32) r l hl
    rw [show laneReg lo r l = _ from h2] at h1
    rw [e]
    simpa [lo, ls, u, laneReg] using h1
  refine ⟨_, hx, ?_, fun r l hl hr => ?_, ?_, ?_, ?_, ?_, ?_, ?_, fun l hl => ⟨?_, ?_⟩⟩
  · rw [e]
    exact (latchClk_kept s codes).trans ((writeLanes_kept _ _ _ _).trans ((writeLanes_kept _ _ _ _).trans
      (advance_kept _)))
  · simp only [List.mem_cons, List.not_mem_nil, or_false, not_or] at hr
    rw [hreg r l hl, if_neg (fun h => hr.2 h.1), if_neg (fun h => hr.1 h.1)]
  · simp [e, SameScalars, scalarReg, lo, u]
  · simp [e, SameMasks, readM, lo, u]
  · simp [e, SameGenerators, readRng, lo, u]
  · simp [e, lo, u]
  · simp [e, ClockRead, lo, u]
  · simp [e, GoesOn, lo, u]
  · rw [hreg _ l hl, if_neg (by omega)]
    simp [lowWord_eq, u]
  · rw [hreg _ l hl]
    simp [highWord_eq, u]

theorem writeS64_reg (s : State) (r : Nat) (x : DWord) (r' : Nat) :
    scalarReg (writeS64 s r x) r' =
      if r' = r + 1 then x.extractLsb' 32 32 else if r' = r then x.extractLsb' 0 32 else scalarReg s r' := by
  rw [writeS64, writeS_reg, writeS_reg, highWord_eq, lowWord_eq]

theorem writeS64_kept (s : State) (r : Nat) (x : DWord) : Kept s (writeS64 s r x) :=
  (writeS_kept _ _ _).trans (writeS_kept _ _ _)

theorem writesPairScalar_of_effect (hx : exec i s = .next (pairEffect s codes d f)) (hd : scalarDst d = true) :
    writesPairScalar i s (d.toNat - 0x80) codes (f (latchClk s codes) 0) := by
  let u := latchClk s codes
  have e : pairEffect s codes d f = advance (writeS64 u (d.toNat - 0x80) (f u 0)) := by
    simp [pairEffect, hd, u]
  have hreg : ∀ r, scalarReg (pairEffect s codes d f) r =
      if r = d.toNat - 0x80 + 1 then (f u 0).extractLsb' 32 32
      else if r = d.toNat - 0x80 then (f u 0).extractLsb' 0 32 else scalarReg s r := by
    intro r
    rw [e, advance_scalarReg, writeS64_reg]
    simp [u, scalarReg]
  refine ⟨_, hx, ?_, ?_, fun r hr => ?_, ?_, ?_, ?_, ?_, ?_, ?_, ?_⟩
  · rw [e]
    exact (latchClk_kept s codes).trans ((writeS64_kept _ _ _).trans (advance_kept _))
  · simp [e, SameLanes, laneReg, writeS64, u]
  · simp only [List.mem_cons, List.not_mem_nil, or_false, not_or] at hr
    rw [hreg r, if_neg hr.2, if_neg hr.1]
  · simp [e, SameMasks, readM, writeS64, u]
  · simp [e, SameGenerators, readRng, writeS64, u]
  · simp [e, writeS64, u]
  · simp [e, ClockRead, writeS64, u]
  · simp [e, GoesOn, writeS64, u]
  · rw [hreg, if_neg (by omega), if_pos rfl]
  · rw [hreg, if_pos rfl]

end

/-! ### The instructions -/

theorem zext_mul (x y : Word) : x.setWidth 64 * y.setWidth 64 = BitVec.ofNat 64 (x.toNat * y.toNat) := by
  rw [BitVec.ofNat_mul, BitVec.ofNat_toNat, BitVec.ofNat_toNat]

theorem pairRows_exec {s : State} {d a b : BitVec 8} {r : PairRow} (hr : r ∈ pairRows)
    (h : Admitted (r.ctor d a b) (classByDst d) s) :
    exec (r.ctor d a b) s = .next (pairEffect s [a, b] d fun u => r.f u d a b) := by
  simp only [pairRows, List.mem_cons, List.not_mem_nil, or_false] at hr
  rcases hr with rfl | rfl | rfl <;> dsimp only [exec] at h ⊢
  · exact checked_admitted _ h
  · exact checked_admitted _ h
  · simp only [← zext_mul]
    exact checked_admitted _ h

theorem mov64_exec {s : State} {d a : BitVec 8} (h : Admitted (.mov64 d a) (classByDst d) s) :
    exec (.mov64 d a) s = .next (pairEffect s [a] d fun u => readSrc64 u a) := by
  dsimp only [exec]
  exact checked_admitted _ h

theorem pairInstructions_holds : pairInstructions := by
  refine fun s d a b => ⟨fun r hr => ⟨fun hd h => ?_, fun hd h => ?_⟩, fun hd h => ?_, fun hd h => ?_⟩
  · have := writesPairLanes_of_effect (pairRows_exec hr (h.byDst_lanes hd)) hd
    exact this
  · have := writesPairScalar_of_effect (pairRows_exec hr (h.byDst_scalar hd)) hd
    exact this
  · have := writesPairLanes_of_effect (mov64_exec (h.byDst_lanes hd)) hd
    exact this
  · have := writesPairScalar_of_effect (mov64_exec (h.byDst_scalar hd)) hd
    exact this

/-- Settles O3: the immediate and compact rows by their F3 effect, the 64-bit ones by that on a register pair. -/
theorem shortAndPairForms : Obligations.ShortAndPairForms := ⟨immediateAndCompact_holds, pairInstructions_holds⟩

end Sys2Proof.Machine
end

section
/-! The floating instructions and the conversions: on lanes, with a scalar destination, and under a format they do not
take (R55, R61, R62, R86, R87, R91, R96, R97, R215 to R223, R230 to R232). -/

namespace Sys2Proof.Machine

/-! ### What each row executes -/

section
variable {s : State} {i : Instr} {c : RoleClass} {d a b : BitVec 8} {codes : List (BitVec 8)}

theorem float32_admitted {k : FloatOp} (h : Admitted i c s) (hu : uniformCodes i = []) :
    float32 i c d a b codes s k = .next (f3Effect s codes d fun u sc => f32At k u sc d a b) := by
  rw [float32, checked_admitted _ h, hu, latchClk_nil]
  rfl

theorem halves_admitted {bf : Bool} {k : FloatOp} (h : Admitted i c s) (hu : uniformCodes i = []) :
    halves i c bf d a b codes s k = .next (f3Effect s codes d fun u sc => halvesAt k bf u sc d a b) := by
  rw [halves, checked_admitted _ h, hu, latchClk_nil]
  rfl

end

theorem arithRows_exec {s : State} {d a b : BitVec 8} {r : FloatRow} (hr : r ∈ arithRows)
    (h : Admitted (r.ctor d a b) (classByDst d) s) :
    exec (r.ctor d a b) s = .next (f3Effect s (r.codes a b) d fun u sc => r.f u sc d a b) := by
  simp only [arithRows, List.mem_cons, List.not_mem_nil, or_false] at hr
  rcases hr with rfl | rfl | rfl | rfl | rfl | rfl | rfl | rfl | rfl | rfl | rfl | rfl <;> dsimp only [exec] at h ⊢
  iterate 6 · exact float32_admitted h rfl
  iterate 6 · exact halves_admitted h rfl

theorem compactFloatRows_exec {s : State} {d : BitVec 5} {p : BitVec 6} {r : CompactFloatRow}
    (hr : r ∈ compactFloatRows) (h : Admitted (r.ctor d p) .laneArith s) :
    exec (r.ctor d p) s =
      .next (f3Effect s [] (d.setWidth 8) fun u sc => r.f u sc (d.setWidth 8) (d.setWidth 8) (compactSrc p)) := by
  simp only [compactFloatRows, List.mem_cons, List.not_mem_nil, or_false] at hr
  rcases hr with rfl | rfl | rfl | rfl | rfl | rfl | rfl <;> dsimp only [exec] at h ⊢
  iterate 5 · exact float32_admitted h rfl
  iterate 2 · exact halves_admitted h rfl

/-- The instruction takes no trap for FMT's formats where the row's needs are met, and else it is illegal (R87). -/
def RunsUnderFormat (r : FloatRow) (s : State) (d a b : BitVec 8) : Prop :=
  (r.needs s.frag.fmt →
    exec (r.ctor d a b) s = .next (f3Effect s (r.codes a b) d fun u sc => r.f u sc d a b)) ∧
  (¬ r.needs s.frag.fmt → exec (r.ctor d a b) s = .next (takeTrap s 0x08 false))

/-- A row that takes every FMT. -/
theorem runsUnderFormat_any {r : FloatRow} {s : State} {d a b : BitVec 8} (hn : r.needs s.frag.fmt)
    (h : Admitted (r.ctor d a b) (classByDst d) s) (hu : uniformCodes (r.ctor d a b) = [])
    (hx : exec (r.ctor d a b) s = checked (r.ctor d a b) (classByDst d) s fun u =>
      f3Effect u (r.codes a b) d fun u sc => r.f u sc d a b) :
    RunsUnderFormat r s d a b := by
  rw [checked_admitted _ h, hu, latchClk_nil] at hx
  exact ⟨fun _ => hx, fun hno => absurd hn hno⟩

/-- A row whose instruction looks at FMT after the checks. -/
theorem runsUnderFormat_if {r : FloatRow} {s : State} {d a b : BitVec 8} (bad : Word → Bool)
    (h : Admitted (r.ctor d a b) (classByDst d) s) (hu : uniformCodes (r.ctor d a b) = [])
    (hb : bad s.frag.fmt = true ↔ ¬ r.needs s.frag.fmt)
    (hx : exec (r.ctor d a b) s = checked (r.ctor d a b) (classByDst d) s fun u =>
      if bad u.frag.fmt then takeTrap u 0x08 false else f3Effect u (r.codes a b) d fun u sc => r.f u sc d a b) :
    RunsUnderFormat r s d a b := by
  rw [checked_admitted _ h, hu, latchClk_nil] at hx
  refine ⟨fun hn => ?_, fun hn => ?_⟩
  · rw [hx, if_neg (fun hc => hb.1 hc hn)]
  · rw [hx, if_pos (hb.2 hn)]

theorem f8Code_iff (c : Nat) : f8Code c = true ↔ c = 2 ∨ c = 3 := by
  simp [f8Code]

theorem convertRows_exec {s : State} {d a b k : BitVec 8} {r : FloatRow} (hr : r ∈ convertRows k)
    (h : Admitted (r.ctor d a b) (classByDst d) s) : RunsUnderFormat r s d a b := by
  simp only [convertRows, List.cons_append, List.nil_append, List.mem_cons, List.not_mem_nil, or_false] at hr
  rcases hr with rfl | rfl | rfl | rfl | rfl | rfl | rfl | rfl | rfl | rfl | rfl | rfl
  · exact runsUnderFormat_any trivial h rfl rfl
  · exact runsUnderFormat_any trivial h rfl rfl
  · exact runsUnderFormat_if (fun m => 1 < fmtQF m) h rfl (by simp) (by simp only [decide_eq_true_eq]; rfl)
  · exact runsUnderFormat_if (fun m => 8 < fmtQF m) h rfl (by simp) (by simp only [decide_eq_true_eq]; rfl)
  · exact runsUnderFormat_any trivial h rfl rfl
  · exact runsUnderFormat_any trivial h rfl rfl
  · exact runsUnderFormat_any trivial h rfl rfl
  · exact runsUnderFormat_if (fun m => !(f8Code (fmtAF m) && f8Code (fmtBF m))) h rfl
      (by rw [Bool.not_eq_true', ← Bool.not_eq_true, Bool.and_eq_true, f8Code_iff, f8Code_iff]) rfl
  · exact runsUnderFormat_if (fun m => !(fmtAF m == 6 && fmtBF m == 6)) h rfl
      (by rw [Bool.not_eq_true', ← Bool.not_eq_true, Bool.and_eq_true, beq_iff_eq, beq_iff_eq]) rfl
  · exact runsUnderFormat_any trivial h rfl rfl
  · exact runsUnderFormat_any trivial h rfl rfl
  · exact runsUnderFormat_any trivial h rfl rfl

/-! ### Quantisation (R222) -/

/-- QNT's effect under a format it takes. -/
def qntEffect (s : State) (d a b : BitVec 8) : State :=
  let t := latchClk s [a, b]
  let f := fun sc l g => quantSlot t sc g (readSrc t a l) (readSrc t b l) (readDst t d l)
  if scalarDst d then
    let r := f true 0 0#32
    if qntKeeps t (readSrc t b 0) then finishFlags t r.2.1
    else if dstAccepts d r.1 then scalarEffect t d r
    else takeTrap s 0x08 false
  else laneEffectWhere t d.toNat (fun l => !qntKeeps t (readSrc t b l)) (f false)

theorem qnt_exec {s : State} {d a b : BitVec 8} (h : Admitted (.qnt d a b) (classByDst d) s) :
    exec (.qnt d a b) s = .next (if 8 < fmtQF s.frag.fmt then takeTrap s 0x08 false else qntEffect s d a b) := by
  dsimp only [exec]
  exact (checked_admitted _ h).trans rfl

theorem qnt_refused {s : State} {d a b : BitVec 8} (h : Admitted (.qnt d a b) (classByDst d) s)
    (hn : ¬ quantRow.needs s.frag.fmt) : exec (.qnt d a b) s = .next (takeTrap s 0x08 false) := by
  rw [qnt_exec h, if_pos (not_le.1 hn)]

/-- A scalar D is read as it stands. -/
theorem quantRow_scalar {u : State} {d a b : BitVec 8} (hd : scalarDst d = true) :
    quantRow.f u true d a b 0 0#32 = quantSlot u true 0#32 (readSrc u a 0) (readSrc u b 0) (readDst u d 0) := by
  have h80 : ¬ d.toNat < 0x80 := not_lt.2 (scalarDst_range hd).1
  simp only [quantRow, h80, and_false, if_false, readDst]

theorem qntEffect_writes {s : State} {d a b : BitVec 8} (hd : scalarDst d = true)
    (hk : qntKeeps (latchClk s [a, b]) (readSrc (latchClk s [a, b]) b 0) = false) :
    qntEffect s d a b =
      if dstAccepts d (quantRow.f (latchClk s [a, b]) true d a b 0 0#32).1 then
        scalarEffect (latchClk s [a, b]) d (quantRow.f (latchClk s [a, b]) true d a b 0 0#32)
      else takeTrap s 0x08 false := by
  simp [qntEffect, hd, hk, quantRow_scalar hd]

theorem qntEffect_keeps {s : State} {d a b : BitVec 8} (hd : scalarDst d = true)
    (hk : qntKeeps (latchClk s [a, b]) (readSrc (latchClk s [a, b]) b 0) = true) :
    qntEffect s d a b =
      finishFlags (latchClk s [a, b]) (quantRow.f (latchClk s [a, b]) true d a b 0 0#32).2.1 := by
  simp [qntEffect, hd, hk, quantRow_scalar hd]

theorem qnt_keepsScalar {s : State} {d a b : BitVec 8} (hd : scalarDst d = true)
    (hk : qntKeeps (latchClk s [a, b]) (readSrc (latchClk s [a, b]) b 0) = true)
    (hx : exec (.qnt d a b) s = .next (qntEffect s d a b)) : keepsScalar s d a b := by
  rw [qntEffect_keeps hd hk] at hx
  have kept : ∀ fl, Kept s (commitFlags (latchClk s [a, b]) fl) := fun fl =>
    Kept.after_latch (cs := [a, b]) ⟨rfl, fun _ => rfl, ⟨rfl, rfl, rfl, rfl⟩, rfl, rfl, rfl⟩
  refine ⟨fun hq => ?_, fun ht => ?_⟩
  · rw [finishFlags_quiet ((trapsOn_latch s _ _).not.2 hq)] at hx
    refine ⟨_, hx, ⟨(kept _).trans (advance_kept _), ?_, ?_, ?_, ?_, ?_, ?_⟩, ?_⟩ <;>
      simp [SameLanes, SameScalars, SameMasks, SameGenerators, ClockRead, GoesOn, laneReg, scalarReg, readM, readRng,
        commitFlags]
  · rw [finishFlags_trap ((trapsOn_latch s _ _).2 ht)] at hx
    refine ⟨_, hx, ⟨kept _, ?_, ?_, ?_, ?_, ?_, ?_⟩, ?_⟩ <;>
      simp [SameLanes, SameScalars, SameMasks, SameGenerators, ClockRead, laneReg, scalarReg, readM, readRng,
        commitFlags]

theorem qnt_roundsScalar {s : State} {d a b : BitVec 8} (hd : scalarDst d = true)
    (hk : qntKeeps (latchClk s [a, b]) (readSrc (latchClk s [a, b]) b 0) = false)
    (hx : exec (.qnt d a b) s = .next (qntEffect s d a b)) :
    roundsScalar (.qnt d a b) s d [a, b] (quantRow.f (latchClk s [a, b]) true d a b 0 0#32) := by
  rw [qntEffect_writes hd hk] at hx
  exact endsScalar_of_effect hd rfl rfl (fun h => by rw [hx, if_neg (by simp [h])]) (fun h => by rw [hx, if_pos h])

/-! ### Writes to FMT (R62, R86) -/

theorem readSrc_fmt (s : State) (l : Nat) : readSrc s 0xE7#8 l = s.frag.fmt := by
  simp [readSrc, specialSrc]

@[simp] theorem readM_latchClk (s : State) (codes : List (BitVec 8)) (k : Nat) :
    readM (latchClk s codes) k = readM s k := by
  simp [readM]

@[simp] theorem readV_latchClk (s : State) (codes : List (BitVec 8)) (r l : Nat) :
    readV (latchClk s codes) r l = readV s r l := by
  simp [readV]

@[simp] theorem activeLane_latchClk (s : State) (codes : List (BitVec 8)) (x : Word) :
    activeLane (latchClk s codes) x = activeLane s x := by
  simp [activeLane]

theorem activeLane_pos {s : State} {x : Word} (h : x.toNat < 96 ∧ s.frag.exec.getLsbD x.toNat = true) :
    activeLane s x = some x.toNat := by
  simp [activeLane, laneCount, h]

theorem activeLane_neg {s : State} {x : Word} (h : ¬ (x.toNat < 96 ∧ s.frag.exec.getLsbD x.toNat = true)) :
    activeLane s x = none := by
  simpa [activeLane, laneCount] using h

theorem sel_exec {s : State} {d a b : BitVec 8} (h : Admitted (.sel d a b) (classByDst d) s) :
    exec (.sel d a b) s = .next (f3Effect s [a, b] d fun u sc l g =>
      plain g (if (if sc then (readM u 0 &&& u.frag.exec) != 0#96 else (readM u 0).getLsbD l) then readSrc u a l
        else readSrc u b l)) := by
  dsimp only [exec]
  exact (checked_admitted _ h).trans rfl

theorem rdlane_exec {s : State} {d a b : BitVec 8} (h : Admitted (.rdlane d a b) (classByDst d) s) :
    exec (.rdlane d a b) s = .next (f3Effect s [b] d fun u _ _ g =>
      plain g (match activeLane u (readSrc u b 0) with
        | some k => readV u a.toNat k
        | none => 0#32)) := by
  dsimp only [exec]
  exact checked_admitted _ h

/-! ### The statements -/

/-- Settles O4: every row's effect is the one of an F3 instruction on lanes. -/
theorem floatLanes : Obligations.FloatLanes := by
  refine ⟨fun s d a b hd r hr h => ?_, fun s d p r hr h => ?_⟩
  · have := roundsLanes_of_f3 (arithRows_exec hr (h.byDst_lanes hd)) hd
    exact this
  · have := roundsLanes_of_f3 (compactFloatRows_exec hr h) (compactDst_lt d)
    rwa [compactDst_toNat] at this

/-- Settles O6: the same effect with a scalar destination; QNT's own rule where it leaves D. -/
theorem floatScalars : Obligations.FloatScalars := by
  refine fun s d a b k hd => ⟨fun r hr hn h => ?_, fun hq h => ?_⟩
  · rcases List.mem_append.1 hr with hr | hr
    · have := roundsScalar_of_f3 (arithRows_exec hr (h.byDst_scalar hd)) hd
      exact this
    · have := roundsScalar_of_f3 ((convertRows_exec hr (h.byDst_scalar hd)).1 hn) hd
      exact this
  · have hx := qnt_exec (h.byDst_scalar hd)
    rw [if_neg (not_lt.2 hq)] at hx
    exact ⟨fun hk => qnt_roundsScalar hd hk hx, fun hk => qnt_keepsScalar hd hk hx⟩

theorem formatRefused_holds : formatRefused := by
  intro s d a b k r hr hn h
  rcases List.mem_cons.1 hr with rfl | hr
  · exact qnt_refused h hn
  · exact (convertRows_exec hr h).2 hn

theorem formatWriteRefused_holds : formatWriteRefused := by
  have hfmt : scalarDst 0xE7#8 = true := rfl
  refine fun s a b => ⟨fun r hr h hv => ?_, fun k hk h hv => ?_, fun i r hr h hv => ?_, fun h => ?_, fun h => ?_⟩
  · exact refused_of_f3 (intRows_exec hr (h.byDst_scalar hfmt)) hv
  · exact refused_of_f3 (bitu_exec hk (h.byDst_scalar hfmt)) hv
  · rw [← readSrc_fmt s 0] at hv
    exact refused_of_f3 (immRows_exec hr (h.byDst_scalar hfmt)) hv
  · intro u hv
    refine refused_of_f3 (sel_exec (h.byDst_scalar hfmt)) ?_
    by_cases hc : readM s 0 &&& s.frag.exec = 0#96 <;> simpa [plain, hc, u] using hv
  · intro x hv
    refine refused_of_f3 (rdlane_exec (h.byDst_scalar hfmt)) ?_
    simp only [plain, activeLane_latchClk, readV_latchClk]
    by_cases hc : x.toNat < 96 ∧ s.frag.exec.getLsbD x.toNat = true
    · rw [show activeLane s (readSrc _ b 0) = _ from activeLane_pos hc]
      rwa [if_pos hc] at hv
    · rw [show activeLane s (readSrc _ b 0) = _ from activeLane_neg hc]
      rwa [if_neg hc] at hv

/-- Settles O7: a format an instruction does not take, and a value that FMT does not. -/
theorem formatsRefused : Obligations.FormatsRefused := ⟨formatRefused_holds, formatWriteRefused_holds⟩

end Sys2Proof.Machine
end

section
/-! WRED and WSCAN (R105, R228, R229): the running combination of the lanes' values, and the outcomes of an instruction
that ends by committing its flags. -/

namespace Sys2Proof.Machine

/-! ### Instructions that end by committing flags (R96, R97) -/

/-- Of an instruction that has written its results in t and then commits its flags: p holds as it goes on, and p holds
as it takes the arithmetic trap, if p holds of t with the flags, wherever the fragment stands. -/
theorem ends_of_finishFlags {i : Instr} {s t : State} {fl : Flags} {p : State → Prop}
    (hx : exec i s = .next (finishFlags t fl)) (hf : t.frag = s.frag) (hclk : t.clk = s.clk)
    (ht : trapsOn t fl ↔ trapsOn s fl) (hp : p (commitFlags t fl)) (hadv : p (advance (commitFlags t fl))) :
    (¬ trapsOn s fl → ∃ u, exec i s = .next u ∧ p u ∧ GoesOn s u) ∧
    (trapsOn s fl → ∃ u, exec i s = .next (takeTrap u 0x0B true) ∧ u.frag = s.frag ∧ p u) := by
  refine ⟨fun h => ⟨_, finishFlags_quiet (ht.not.2 h) ▸ hx, hadv, ?_⟩,
    fun h => ⟨_, finishFlags_trap (ht.2 h) ▸ hx, ?_, hp⟩⟩
  · simp [GoesOn, hf, hclk]
  · simp [hf]

theorem commitFlags_kept (s : State) (fl : Flags) : Kept s (commitFlags s fl) :=
  ⟨rfl, fun _ => rfl, ⟨rfl, rfl, rfl, rfl⟩, rfl, rfl, rfl⟩

theorem LaneOutcome.advance {s t : State} {d : Nat} {cs : List (BitVec 8)} {val gen : Nat → Word} {fl : Flags}
    (h : LaneOutcome s t d cs val gen fl) : LaneOutcome s (advance t) d cs val gen fl :=
  ⟨h.kept.trans (advance_kept t), h.written, h.lanes, h.scalars, h.masks, h.gens, h.flags, h.clock⟩

/-- Only what is written in active lanes counts. -/
theorem LaneOutcome.congr {s t : State} {d : Nat} {cs : List (BitVec 8)} {val val' gen : Nat → Word} {fl : Flags}
    (h : LaneOutcome s t d cs val gen fl) (hv : ∀ l ∈ laneList s.frag.exec, val l = val' l) :
    LaneOutcome s t d cs val' gen fl := by
  refine ⟨h.kept, fun l hl => ?_, h.lanes, h.scalars, h.masks, h.gens, h.flags, h.clock⟩
  rw [h.written l hl]
  split
  · exact hv l ((mem_laneList _ _).2 ⟨hl, ‹_›⟩)
  · rfl

/-- The outcome of a write to one register of the active lanes and a commit of flags. -/
theorem writeActive_outcome (s : State) (r : Nat) (f : Nat → Word) (fl : Flags) :
    LaneOutcome s (commitFlags (writeLanes s r (laneList s.frag.exec) f) fl) r [] f (readRng s) fl := by
  refine ⟨(writeLanes_kept s r _ f).trans (commitFlags_kept _ _), fun l hl => ?_, fun r' l hl hr => ?_, ?_, ?_,
    fun l _ => ?_, rfl, rfl⟩
  · exact (writeActive_reg s r f r l hl).trans (by simp)
  · refine (writeActive_reg s r f r' l hl).trans (if_neg fun h => hr ?_)
    exact List.mem_singleton.2 h.1
  · exact fun _ _ => rfl
  · exact fun _ _ => rfl
  · exact (ite_self _).symm

/-! ### The running combination -/

section
variable {f : Nat} {env : RoundEnv} {daz : Bool}

/-- One step of `reduced`. -/
def reduceStep (f : Nat) (env : RoundEnv) (daz : Bool) (r : Word × Flags) (y : Word) : Word × Flags :=
  let q := wredStep f env daz r.1 y
  (q.1, r.2 ||| q.2)

theorem reduced_cons (x : Word) (xs : List Word) :
    reduced f env daz (x :: xs) = xs.foldl (reduceStep f env daz) (wredFirst f daz x) := rfl

theorem wredRun_some_cons (a : Word) (fl : Flags) (x : Word) (xs : List Word) :
    wredRun f env daz (some a) fl (x :: xs) =
      ((reduceStep f env daz (a, fl) x).1 ::
        (wredRun f env daz (some (reduceStep f env daz (a, fl) x).1) (reduceStep f env daz (a, fl) x).2 xs).1,
        (wredRun f env daz (some (reduceStep f env daz (a, fl) x).1) (reduceStep f env daz (a, fl) x).2 xs).2) := rfl

theorem wredRun_none_cons (x : Word) (xs : List Word) :
    wredRun f env daz none 0 (x :: xs) =
      ((wredFirst f daz x).1 :: (wredRun f env daz (some (wredFirst f daz x).1) (wredFirst f daz x).2 xs).1,
        (wredRun f env daz (some (wredFirst f daz x).1) (wredFirst f daz x).2 xs).2) := by
  simp [wredRun]

theorem wredRun_flags (a : Word) (fl : Flags) (xs : List Word) :
    (wredRun f env daz (some a) fl xs).2 = (xs.foldl (reduceStep f env daz) (a, fl)).2 := by
  induction xs generalizing a fl with
  | nil => rfl
  | cons x xs ih =>
    rw [wredRun_some_cons, List.foldl_cons]
    exact ih _ _

theorem wredRun_last (a : Word) (fl : Flags) (xs : List Word) :
    (wredRun f env daz (some a) fl xs).1.getLast?.getD a = (xs.foldl (reduceStep f env daz) (a, fl)).1 := by
  induction xs generalizing a fl with
  | nil => rfl
  | cons x xs ih =>
    rw [wredRun_some_cons, List.foldl_cons, List.getLast?_cons, Option.getD_some]
    exact ih _ _

theorem wredRun_reduced_flags (xs : List Word) :
    (wredRun f env daz none 0 xs).2 = (reduced f env daz xs).2 := by
  cases xs with
  | nil => rfl
  | cons x xs => rw [wredRun_none_cons, reduced_cons, wredRun_flags]

theorem wredRun_reduced (xs : List Word) :
    (wredRun f env daz none 0 xs).1.getLast?.getD (wredIdentity f) = (reduced f env daz xs).1 := by
  cases xs with
  | nil => rfl
  | cons x xs => rw [wredRun_none_cons, reduced_cons, List.getLast?_cons, Option.getD_some, wredRun_last]

/-! ### The combination up to a lane -/

theorem filter_le_head {j : Nat} {ls : List Nat} (h : (j :: ls).Pairwise (· < ·)) :
    (j :: ls).filter (fun k => decide (k ≤ j)) = [j] := by
  rw [List.filter_cons_of_pos (by simp), List.filter_eq_nil_iff.2]
  intro k hk
  simpa using (List.pairwise_cons.1 h).1 k hk

theorem filter_le_later {j l : Nat} {ls : List Nat} (h : (j :: ls).Pairwise (· < ·)) (hl : l ∈ ls) :
    (j :: ls).filter (fun k => decide (k ≤ l)) = j :: ls.filter (fun k => decide (k ≤ l)) :=
  List.filter_cons_of_pos (by simpa using le_of_lt ((List.pairwise_cons.1 h).1 l hl))

theorem pairAt_zip_head (j : Nat) (ls : List Nat) (x : Word) (xs : List Word) :
    pairAt ((j :: ls).zip (x :: xs)) j = x := by
  simp [pairAt]

theorem pairAt_zip_later {j l : Nat} {ls : List Nat} (h : j ≠ l) (x : Word) (xs : List Word) :
    pairAt ((j :: ls).zip (x :: xs)) l = pairAt (ls.zip xs) l := by
  simp [pairAt, h]

theorem pairAt_wredRun_some {ls : List Nat} (h : ls.Pairwise (· < ·)) (g : Nat → Word) (a : Word) (fl : Flags)
    {l : Nat} (hl : l ∈ ls) :
    pairAt (ls.zip (wredRun f env daz (some a) fl (ls.map g)).1) l =
      (((ls.filter (fun k => decide (k ≤ l))).map g).foldl (reduceStep f env daz) (a, fl)).1 := by
  induction ls generalizing a fl with
  | nil => simp at hl
  | cons j rest ih =>
    rw [List.map_cons, wredRun_some_cons]
    by_cases e : l = j
    · subst e
      rw [pairAt_zip_head, filter_le_head h]
      rfl
    · have hr : l ∈ rest := (List.mem_cons.1 hl).resolve_left e
      rw [pairAt_zip_later (Ne.symm e), filter_le_later h hr, List.map_cons, List.foldl_cons]
      exact ih (List.pairwise_cons.1 h).2 _ _ hr

theorem pairAt_wredRun {ls : List Nat} (h : ls.Pairwise (· < ·)) (g : Nat → Word) {l : Nat} (hl : l ∈ ls) :
    pairAt (ls.zip (wredRun f env daz none 0 (ls.map g)).1) l =
      (reduced f env daz ((ls.filter (fun k => decide (k ≤ l))).map g)).1 := by
  cases ls with
  | nil => simp at hl
  | cons j rest =>
    rw [List.map_cons, wredRun_none_cons]
    by_cases e : l = j
    · subst e
      rw [pairAt_zip_head, filter_le_head h]
      rfl
    · have hr : l ∈ rest := (List.mem_cons.1 hl).resolve_left e
      rw [pairAt_zip_later (Ne.symm e), filter_le_later h hr, List.map_cons, reduced_cons]
      exact pairAt_wredRun_some (List.pairwise_cons.1 h).2 g _ _ hr

end

theorem laneList_sorted (e : Lanes) : (laneList e).Pairwise (· < ·) := List.pairwise_lt_range.filter _

theorem laneList_upTo_last (e : Lanes) : (laneList e).filter (fun k => decide (k ≤ 95)) = laneList e := by
  rw [List.filter_eq_self]
  intro l hl
  have := ((mem_laneList e l).1 hl).1
  simp only [decide_eq_true_eq]
  omega

theorem laneList_zero : laneList 0#96 = [] := by simp [laneList]

/-! ### The instructions -/

section
variable {s : State} {d a f : BitVec 8}

/-- WRED's accumulator and its flags. -/
def wredOf (s : State) (a f : BitVec 8) : Word × Flags :=
  reduced f.toNat (laneEnv s.frag.fmt true) (fmtDAZ s.frag.fmt) ((laneList s.frag.exec).map fun l => readV s a.toNat l)

theorem wred_exec (h : Admitted (.wred d a f) (classByDst d) s) :
    exec (.wred d a f) s = .next (if scalarDst d then
      if dstAccepts d (wredOf s a f).1 then finishFlags (writeScalarDst s d (wredOf s a f).1) (wredOf s a f).2
      else takeTrap s 0x08 false
    else finishFlags (writeLanes s d.toNat (laneList s.frag.exec) fun _ => (wredOf s a f).1) (wredOf s a f).2) := by
  simp only [wredOf, ← wredRun_reduced, ← wredRun_reduced_flags]
  dsimp only [exec]
  exact (checked_admitted _ h).trans rfl

theorem wred_lanes (hd : d.toNat < 0x80) (h : Admitted (.wred d a f) .laneArith s) :
    endsLanes (.wred d a f) s d.toNat [] (fun _ => (wredOf s a f).1) (readRng s) (wredOf s a f).2 := by
  have hx := wred_exec (h.byDst_lanes hd)
  rw [laneDst_of hd, if_neg Bool.false_ne_true] at hx
  have ho := writeActive_outcome s d.toNat (fun _ => (wredOf s a f).1) (wredOf s a f).2
  exact ends_of_finishFlags hx rfl rfl Iff.rfl ho ho.advance

theorem wred_scalar (hd : scalarDst d = true) (h : Admitted (.wred d a f) .control s) :
    endsScalar (.wred d a f) s d [] (wredOf s a f).1 (wredOf s a f).2 := by
  have hx := wred_exec (h.byDst_scalar hd)
  rw [if_pos hd] at hx
  refine endsScalar_of_effect (r := ((wredOf s a f).1, (wredOf s a f).2, 0#32)) hd rfl rfl (fun hn => ?_)
    (fun hy => ?_)
  · rw [hx, if_neg (by simp [hn])]
  · rw [hx, if_pos hy]
    rfl

/-- WSCAN's combination over the active lanes up to lane n. -/
def wscanUpTo (s : State) (a f : BitVec 8) (n : Nat) : Word × Flags :=
  reduced f.toNat (laneEnv s.frag.fmt true) (fmtDAZ s.frag.fmt)
    (((laneList s.frag.exec).filter (fun k => decide (k ≤ n))).map (readSrc (latchClk s [a]) a))

/-- WSCAN's running combination. -/
def wscanRun (s : State) (a f : BitVec 8) : List Word × Flags :=
  wredRun f.toNat (laneEnv s.frag.fmt true) (fmtDAZ s.frag.fmt) none 0
    ((laneList s.frag.exec).map fun l => readSrc (latchClk s [a]) a l)

theorem wscanRun_flags :
    (wscanRun s a f).2 = if s.frag.exec = 0#96 then 0 else (wscanUpTo s a f 95).2 := by
  rw [wscanRun, wredRun_reduced_flags, wscanUpTo, laneList_upTo_last]
  split
  · rename_i h
    rw [h, laneList_zero]
    rfl
  · rfl

theorem wscan_exec (h : Admitted (.wscan d a f) .laneArith s) :
    exec (.wscan d a f) s = .next (finishFlags (writeLanes (latchClk s [a]) d.toNat (laneList s.frag.exec)
      (pairAt ((laneList s.frag.exec).zip (wscanRun s a f).1))) (wscanRun s a f).2) := by
  dsimp only [exec]
  rw [execWscan, checked_admitted _ h, show uniformCodes (.wscan d a f) = [] from rfl, latchClk_nil]
  simp only [latchClk_frag, wscanRun]

theorem wscan_lanes (h : Admitted (.wscan d a f) .laneArith s) :
    endsLanes (.wscan d a f) s d.toNat [a] (fun l => (wscanUpTo s a f l).1) (readRng s)
      (if s.frag.exec = 0#96 then 0 else (wscanUpTo s a f 95).2) := by
  rw [← wscanRun_flags]
  have hr : readRng (latchClk s [a]) = readRng s := by
    funext l
    simp [readRng]
  have ho := writeActive_outcome (latchClk s [a]) d.toNat (pairAt ((laneList s.frag.exec).zip (wscanRun s a f).1))
    (wscanRun s a f).2
  rw [hr, latchClk_frag] at ho
  have ho := (LaneOutcome.after_latch ho).congr fun l hl => pairAt_wredRun (laneList_sorted _) _ hl
  exact ends_of_finishFlags (wscan_exec h) (latchClk_frag s [a]) (latchClk_clk s [a]) (trapsOn_latch s [a] _) ho
    ho.advance

end

/-- Settles O10: the running combination is the one of the statement, lane by lane. -/
theorem reductions : Obligations.Reductions :=
  fun _ _ _ _ => ⟨fun hd h => wred_lanes hd h, fun hd h => wred_scalar hd h, fun h => wscan_lanes h⟩

end Sys2Proof.Machine
end

section
/-! Compares, mask operations and mask moves (R69, R233 to R237). -/

namespace Sys2Proof.Machine

/-! ### Mask outcomes -/

theorem commitFlags_zero (s : State) : commitFlags s 0 = s := by
  simp [commitFlags]

theorem maskOutcome_advance {s t : State} {k : Nat} {cs : List (BitVec 8)} {x : Lanes} {fl : Flags}
    (h : MaskOutcome s t k cs x fl) : MaskOutcome s (advance t) k cs x fl :=
  ⟨h.kept.trans (advance_kept t), h.lanes, h.scalars, h.masks, h.gens, h.written, h.flags, h.clock⟩

theorem maskOutcome_after_latch {s t : State} {k : Nat} {cs : List (BitVec 8)} {x : Lanes} {fl : Flags}
    (h : MaskOutcome (latchClk s cs) t k [] x fl) : MaskOutcome s t k cs x fl := by
  obtain ⟨h1, h2, h3, h4, h5, h6, h7, h8⟩ := h
  refine ⟨h1.after_latch, ?_, ?_, ?_, ?_, ?_, ?_, h8.after_latch⟩
  · simpa [SameLanes, laneReg] using h2
  · simpa [SameScalars, scalarReg] using h3
  · simpa [SameMasks] using h4
  · simpa [SameGenerators, readRng] using h5
  · simpa using h6
  · simpa using h7

theorem writeM_outcome (s : State) (k : Nat) (x : Lanes) (fl : Flags) :
    MaskOutcome s (commitFlags (writeM s k x) fl) k [] x fl := by
  have hm : ∀ j, readM (commitFlags (writeM s k x) fl) j =
      if j = k then (x &&& s.frag.lanes) ||| (readM s k &&& ~~~ s.frag.lanes) else readM s j :=
    fun j => writeM_mask s k x j
  refine ⟨(writeM_kept s k x).trans (commitFlags_kept _ _), fun _ _ _ _ => rfl, fun _ _ => rfl, fun j hj => ?_,
    fun _ => rfl, ?_, rfl, rfl⟩
  · rw [hm, if_neg (by simpa using hj)]
  · rw [hm, if_pos rfl]

theorem writeM_advance_outcome {i : Instr} {s : State} {codes : List (BitVec 8)} {k : Nat} {x : Lanes}
    (hx : exec i s = .next (advance (writeM (latchClk s codes) k x))) : writesMask i s k codes x 0 := by
  have ho := maskOutcome_after_latch (maskOutcome_advance (writeM_outcome (latchClk s codes) k x 0))
  rw [commitFlags_zero] at ho
  exact ⟨_, hx, ho, by simp [GoesOn]⟩

/-! ### Compares (R233 to R235) -/

theorem compareWords_signed (c : Nat) (x y : Word) :
    compareWords (fun x y => x.slt y) c x y = condHolds c x.toInt y.toInt := by
  have lt : ∀ x y : Word, x.slt y = decide (x.toInt < y.toInt) := fun _ _ => rfl
  have eq : (x == y) = decide (x.toInt = y.toInt) := by
    rw [Bool.beq_eq_decide_eq, decide_eq_decide, BitVec.toInt_inj]
  match c with
  | 0 => exact eq
  | 1 => simp only [compareWords, condHolds, bne, eq, decide_not, ne_eq]
  | 2 => exact lt x y
  | 3 => simp only [compareWords, condHolds, lt, ← decide_not, not_lt]
  | 4 => exact lt y x
  | _ + 5 => simp only [compareWords, condHolds, lt, ← decide_not, not_lt]

theorem compareWords_unsigned (c : Nat) (x y : Word) :
    compareWords (fun x y => x.ult y) c x y = condHolds c x.toNat y.toNat := by
  have lt : ∀ x y : Word, x.ult y = decide ((x.toNat : Int) < y.toNat) := fun x y => by
    rw [BitVec.ult, decide_eq_decide, Int.ofNat_lt]
  have eq : (x == y) = decide ((x.toNat : Int) = y.toNat) := by
    rw [Bool.beq_eq_decide_eq, decide_eq_decide, Int.ofNat_inj, BitVec.toNat_inj]
  match c with
  | 0 => exact eq
  | 1 => simp only [compareWords, condHolds, bne, eq, decide_not, ne_eq]
  | 2 => exact lt x y
  | 3 => simp only [compareWords, condHolds, lt, ← decide_not, not_lt]
  | 4 => exact lt y x
  | _ + 5 => simp only [compareWords, condHolds, lt, ← decide_not, not_lt]

theorem activeWhere_eq {s t : State} {p : Nat → Bool} {q : Nat → Prop} [DecidablePred q]
    (he : t.frag.exec = s.frag.exec) (hp : ∀ l, p l = decide (q l)) : activeWhere t p = activeThat s q := by
  rw [activeWhere, activeThat, he, funext hp]

/-- An integer compare writes the active lanes that satisfy its condition. -/
theorem cmpInt_writesMask {i : Instr} {s : State} {m : BitVec 3} {a b : BitVec 8} {f : Word → Word → Bool}
    {q : Nat → Prop} [DecidablePred q] (h : Admitted i .control s) (hu : uniformCodes i = [])
    (hx : exec i s = cmpInt i m a b s f)
    (hq : ∀ l, f (readSrc (latchClk s [a, b]) a l) (readSrc (latchClk s [a, b]) b l) = decide (q l)) :
    ∃ t, exec i s = .next t ∧ GoesOn s t ∧ MaskOutcome s t m.toNat [a, b] (activeThat s q) 0 := by
  have he : activeWhere (latchClk s [a, b]) _ = activeThat s q := activeWhere_eq (by rw [latchClk_frag]) hq
  rw [cmpInt, checked_admitted _ h, hu, latchClk_nil] at hx
  dsimp only at hx
  rw [he] at hx
  obtain ⟨t, ht, ho, hg⟩ := writeM_advance_outcome hx
  exact ⟨t, ht, hg, ho⟩

theorem test_bit (c : BitVec 5) (x : Word) :
    (if c.toNat == 0 then x != 0#32 else x == 0#32) = decide (c.toNat = 0 ↔ x ≠ 0#32) := by
  by_cases hc : c.toNat = 0 <;> by_cases hx : x = 0#32 <;> simp [hc, hx]

theorem compareMasks_holds : compareMasks := by
  refine fun s m c a b => ⟨fun h => ?_, fun h => ?_, fun h => ?_⟩
  · exact cmpInt_writesMask (f := compareWords (fun x y => x.slt y) c.toNat) h rfl rfl fun l => by
      rw [compareWords_signed, Bool.decide_eq_true]
  · exact cmpInt_writesMask (f := compareWords (fun x y => x.ult y) c.toNat) h rfl rfl fun l => by
      rw [compareWords_unsigned, Bool.decide_eq_true]
  · exact cmpInt_writesMask (f := fun x y => if c.toNat == 0 then (x &&& y) != 0#32 else (x &&& y) == 0#32) h rfl rfl
      fun l => test_bit c _

theorem floatCompares_holds : floatCompares := by
  intro s m c a b h u rd fl x
  have hx : exec (.cmpF32 m c a b) s = .next (finishFlags (writeM u m.toNat x) fl) := by
    dsimp only [exec]
    rw [execCmpF32, checked_admitted _ h, show uniformCodes (.cmpF32 m c a b) = [] from rfl, latchClk_nil]
    simp only [latchClk_frag, fl, rd, u, x]
    rw [activeWhere_eq (s := s) (by rw [latchClk_frag]) fun _ => Bool.decide_eq_true.symm]
  have ho := (writeM_outcome u m.toNat x fl)
  obtain ⟨hq, ht⟩ := ends_of_finishFlags (p := fun t => MaskOutcome s t m.toNat [a, b] x fl) hx
    (latchClk_frag s [a, b]) (latchClk_clk s [a, b])
    (trapsOn_latch s [a, b] fl) (maskOutcome_after_latch ho)
    (maskOutcome_after_latch (maskOutcome_advance ho))
  refine ⟨fun h => ?_, ht⟩
  obtain ⟨t, hx, ho, hg⟩ := hq h
  exact ⟨t, hx, hg, ho⟩

/-- Settles O12: each compare writes the mask of the active lanes that satisfy it. -/
theorem comparisons : Obligations.Comparisons := ⟨compareMasks_holds, floatCompares_holds⟩

/-! ### MOP and MMOV (R236, R237) -/

theorem readSel_named (s : State) (k : BitVec 8) : readSel s k.toNat = maskNamed s k := by
  simp [readSel, maskNamed]

theorem maskOp_eq (c : Nat) (x y : Lanes) :
    maskOp c x y = match c with
      | 0 => x &&& y
      | 1 => x ||| y
      | 2 => x ^^^ y
      | 3 => x &&& ~~~ y
      | 4 => ~~~ x
      | _ => x := by
  match c with
  | 0 | 1 | 2 | 3 | 4 => rfl
  | _ + 5 => rfl

theorem laneCountOf_eq (x : Lanes) : laneCountOf x = (List.range 96).countP fun l => x.getLsbD l :=
  List.countP_eq_length_filter.symm

theorem laneList_head (x : Lanes) :
    (laneList x).headD laneCount = ((List.range 96).find? fun l => x.getLsbD l).getD 96 := by
  rw [laneList, laneCount, ← List.head?_filter, List.headD_eq_head?_getD]

/-- Scalar registers written, and the fragment gone on. -/
theorem writesSRegs_of {i : Instr} {s t : State} {xs : List (Nat × Word)} (hx : exec i s = .next (advance t))
    (hk : Kept s t) (hf : t.frag = s.frag) (hv : t.wave.v = s.wave.v) (hm : t.wave.m = s.wave.m)
    (hg : t.wave.rng = s.wave.rng) (hfl : t.wave.flg = s.wave.flg) (hc : t.wave.clkHi = s.wave.clkHi)
    (hs : ∀ r, r ∉ xs.map Prod.fst → scalarReg t r = scalarReg s r) (hw : ∀ p ∈ xs, scalarReg t p.1 = p.2) :
    writesSRegs i s xs := by
  refine ⟨_, hx, hk.trans (advance_kept t), ?_, hs, ?_, ?_, hfl, hc, ?_, hw⟩
  · simp [SameLanes, laneReg, hv]
  · simp [SameMasks, readM, hm]
  · simp [SameGenerators, readRng, hg]
  · simp [GoesOn, hf, hk.outside.2.2.1]

theorem writesSRegs_one {i : Instr} {s : State} {r : Nat} {x : Word}
    (hx : exec i s = .next (advance (writeS s r x))) : writesSRegs i s [(r, x)] := by
  refine writesSRegs_of hx (writeS_kept s r x) rfl rfl rfl rfl rfl rfl (fun j hj => ?_) ?_
  · rw [writeS_reg, if_neg (by simpa using hj)]
  · simp [writeS_reg]

theorem writesSRegs_three {i : Instr} {s : State} {r : Nat} {x y z : Word}
    (hx : exec i s = .next (advance (writeS (writeS (writeS s r x) (r + 1) y) (r + 2) z))) :
    writesSRegs i s [(r, x), (r + 1, y), (r + 2, z)] := by
  refine writesSRegs_of hx ?_ rfl rfl rfl rfl rfl rfl (fun j hj => ?_) ?_
  · exact (writeS_kept _ _ _).trans ((writeS_kept _ _ _).trans (writeS_kept _ _ _))
  · simp only [List.map_cons, List.map_nil, List.mem_cons, List.not_mem_nil, or_false, not_or] at hj
    obtain ⟨h0, h1, h2⟩ := hj
    rw [writeS_reg, writeS_reg, writeS_reg, if_neg h2, if_neg h1, if_neg h0]
  · simp [writeS_reg]

theorem mmov_uniformCodes (m : BitVec 3) (c : BitVec 5) (a b : BitVec 8) : uniformCodes (.mmov m c a b) = [] := by
  dsimp only [uniformCodes, operands]
  unfold mmovOpds
  split <;> rfl

/-- The fragment gone on with another EXEC is the one gone on, but for EXEC. -/
theorem pastParcels_execBack (f : Frag) (e : Lanes) (n clk : Nat) :
    { pastParcels { f with exec := e } n clk with exec := f.exec } = pastParcels f n clk := by
  unfold pastParcels
  dsimp only
  split <;> rfl

/-- Settles O13: the value written is the model's own, named by its selector. -/
theorem maskMoves : Obligations.MaskMoves := by
  refine fun s m c a b => ⟨fun h => ?_, fun h => ?_⟩
  · have hx : exec (.mop m c a b) s =
        .next (advance (writeM (latchClk s []) m.toNat (maskOp c.toNat (maskNamed s a) (maskNamed s b)))) := by
      rw [← readSel_named, ← readSel_named]
      dsimp only [exec]
      exact (checked_admitted _ h).trans rfl
    rw [maskOp_eq] at hx
    exact writeM_advance_outcome hx
  · have hx : exec (.mmov m c a b) s = execMmov m c a b s := rfl
    rw [execMmov, checked_admitted _ h, mmov_uniformCodes, latchClk_nil] at hx
    refine ⟨fun hc => ?_, fun hc => ?_, fun hc => ?_, fun hc => ?_, fun hc => ?_, fun hc => ?_⟩ <;>
      simp only [hc] at hx
    · rw [readSel_named] at hx
      exact writeM_advance_outcome (codes := []) hx
    · rw [readSel_named] at hx
      refine ⟨_, hx, rfl, rfl, rfl, by simp [writeExec], ?_⟩
      exact pastParcels_execBack s.frag (maskNamed s a &&& s.frag.lanes) (curParcels s.frag) s.clk
    · exact writesSRegs_three hx
    · exact writeM_advance_outcome (codes := []) hx
    · rw [laneCountOf_eq] at hx
      exact writesSRegs_one hx
    · rw [laneList_head] at hx
      exact writesSRegs_one hx

end Sys2Proof.Machine
end

section
/-! Branches, calls and jumps, and the check of their targets (R48, R70, R239, R240, R242). -/

namespace Sys2Proof.Machine

/-! ### Targets -/

theorem branchTarget_eq (s : State) (o : BitVec 20) : branchTarget s.frag o = offTarget s o := by
  have h : o.signExtend 64 <<< 2 = BitVec.ofInt 64 (4 * o.toInt) := by
    rw [BitVec.signExtend, BitVec.shiftLeft_eq_mul_twoPow, mul_comm 4, BitVec.ofInt_mul]
    rfl
  rw [branchTarget, offTarget, h]

theorem low_bits_zero (a : DWord) : a.extractLsb' 0 2 = 0#2 ↔ a.toNat % 4 = 0 := by
  rw [← BitVec.toNat_inj, BitVec.extractLsb'_toNat]
  rfl

theorem targetTrap_good {a : DWord} (h : goodTarget a) : targetTrap a = none := by
  simp [targetTrap, low_bits_zero, h.1, h.2]

theorem targetTrap_bad {a : DWord} (h : ¬ goodTarget a) : targetTrap a = some (targetCause a) := by
  by_cases h4 : a.toNat % 4 = 0
  · have hc : canonical a = false := Bool.not_eq_true _ ▸ fun hc => h ⟨h4, hc⟩
    simp [targetTrap, targetCause, low_bits_zero, h4, hc]
  · simp [targetTrap, targetCause, low_bits_zero, h4]

theorem withTarget_good {a : DWord} (h : goodTarget a) (s k : State) : withTarget s a k = k := by
  rw [withTarget, targetTrap_good h]

theorem withTarget_bad {a : DWord} (h : ¬ goodTarget a) (s k : State) :
    withTarget s a k = takeTrap s (targetCause a) false := by
  rw [withTarget, targetTrap_bad h]

theorem transfers {i : Instr} {s k : State} {a : DWord} (hg : goodTarget a)
    (hx : exec i s = .next (withTarget s a k)) : exec i s = .next k := by
  rwa [withTarget_good hg] at hx

theorem targetTraps {i : Instr} {s k : State} {a : DWord} (hb : ¬ goodTarget a)
    (hx : exec i s = .next (withTarget s a k)) : exec i s = .next (takeTrap s (targetCause a) false) := by
  rwa [withTarget_bad hb] at hx

/-! ### The instructions -/

section
variable {s : State} {m : BitVec 3} {o : BitVec 20} {a : BitVec 8}

theorem bra_exec (h : Admitted (.bra o) .control s) :
    exec (.bra o) s = .next (withTarget s (offTarget s o) (jump s (offTarget s o))) := by
  rw [← branchTarget_eq]
  dsimp only [exec]
  exact (checked_admitted _ h).trans rfl

theorem brany_exec (h : Admitted (.brany m o) .control s) :
    exec (.brany m o) s = .next (withTarget s (offTarget s o)
      (jump s (if s.frag.exec &&& readM s m.toNat = 0#96 then nextClause s.frag else offTarget s o))) := by
  rw [← branchTarget_eq]
  dsimp only [exec]
  refine (checked_admitted _ h).trans ?_
  rw [show uniformCodes (.brany m o) = [] from rfl, latchClk_nil]
  by_cases hc : s.frag.exec &&& readM s m.toNat = 0#96 <;> simp [hc]

/-- Every lane of EXEC has its bit set when none of EXEC has it clear. -/
theorem and_eq_left_iff (e x : Lanes) : e &&& x = e ↔ e &&& ~~~ x = 0#96 := by
  constructor <;> intro h <;> ext i hi <;> have := congrArg (fun y => y.getLsbD i) h <;>
    simp [hi] at this ⊢
  · exact this
  · exact this

theorem brall_exec (h : Admitted (.brall m o) .control s) :
    exec (.brall m o) s = .next (withTarget s (offTarget s o)
      (jump s (if s.frag.exec &&& ~~~ readM s m.toNat = 0#96 then offTarget s o else nextClause s.frag))) := by
  rw [← branchTarget_eq]
  dsimp only [exec]
  refine (checked_admitted _ h).trans ?_
  rw [show uniformCodes (.brall m o) = [] from rfl, latchClk_nil]
  by_cases hc : s.frag.exec &&& ~~~ readM s m.toNat = 0#96 <;> simp [hc, and_eq_left_iff]

theorem call_exec (h : Admitted (.call o) .control s) (h64 : s.crew.sregs = 64) :
    exec (.call o) s = .next (withTarget s (offTarget s o)
      (jump (writeS64 s 62 (nextClause s.frag)) (offTarget s o))) := by
  rw [← branchTarget_eq]
  dsimp only [exec]
  refine (checked_admitted _ h).trans ?_
  rw [show uniformCodes (.call o) = [] from rfl, latchClk_nil]
  simp [h64]

theorem jmpr_exec (h : Admitted (.ctlJmpr a) .control s) :
    exec (.ctlJmpr a) s = .next (withTarget s (readS64 s (a.toNat - 0x80)) (jump s (readS64 s (a.toNat - 0x80)))) := by
  dsimp only [exec]
  exact (checked_admitted _ h).trans rfl

theorem brs_badTarget (h : Admitted (.brs m o) .control s) (hb : ¬ goodTarget (offTarget s o)) :
    exec (.brs m o) s = .next (takeTrap s (targetCause (offTarget s o)) false) := by
  have hx : exec (.brs m o) s = execBrs m o s := rfl
  rw [execBrs, checked_admitted _ h, show uniformCodes (.brs m o) = [] from rfl, latchClk_nil] at hx
  dsimp only at hx
  rwa [branchTarget_eq, withTarget_bad hb] at hx

/-- CALL's outcome: the link in s62:s63, the fragment at the target. -/
theorem call_outcome (s : State) (x a : DWord) :
    let t := jump (writeS64 s 62 x) a
    Kept s t ∧ SameLanes s t [] ∧ SameScalars s t [62, 63] ∧ SameMasks s t [] ∧ SameGenerators s t ∧
      t.wave.flg = s.wave.flg ∧ t.wave.clkHi = s.wave.clkHi ∧ t.frag = gotoClause s.frag a s.clk ∧
      scalarReg t 62 = x.extractLsb' 0 32 ∧ scalarReg t 63 = x.extractLsb' 32 32 := by
  intro t
  have hreg : ∀ r, scalarReg t r = _ := writeS64_reg s 62 x
  refine ⟨(writeS64_kept s 62 x).trans ⟨rfl, fun _ => rfl, ⟨rfl, rfl, rfl, rfl⟩, rfl, rfl, rfl⟩, ?_, fun r hr => ?_, ?_,
    ?_, ?_, ?_, ?_, ?_, ?_⟩
  · simp [SameLanes, laneReg, writeS64, t]
  · simp only [List.mem_cons, List.not_mem_nil, or_false, not_or] at hr
    rw [hreg, if_neg hr.2, if_neg hr.1]
  · simp [SameMasks, readM, writeS64, t]
  · simp [SameGenerators, readRng, writeS64, t]
  · simp [writeS64, t]
  · simp [writeS64, t]
  · simp [writeS64, t]
  · rw [hreg, if_neg (by omega), if_pos rfl]
  · rw [hreg, if_pos rfl]

end

theorem branches_holds : branches := by
  refine fun s m o a => ⟨fun hg => ⟨fun h => ?_, fun h => ?_, fun h => ?_, fun h h64 => ?_⟩, fun h hg => ?_⟩
  · exact transfers hg (bra_exec h)
  · exact transfers hg (brany_exec h)
  · exact transfers hg (brall_exec h)
  · exact ⟨_, transfers hg (call_exec h h64), call_outcome s _ _⟩
  · exact transfers hg (jmpr_exec h)

theorem branchTargetsChecked_holds : branchTargetsChecked := by
  refine fun s m o a => ⟨fun hb => ⟨fun i hi h => ?_, fun h h64 => ?_⟩, fun h hb => ?_⟩
  · simp only [List.mem_cons, List.not_mem_nil, or_false] at hi
    rcases hi with rfl | rfl | rfl | rfl
    · exact targetTraps hb (bra_exec h)
    · exact targetTraps hb (brany_exec h)
    · exact targetTraps hb (brall_exec h)
    · exact brs_badTarget h hb
  · exact targetTraps hb (call_exec h h64)
  · exact targetTraps hb (jmpr_exec h)

/-- Settles O14: each transfer checks its target, and then goes where its condition says. -/
theorem branchesTaken : Obligations.BranchesTaken := ⟨branches_holds, branchTargetsChecked_holds⟩

end Sys2Proof.Machine
end

section
/-! LIT, the beginning of a clause, and the join records (R45, R47, R49, R63, R64, R186, R187, R189, R191, R192). -/

namespace Sys2Proof.Machine

/-! ### LIT (R63, R64) -/

theorem litJoin_first (parcel : Nat) (x : BitVec 24) :
    litJoin none parcel x = ⟨BitVec.ofInt 64 x.toInt, parcel, 1⟩ := rfl

theorem litJoin_next (y : Literal) (parcel : Nat) (x : BitVec 24) :
    litJoin (some y) parcel x =
      ⟨BitVec.ofInt 64 (x.toInt * 2 ^ 24 + y.value.toNat % 2 ^ 24), y.first, y.words + 1⟩ := by
  have h : (x ++ y.value.extractLsb' 0 24 : BitVec 48).toInt = x.toInt * 2 ^ 24 + y.value.toNat % 2 ^ 24 := by
    rw [BitVec.toInt_append, BitVec.extractLsb'_toNat, Nat.shiftRight_zero, mul_comm]
    norm_num
  rw [litJoin, BitVec.signExtend, h]

theorem literals_holds : literals := by
  refine fun s x => ⟨fun hn => ⟨fun hok => ?_, fun hbad => ?_⟩, fun y hy => ?_⟩ <;> dsimp only [exec, execLit]
  · simp [hn, hok, litJoin_first]
  · simp [hn, hbad]
  · simp [hy, litJoin_next]

/-! ### The beginning of a clause (R47, R49, R191, R192) -/

/-- The fragment in focus with the clause it has fetched. -/
def latchedWith (s : State) (d : Dev) (h : Header) (body : List Parcel) : State :=
  { s with dev := d, frag := { s.frag with hdr := h, body := body, latched := true, status := .ready } }

section
variable {s : State} {d : Dev} {h : Header} {body : List Parcel}

@[simp] theorem latchedWith_hdr : (latchedWith s d h body).frag.hdr = h := rfl
@[simp] theorem latchedWith_body : (latchedWith s d h body).frag.body = body := rfl
@[simp] theorem latchedWith_trapMode : (latchedWith s d h body).frag.trapMode = s.frag.trapMode := rfl
@[simp] theorem latchedWith_clause : (latchedWith s d h body).frag.clause = s.frag.clause := rfl
@[simp] theorem latchedWith_wave : (latchedWith s d h body).wave = s.wave := rfl
@[simp] theorem latchedWith_crew : (latchedWith s d h body).crew = s.crew := rfl
@[simp] theorem latchedWith_innerJoin : innerJoin (latchedWith s d h body) = innerJoin s := rfl

theorem clauseBegin_exec (ha : s.frag.after = false) (hl : s.frag.latched = false)
    (hf : fetchClause s.dev (fragAsker s) s.crew.ctx s.wave.fetchMark s.nfree s.frag.clause.toNat =
      (.clause h body, d)) :
    exec .clauseBegin s = .next (beginFetched (latchedWith s d h body)) := by
  have hx : exec .clauseBegin s = execClauseBegin s := rfl
  rw [hx, execClauseBegin, ha, hl, withClause, hf]
  rfl

theorem beginFetched_illegal (hs : structureOk h body = false) :
    beginFetched (latchedWith s d h body) = takeTrap (latchedWith s d h body) 0x09 false := by
  simp [beginFetched, hs]

/-- Away from its innermost join record, or in trap mode, the clause comes to its WAIT. -/
theorem beginFetched_waits (hs : structureOk h body = true)
    (hj : s.frag.trapMode = true ∨ ∀ p, innerJoin s = some p → p.2 ≠ s.frag.clause) :
    beginFetched (latchedWith s d h body) = testWait (latchedWith s d h body) := by
  rw [beginFetched, latchedWith_innerJoin]
  cases hp : innerJoin s with
  | none => simp [hs]
  | some p =>
    have hc : s.frag.trapMode = true ∨ ¬ p.2 = s.frag.clause := hj.imp_right fun hj => hj p hp
    rcases hc with hc | hc <;> simp [hs, hc]

/-- At its innermost join record's address a fragment outside trap mode enters Joining, if the clause may be so begun. -/
theorem beginFetched_join {id : Nat} (hs : structureOk h body = true) (ht : s.frag.trapMode = false)
    (hi : innerJoin s = some (id, s.frag.clause)) :
    beginFetched (latchedWith s d h body) =
      if h.rcv then enterJoin (latchedWith s d h body) id else takeTrap (latchedWith s d h body) 0x09 false := by
  cases hr : h.rcv <;> simp [beginFetched, hi, hs, ht, hr]

theorem waitClear_iff (w : Wave) (h : Header) :
    waitClear w h = true ↔ ∀ k, k < 12 → h.wait.getLsbD k = true → flagOf w k = 0 := by
  simp only [waitClear, inWait, List.all_eq_true, List.mem_range, Bool.or_eq_true, Bool.not_eq_true', beq_iff_eq]
  exact forall₂_congr fun k _ => by cases h.wait.getLsbD k <;> simp

/-- No late trap waits for the fragment: it begins, or waits. -/
theorem testWait_latched (hl : s.frag.trapMode = true ∨ lateOp s.crew.ops s.wave.idx (inWait h) = none) :
    testWait (latchedWith s d h body) =
      if waitClear s.wave h then enterClause (latchedWith s d h body)
      else { latchedWith s d h body with frag := { (latchedWith s d h body).frag with
        resume := .fresh
        status := if h.yld && !waitsUnrecorded s.crew s.wave.idx h then .yielded else .waiting } } := by
  rcases hl with hl | hl <;> simp [testWait, hl]

end

theorem clauseBegins_holds : clauseBegins := by
  intro s h body d ha hl hf u
  have hx := clauseBegin_exec ha hl hf
  refine ⟨fun hs => ?_, fun hs hj => ?_, fun hs ht id hi hr => ?_⟩
  · rw [hx, beginFetched_illegal hs]
    rfl
  · rw [beginFetched_waits hs (hj.imp_right And.left), testWait_latched (hj.imp_right And.right)] at hx
    refine ⟨fun hw => ?_, fun ⟨k, hk, hb, hn⟩ => ?_⟩
    · rw [hx, if_pos ((waitClear_iff _ _).2 hw)]
      rfl
    · rw [hx, if_neg fun hw => hn ((waitClear_iff _ _).1 hw k hk hb)]
      rfl
  · rw [hx, beginFetched_join hs ht hi, hr]
    rfl

/-! ### The split table given back (R190) -/

/-- Only the places taken in the park area have changed. -/
def SameButAllocs (c c' : Crew) : Prop := c' = { c with allocs := c'.allocs }

theorem SameButAllocs.trans {c c' c'' : Crew} (h : SameButAllocs c c') (h' : SameButAllocs c' c'') :
    SameButAllocs c c'' := by
  unfold SameButAllocs at *
  rw [h', h]

theorem parkFree_foldl (os : List Nat) (c : Crew) : SameButAllocs c (os.foldl parkFree c) := by
  induction os generalizing c with
  | nil => rfl
  | cons o os ih => exact SameButAllocs.trans (c' := parkFree c o) rfl (ih _)

theorem parkAlloc_same {c c' : Crew} {size o : Nat} (h : parkAlloc c size = some (o, c')) : SameButAllocs c c' := by
  unfold parkAlloc at h
  split at h
  · cases h
    rfl
  · cases h

theorem parkAllocMany_same {size n : Nat} {c c' : Crew} {os : List Nat} (h : parkAllocMany size n c = some (os, c')) :
    SameButAllocs c c' := by
  induction n generalizing c os with
  | zero =>
    cases h
    rfl
  | succ n ih =>
    rw [parkAllocMany] at h
    split at h
    · cases h
    · rename_i ha
      split at h
      · cases h
      · rename_i hm
        cases h
        exact (parkAlloc_same ha).trans (ih hm)

/-- Only the lists of spilled entries have changed. -/
def SameButSpills (w w' : Wave) : Prop := w' = { w with fspill := w'.fspill, jspill := w'.jspill }

theorem splitRoom_same {c c' : Crew} {w w' : Wave} {nf nj : Nat} (h : splitRoom c w nf nj = some (c', w')) :
    SameButAllocs c c' ∧ SameButSpills w w' := by
  unfold splitRoom at h
  dsimp only at h
  split at h
  · cases h
  · rename_i hf
    split at h
    · cases h
    · rename_i hj
      cases h
      exact ⟨((parkFree_foldl _ c).trans (parkFree_foldl _ _)).trans
        ((parkAllocMany_same hf).trans (parkAllocMany_same hj)), rfl⟩

theorem splitShrink_same (c : Crew) (w : Wave) (nf nj : Nat) :
    SameButAllocs c (splitShrink c w nf nj).1 ∧ SameButSpills w (splitShrink c w nf nj).2 := by
  unfold splitShrink
  cases h : splitRoom c w nf nj with
  | none => exact ⟨rfl, rfl⟩
  | some p => exact splitRoom_same h

/-! ### Joining and fusion (R186, R187) -/

theorem insertFrag_perm (f : Frag) (l : List Frag) : (insertFrag f l).Perm (f :: l) := by
  induction l with
  | nil => rfl
  | cons g rest ih =>
    rw [insertFrag]
    split
    · rfl
    · exact (ih.cons g).trans (List.Perm.swap _ _ _)

theorem insertFrag_filter {p : Frag → Bool} {f : Frag} (hp : p f = false) (l : List Frag) :
    (insertFrag f l).filter p = l.filter p := by
  induction l with
  | nil => simp [insertFrag, hp]
  | cons g rest ih =>
    rw [insertFrag]
    split
    · rw [List.filter_cons_of_neg (by simp [hp])]
    · rw [List.filter_cons, List.filter_cons, ih]

theorem joiners_insert {f : Frag} {id : Nat} (hs : f.status = .joining) (hj : f.join = some id) (l : List Frag) :
    (joiners (insertFrag f l) id).Perm (f :: joiners l id) := by
  have := (insertFrag_perm f l).filter fun f => f.status == .joining && f.join == some id
  rwa [List.filter_cons_of_pos (by simp [hs, hj])] at this

/-- The order in which lane sets are united does not count. -/
theorem foldl_or_perm {g : Frag → Lanes} {l l' : List Frag} (h : l.Perm l') (a : Lanes) :
    l.foldl (fun a f => a ||| g f) a = l'.foldl (fun a f => a ||| g f) a :=
  h.foldl_eq (rcomm := ⟨fun a x y => by ac_rfl⟩) a

theorem foldl_or_joiners {g : Frag → Lanes} {f : Frag} {id : Nat} (hs : f.status = .joining) (hj : f.join = some id)
    (l : List Frag) :
    (joiners (insertFrag f l) id).foldl (fun a f => a ||| g f) 0#96 =
      (joiners l id).foldl (fun a f => a ||| g f) (g f) := by
  rw [foldl_or_perm (joiners_insert hs hj l), List.foldl_cons, BitVec.zero_or]

theorem foldl_min_eq_min? {xs : List Nat} (h : xs ≠ []) : some (xs.foldl min (xs.getD 0 0)) = xs.min? := by
  cases xs with
  | nil => exact absurd rfl h
  | cons x xs => rw [List.min?_cons', List.foldl_cons, List.getD_cons_zero, min_self]

theorem min?_perm {xs ys : List Nat} (h : xs.Perm ys) : xs.min? = ys.min? := by
  cases hy : ys.min? with
  | none => rw [List.min?_eq_none_iff] at hy ⊢; exact (hy ▸ h).eq_nil
  | some m =>
    rw [List.min?_eq_some_iff] at hy ⊢
    exact ⟨h.mem_iff.2 hy.1, fun b hb => hy.2 b (h.mem_iff.1 hb)⟩

/-- The oldest of the Joining fragments. -/
theorem oldest_joiner {f : Frag} {id : Nat} (hs : f.status = .joining) (hj : f.join = some id) (l : List Frag) :
    ((joiners (insertFrag f l) id).map Frag.age).foldl min (((joiners (insertFrag f l) id).map Frag.age).getD 0 0) =
      (joiners l id).foldl (fun a f => min a f.age) f.age := by
  have hp := (joiners_insert hs hj l).map Frag.age
  have hne : (joiners (insertFrag f l) id).map Frag.age ≠ [] := fun h => by simp [h] at hp
  have h := foldl_min_eq_min? hne
  rw [min?_perm hp, List.map_cons, List.min?_cons'] at h
  rw [Option.some.inj h, List.foldl_map]

/-- The fragment as it enters Joining. -/
def nowJoining (f : Frag) : Frag := { f with status := .joining }

@[simp] theorem nowJoining_join (f : Frag) : (nowJoining f).join = f.join := rfl
@[simp] theorem nowJoining_status (f : Frag) : (nowJoining f).status = .joining := rfl

/-- The wave without a join record and the fragments Joining at it. -/
def withoutJoin (w : Wave) (id : Nat) : Wave :=
  { w with
    frags := w.frags.filter (fun f => !(f.status == .joining && f.join == some id))
    joins := w.joins.filter (fun k => k.id != id) }

section
variable {s : State} {id : Nat} {j : JoinRec}

theorem fuseAt_incomplete (hj : findJoin s.wave id = some j) (hf : s.frag.join = some id)
    (hl : (joiners s.wave.frags id).foldl (fun a f => a ||| f.lanes) s.frag.lanes ≠ j.lanes) :
    fuseAt { s.wave with frags := insertFrag (nowJoining s.frag) s.wave.frags } id = none := by
  have hj' : findJoin { s.wave with frags := insertFrag (nowJoining s.frag) s.wave.frags } id = some j := hj
  have hu : unionLanes (joiners (insertFrag (nowJoining s.frag) s.wave.frags) id) ≠ j.lanes := by
    rw [unionLanes, foldl_or_joiners (f := nowJoining s.frag) (g := Frag.lanes) rfl hf]
    exact hl
  simp [fuseAt, hj', hu]

theorem fuseAt_complete (hj : findJoin s.wave id = some j) (hf : s.frag.join = some id)
    (hl : (joiners s.wave.frags id).foldl (fun a f => a ||| f.lanes) s.frag.lanes = j.lanes) :
    fuseAt { s.wave with frags := insertFrag (nowJoining s.frag) s.wave.frags } id =
      some (fusedFrag j (joiners (insertFrag (nowJoining s.frag) s.wave.frags) id), withoutJoin s.wave id) := by
  have hj' : findJoin { s.wave with frags := insertFrag (nowJoining s.frag) s.wave.frags } id = some j := hj
  have hu : unionLanes (joiners (insertFrag (nowJoining s.frag) s.wave.frags) id) = j.lanes := by
    rw [unionLanes, foldl_or_joiners (f := nowJoining s.frag) (g := Frag.lanes) rfl hf]
    exact hl
  have hne : joiners (insertFrag (nowJoining s.frag) s.wave.frags) id ≠ [] := fun h => by
    have := joiners_insert (f := nowJoining s.frag) rfl hf s.wave.frags
    simp [h] at this
  have hrest := insertFrag_filter (p := fun f => !(f.status == .joining && f.join == some id))
    (f := nowJoining s.frag) (by simp [hf]) s.wave.frags
  simp only [fuseAt, hj', hrest]
  rw [if_neg (by simp [hu, hne]), withoutJoin]

theorem enterJoin_waits (hj : findJoin s.wave id = some j) (hf : s.frag.join = some id)
    (hl : (joiners s.wave.frags id).foldl (fun a f => a ||| f.lanes) s.frag.lanes ≠ j.lanes) :
    enterJoin s id = { s with frag := nowJoining s.frag } := by
  have hx := fuseAt_incomplete hj hf hl
  simp only [nowJoining] at hx ⊢
  simp only [enterJoin, hx]

/-- The fragment that a complete set of Joining fragments becomes stands in focus. -/
theorem enterJoin_fuses (hj : findJoin s.wave id = some j) (hf : s.frag.join = some id)
    (hl : (joiners s.wave.frags id).foldl (fun a f => a ||| f.lanes) s.frag.lanes = j.lanes) :
    ∃ c w, SameButAllocs s.crew c ∧ SameButSpills (withoutJoin s.wave id) w ∧
      enterJoin s id =
        { s with crew := c, wave := w,
                 frag := fusedFrag j (joiners (insertFrag (nowJoining s.frag) s.wave.frags) id) } := by
  have hx := fuseAt_complete hj hf hl
  obtain ⟨hc, hw⟩ := splitShrink_same s.crew (withoutJoin s.wave id) ((withoutJoin s.wave id).frags.length + 1)
    (withoutJoin s.wave id).joins.length
  refine ⟨_, _, hc, hw, ?_⟩
  simp only [nowJoining] at hx ⊢
  simp only [enterJoin, hx]

end

theorem joinRecords_holds : joinRecords := by
  intro s h body d id j ha hlat ht hf hs hr hjoin hfind haddr u others
  have hi : innerJoin s = some (id, s.frag.clause) := by simp [innerJoin, hjoin, hfind, haddr]
  have hx := clauseBegin_exec ha hlat hf
  rw [beginFetched_join hs ht hi, if_pos hr] at hx
  refine ⟨fun hl => ?_, fun hl => ?_⟩
  · rw [hx, enterJoin_waits (s := latchedWith s d h body) hfind hjoin hl]
    rfl
  · obtain ⟨c, w, hc, hw, he⟩ := enterJoin_fuses (s := latchedWith s d h body) hfind hjoin hl
    rw [he] at hx
    refine ⟨_, hx, rfl, ?_, rfl, rfl, rfl, rfl, rfl, rfl, ?_, congrArg Wave.frags hw, congrArg Wave.joins hw,
      (congrArg Wave.v hw :), (congrArg Wave.s hw :), (congrArg Wave.m hw :), (congrArg Wave.flg hw :),
        (congrArg Wave.f hw :),
      (congrArg Wave.rng hw :), hc, rfl⟩
    · exact foldl_or_joiners (f := nowJoining (latchedWith s d h body).frag) (g := Frag.exec) rfl hjoin s.wave.frags
    · exact oldest_joiner (f := nowJoining (latchedWith s d h body).frag) rfl hjoin s.wave.frags

/-- Settles O16: LIT, the beginning of a clause through its checks, and the join records. -/
theorem literalsAndClauses : Obligations.LiteralsAndClauses := ⟨literals_holds, clauseBegins_holds, joinRecords_holds⟩

end Sys2Proof.Machine
end

section
/-! SYS.TRAP and SYS.ERET (R48, R72, R199 to R201, R321, R337). -/

namespace Sys2Proof.Machine

/-! ### Taking a trap (R198, R199) -/

theorem takeTrap_contains {s : State} {cause : Nat} {done : Bool} (h : s.frag.trapMode = true ∨ tvec s = 0#64) :
    takeTrap s cause done = { s with crew := { s.crew with contained := some cause } } := by
  rcases h with h | h <;> simp [takeTrap, takeTrapRec, h]

theorem takeTrap_enters {s : State} {cause : Nat} {done : Bool} (h : s.frag.trapMode = false) (hv : tvec s ≠ 0#64) :
    takeTrap s cause done = { s with frag := Machine.trapEntry s.frag (tvec s) cause done none s.clk } := by
  simp [takeTrap, takeTrapRec, h, hv]

/-! ### SYS.TRAP (R337) -/

theorem sysTrap_exec {s : State} {a : BitVec 8} (h : Admitted (.sysTrap a) .control s) :
    exec (.sysTrap a) s = .next (if s.frag.trapMode then takeTrap (latchClk s [a]) 0x13 true
      else takeTrap { latchClk s [a] with frag := { s.frag with etrapv := readSrc (latchClk s [a]) a 0 } } 0x13 true) := by
  have hx : exec (.sysTrap a) s = execSysTrap a s := rfl
  rw [hx, execSysTrap, checked_admitted _ h, show uniformCodes (.sysTrap a) = [a] from rfl]
  simp only [latchClk_frag]

theorem softwareTrap_holds : softwareTrap := by
  intro s a h u
  have hx := sysTrap_exec h
  refine ⟨fun ht => ?_, fun ht => ⟨_, hx, ?_⟩⟩
  · rw [hx, if_pos ht, takeTrap_contains (Or.inl (by rw [latchClk_frag]; exact ht)), latchClk_crew]
  · rw [ht, if_neg Bool.false_ne_true]
    refine ⟨rfl, fun hv => ?_⟩
    have hv' : tvec { u with frag := { s.frag with etrapv := readSrc u a 0 } } = tvec s := by
      simp [tvec, ctxWord, u]
    rw [takeTrap_enters (by exact ht) (by rw [hv']; exact hv), hv']
    exact ⟨rfl, rfl, rfl, rfl, rfl, rfl, rfl, latchClk_crew s [a]⟩

/-! ### SYS.ERET (R201, R321) -/

section
variable {s : State}

theorem trapReturn_good (h : goodTarget s.frag.epc) :
    Machine.trapReturn s = { s with frag := { gotoClause s.frag s.frag.epc s.clk with
      trapMode := false
      exec := s.frag.eexec &&& s.frag.lanes
      fmt := s.frag.efmt
      parcel := s.frag.epar.toNat % 64
      after := s.frag.epar.getLsbD 6
      oneShot := true } } := by
  rw [Machine.trapReturn, targetTrap_good h]

theorem trapReturn_bad (h : ¬ goodTarget s.frag.epc) :
    Machine.trapReturn s = takeTrap s (targetCause s.frag.epc) false := by
  rw [Machine.trapReturn, targetTrap_bad h]

theorem targetCause_cases (a : DWord) : targetCause a = 0x07 ∨ targetCause a = 0x05 := by
  unfold targetCause
  split
  · exact Or.inl rfl
  · exact Or.inr rfl

theorem eret_outside (h : s.frag.trapMode = false) : exec .sysEret s = .next (takeTrap s 0x08 false) := by
  have hx : exec .sysEret s = execSysEret s := rfl
  rw [hx, execSysEret, inTrapMode, h]
  rfl

/-- What ERET leaves, its target sound. -/
def eretState (s : State) : State :=
  let t := Machine.trapReturn s
  let r := eretCrew s.dev s.nfree s.wave s.frag s.crew
  { t with crew := r.1, wave := r.2, frag := { t.frag with erecoff := 0xFFFFFFFF#32 } }

theorem eret_inside (ha : Admitted .sysEret .control s) (ht : s.frag.trapMode = true) :
    exec .sysEret s =
      .next (if (targetTrap s.frag.epc).isSome then Machine.trapReturn s else eretState s) := by
  have hx : exec .sysEret s = execSysEret s := rfl
  rw [hx, execSysEret, inTrapMode, if_pos ht, checked_admitted _ ha, show uniformCodes .sysEret = [] from rfl,
    latchClk_nil]
  cases hc : targetTrap s.frag.epc with
  | some c => rfl
  | none =>
    simp only [eretState, Machine.trapReturn, hc]

/-! The crew after the return: records freed, the operation that trapped resumed. -/

theorem freeTrapRecord_ops (c : Crew) (e : Word) : (freeTrapRecord c e).ops = c.ops := by
  unfold freeTrapRecord freeRecord
  dsimp only
  split
  · rfl
  · split <;> rfl

theorem freeTrapRecord_shistSeq (c : Crew) (e : Word) : (freeTrapRecord c e).shistSeq = c.shistSeq := by
  unfold freeTrapRecord freeRecord
  dsimp only
  split
  · rfl
  · split <;> rfl

theorem eretCrew_resumes {d : Dev} {n : Nat} {w : Wave} {f : Frag} {c : Crew}
    (h : ∀ o ∈ c.ops, o.tampered = true → trappedBy w.idx f.id o = false) :
    (eretCrew d n w f c).2 = w ∧
      ∀ o ∈ c.ops, trappedBy w.idx f.id o = true → resumeOp d c o ∈ (eretCrew d n w f c).1.ops := by
  have hops := freeTrapRecord_ops c f.erecoff
  have hno : ((freeTrapRecord c f.erecoff).ops.filter (trappedBy w.idx f.id)).any (fun o => o.tampered) = false := by
    rw [hops, List.any_eq_false]
    intro o ho htam
    obtain ⟨hm, htr⟩ := List.mem_filter.1 ho
    exact absurd htr (by rw [h o hm htam]; exact Bool.false_ne_true)
  unfold eretCrew
  dsimp only
  rw [if_neg (by rw [hno]; exact Bool.false_ne_true)]
  refine ⟨rfl, fun o ho htr => List.mem_map.2 ⟨o, hops ▸ ho, ?_⟩⟩
  rw [if_pos htr, resumeOp, resumeOp, freeTrapRecord_shistSeq]

/-- The fragment out of trap mode, and the operation it trapped for resumed. -/
theorem eret_returns (ha : Admitted .sysEret .control s) (ht : s.frag.trapMode = true) (hg : goodTarget s.frag.epc) :
    exec .sysEret s = .next (eretState s) := by
  rw [eret_inside ha ht, targetTrap_good hg]
  rfl

theorem eret_doubleFault (ha : Admitted .sysEret .control s) (ht : s.frag.trapMode = true)
    (hb : ¬ goodTarget s.frag.epc) :
    exec .sysEret s = .next { s with crew := { s.crew with contained := some (targetCause s.frag.epc) } } := by
  rw [eret_inside ha ht, targetTrap_bad hb, Option.isSome_some, if_pos rfl, trapReturn_bad hb,
    takeTrap_contains (Or.inl ht)]

end

/-- Settles O18: SYS.TRAP takes its trap, and SYS.ERET returns to the saved PC. -/
theorem trapInstructions : Obligations.TrapInstructions := by
  refine ⟨softwareTrap_holds, fun s ha => ⟨fun ht hg => ?_, fun ht hb => ?_, eret_outside⟩⟩
  · refine ⟨_, eret_returns ha ht hg, ?_⟩
    rw [eretState, trapReturn_good hg]
    exact ⟨rfl, rfl, rfl, rfl, rfl, rfl, rfl, rfl, rfl, rfl, eretCrew_resumes⟩
  · exact ⟨_, eret_doubleFault ha ht hb, targetCause_cases _⟩

end Sys2Proof.Machine
end

section
/-! Patch barriers and fences (R51, R175 to R177, R271, R272). -/

namespace Sys2Proof.Machine

/-! ### The table of patch barriers (R176, R177) -/

/-- The entry is the one of this job, patch and index. -/
def keyed (job : DWord) (w : Word) (k : Nat) (e : PBar) : Bool := e.job == job && e.patch == w && e.index == k

/-- The phase, the arrivals awaited and the arrivals per crew of an entry. -/
def pbarState (e : PBar) : Nat × Nat × Nat := (e.phase, e.pending, e.n)

theorem keyed_iff {job : DWord} {w : Word} {k : Nat} {e : PBar} :
    keyed job w k e = true ↔ job = e.job ∧ w = e.patch ∧ k = e.index := by
  simp only [keyed, Bool.and_eq_true, beq_iff_eq, and_assoc]
  exact and_congr eq_comm (and_congr eq_comm eq_comm)

theorem pbarAt_eq (d : Dev) (job : DWord) (w : Word) (k : Nat) :
    pbarAt d job w k = (d.pbars.find? (keyed job w k)).map pbarState := rfl

/-- Spilling moves entries and changes none. -/
theorem spillPbars_find (die room : Nat) (l : List PBar) (job : DWord) (w : Word) (k : Nat) :
    ((spillPbars die room l).find? (keyed job w k)).map pbarState = (l.find? (keyed job w k)).map pbarState := by
  induction l generalizing room with
  | nil => rfl
  | cons e rest ih =>
    have hk : keyed job w k { e with spilled := true } = keyed job w k e := rfl
    rw [spillPbars.eq_def]
    dsimp only
    cases h : keyed job w k e with
    | true =>
      split
      · split
        · rw [List.find?_cons_of_pos (by rw [hk, h]), List.find?_cons_of_pos h]
          rfl
        · rw [List.find?_cons_of_pos h, List.find?_cons_of_pos h]
      · rw [List.find?_cons_of_pos h, List.find?_cons_of_pos h]
    | false =>
      have hn : ¬ keyed job w k e = true := by rw [h]; exact Bool.false_ne_true
      split
      · split
        · rw [List.find?_cons_of_neg (by rw [hk]; exact hn), List.find?_cons_of_neg hn, ih]
        · rw [List.find?_cons_of_neg hn, List.find?_cons_of_neg hn, ih]
      · rw [List.find?_cons_of_neg hn, List.find?_cons_of_neg hn, ih]

/-- Dropping one key's entries leaves what another's lookup finds. -/
theorem find_dropKey {job j : DWord} {w x : Word} {k y : Nat} (h : ¬ (j = job ∧ x = w ∧ y = k)) (l : List PBar) :
    (l.filter (fun e => !keyed job w k e)).find? (keyed j x y) = l.find? (keyed j x y) := by
  rw [List.find?_filter]
  congr 1
  funext e
  by_cases he : keyed j x y e = true
  · obtain ⟨rfl, rfl, rfl⟩ := keyed_iff.1 he
    have hn : keyed job w k e = false := by
      rw [← Bool.not_eq_true, keyed_iff]
      exact fun ⟨h1, h2, h3⟩ => h ⟨h1.symm, h2.symm, h3.symm⟩
    simp [he, hn]
  · simp [he]

/-- The device of d with the entry of one key holding e, the others as they were. -/
def PbarSet (d d' : Dev) (job : DWord) (w : Word) (k : Nat) (e : Nat × Nat × Nat) : Prop :=
  pbarAt d' job w k = some e ∧
  (∀ j x y, ¬ (j = job ∧ x = w ∧ y = k) → pbarAt d' j x y = pbarAt d j x y) ∧
  { d' with pbars := [] } = { d with pbars := [] }

/-- The entry at the head of the table, the others of its key dropped. -/
def withEntry (d : Dev) (e : PBar) : Dev :=
  { d with pbars := e :: spillPbars (patchDie e.patch) 511 (d.pbars.filter fun x => !keyed e.job e.patch e.index x) }

theorem withEntry_set (d : Dev) (e : PBar) : PbarSet d (withEntry d e) e.job e.patch e.index (pbarState e) := by
  refine ⟨?_, fun j x y h => ?_, rfl⟩
  · rw [pbarAt_eq, withEntry, List.find?_cons_of_pos (keyed_iff.2 ⟨rfl, rfl, rfl⟩), Option.map_some]
  · have hn : ¬ keyed j x y e = true := fun hj => h (keyed_iff.1 hj)
    rw [pbarAt_eq, pbarAt_eq, withEntry, List.find?_cons_of_neg hn, spillPbars_find, find_dropKey h]

/-- What an instruction finds at its touch: at the first, phase 0 and every arrival still awaited (R176). -/
def pbarNow (d : Dev) (job : DWord) (w : Word) (k n : Nat) : Nat × Nat × Nat :=
  (pbarAt d job w k).getD (0, 2 ^ ((Patch.ofWord w).a + (Patch.ofWord w).b) * n, n)

/-- The entry an instruction touches: the one there, or the one made. -/
def pbarEntry (d : Dev) (job : DWord) (w : Word) (k n : Nat) : PBar :=
  match d.pbars.find? (keyed job w k) with
  | some e => { e with spilled := false }
  | none => ⟨job, w, k, 0, 2 ^ ((Patch.ofWord w).a + (Patch.ofWord w).b) * n, n, false⟩

theorem pbarEntry_keyed (d : Dev) (job : DWord) (w : Word) (k n : Nat) :
    (pbarEntry d job w k n).job = job ∧ (pbarEntry d job w k n).patch = w ∧ (pbarEntry d job w k n).index = k := by
  rw [pbarEntry]
  cases hf : d.pbars.find? (keyed job w k) with
  | none => exact ⟨rfl, rfl, rfl⟩
  | some e =>
    obtain ⟨h1, h2, h3⟩ := keyed_iff.1 (List.find?_some hf)
    exact ⟨h1.symm, h2.symm, h3.symm⟩

theorem pbarEntry_state (d : Dev) (job : DWord) (w : Word) (k n : Nat) :
    pbarState (pbarEntry d job w k n) = pbarNow d job w k n := by
  rw [pbarEntry, pbarNow, pbarAt_eq]
  cases d.pbars.find? (keyed job w k) <;> rfl

theorem spillPbars_head (w : Word) (e : PBar) (l : List PBar) (hp : e.patch = w) (hs : e.spilled = false) :
    spillPbars (patchDie w) 512 (e :: l) = e :: spillPbars (patchDie w) 511 l := by
  simp [spillPbars, hp, hs]

theorem touchPbar_eq (d : Dev) (job : DWord) (w : Word) (k n : Nat) :
    touchPbar d job w k n = (pbarEntry d job w k n, withEntry d (pbarEntry d job w k n)) := by
  obtain ⟨h1, h2, h3⟩ := pbarEntry_keyed d job w k n
  have hs : (pbarEntry d job w k n).spilled = false := by
    rw [pbarEntry]
    cases d.pbars.find? (keyed job w k) <;> rfl
  have ht : touchPbar d job w k n = (pbarEntry d job w k n, { d with
      pbars := spillPbars (patchDie w) 512
        (pbarEntry d job w k n :: d.pbars.filter fun x => !keyed job w k x) }) := rfl
  rw [ht, spillPbars_head w _ _ h2 hs, withEntry, h1, h2, h3]

/-- An entry put back takes the place of the one touched. -/
theorem putPbar_withEntry (s : State) {e e' : PBar} (hj : e'.job = e.job) (hp : e'.patch = e.patch)
    (hi : e'.index = e.index) :
    putPbar { s with dev := withEntry s.dev e } e' = { s with dev := withEntry s.dev e' } := by
  simp only [putPbar, withEntry, hj, hp, hi, List.drop_succ_cons, List.drop_zero]

/-- R176: an arrival lowers the count awaited, or begins the next phase. -/
theorem arrivePbar_state (e : PBar) :
    pbarState (arrivePbar e) =
      if e.pending = 1 then
        ((e.phase + 1) % 256, 2 ^ ((Patch.ofWord e.patch).a + (Patch.ofWord e.patch).b) * e.n, e.n)
      else (e.phase, e.pending - 1, e.n) := by
  by_cases h : e.pending = 1 <;> simp [arrivePbar, h, pbarState]

theorem arrivePbar_keyed (e : PBar) :
    (arrivePbar e).job = e.job ∧ (arrivePbar e).patch = e.patch ∧ (arrivePbar e).index = e.index := by
  unfold arrivePbar
  dsimp only
  split <;> exact ⟨rfl, rfl, rfl⟩

theorem phaseDone_iff {phase p : Nat} (hp : p < 256) :
    phaseDone phase p = decide (1 ≤ (phase + 256 - p) % 256 ∧ (phase + 256 - p) % 256 ≤ 128) := by
  rw [phaseDone, Nat.mod_eq_of_lt hp]
  simp only [Bool.decide_and]

theorem pbarPhase_eq (d : Dev) (job : DWord) (w : Word) (k n : Nat) :
    pbarPhase d job w k = (pbarNow d job w k n).1 := by
  rw [pbarNow, pbarAt_eq, pbarPhase]
  change (match d.pbars.find? (keyed job w k) with
    | some e => e.phase
    | none => 0) = _
  cases d.pbars.find? (keyed job w k) <;> rfl

/-! ### The instructions of patch barriers (R176) -/

section
variable {s : State} {a b : BitVec 8}

/-- What the operands of a PBAR name: the patch, the selector, and in it the index, the arrivals per crew and the
phase. -/
def pbarPatch (s : State) (a : BitVec 8) : Word := readS s (a.toNat - 0x80)
def pbarSel (s : State) (b : BitVec 8) : Nat := (readS s (b.toNat - 0x80)).toNat

/-- A patch and a selector that R175 and R176 take. -/
def pbarGood (s : State) (a b : BitVec 8) : Prop :=
  patchOk (pbarPatch s a) (jobHere s).card s.crew.cx s.crew.cy = true ∧ pbarSel s b / 256 % 256 ≠ 0 ∧
    pbarSel s b < 2 ^ 24

/-- The entry an instruction of the fragment in focus touches. -/
def entryHere (s : State) (a b : BitVec 8) : PBar :=
  pbarEntry s.dev s.crew.job (pbarPatch s a) (pbarSel s b % 256) (pbarSel s b / 256 % 256)

/-- How far the phase of the entry stands past the one named. -/
def pbarAhead (s : State) (a b : BitVec 8) : Nat := ((entryHere s a b).phase + 256 - pbarSel s b / 65536 % 256) % 256

theorem bitsOf_low (x : Nat) : bitsOf x 7 0 = x % 256 := by simp [bitsOf]
theorem bitsOf_mid (x : Nat) : bitsOf x 15 8 = x / 256 % 256 := by simp [bitsOf]
theorem bitsOf_high (x : Nat) : bitsOf x 23 16 = x / 65536 % 256 := by simp [bitsOf]

theorem pbarPhase_here (s : State) (a b : BitVec 8) :
    pbarPhase s.dev s.crew.job (pbarPatch s a) (pbarSel s b % 256) = (entryHere s a b).phase := by
  rw [entryHere, pbarPhase_eq _ _ _ _ (pbarSel s b / 256 % 256), ← pbarEntry_state]
  rfl

/-- The checks of a PBAR instruction, said of its operands. -/
theorem withPbar_eq (wait : Bool) (k : State → PBar → Nat → State) :
    withPbar s a b wait k =
      if !patchOk (pbarPatch s a) (jobHere s).card s.crew.cx s.crew.cy || pbarSel s b / 256 % 256 == 0 ||
          pbarSel s b / 2 ^ 24 != 0 || (wait && decide (129 ≤ pbarAhead s a b)) then takeTrap s 0x08 false
      else k { s with dev := withEntry s.dev (entryHere s a b) } (entryHere s a b) (pbarSel s b / 65536 % 256) := by
  rw [pbarAhead, ← pbarPhase_here]
  unfold withPbar
  simp only [touchPbar_eq, bitsOf_low, bitsOf_mid, bitsOf_high]
  rfl

theorem pbarGood_iff : pbarGood s a b ↔
    (!patchOk (pbarPatch s a) (jobHere s).card s.crew.cx s.crew.cy || pbarSel s b / 256 % 256 == 0 ||
      pbarSel s b / 2 ^ 24 != 0) = false := by
  have h24 : pbarSel s b / 2 ^ 24 = 0 ↔ pbarSel s b < 2 ^ 24 := Nat.div_eq_zero_iff_lt (Nat.two_pow_pos 24)
  simp only [pbarGood, Bool.or_eq_false_iff, Bool.not_eq_false', beq_eq_false_iff_ne, bne_eq_false_iff_eq, h24, and_assoc]

theorem withPbar_bad {wait : Bool} {k : State → PBar → Nat → State} (h : ¬ pbarGood s a b) :
    withPbar s a b wait k = takeTrap s 0x08 false := by
  rw [pbarGood_iff, Bool.not_eq_false] at h
  rw [withPbar_eq, h, Bool.true_or, if_pos rfl]

theorem withPbar_far {k : State → PBar → Nat → State} (h : 129 ≤ pbarAhead s a b) :
    withPbar s a b true k = takeTrap s 0x08 false := by
  rw [withPbar_eq, if_pos (by simp [h])]

theorem withPbar_good {wait : Bool} {k : State → PBar → Nat → State} (h : pbarGood s a b)
    (hw : wait = true → pbarAhead s a b ≤ 128) :
    withPbar s a b wait k =
      k { s with dev := withEntry s.dev (entryHere s a b) } (entryHere s a b) (pbarSel s b / 65536 % 256) := by
  have hn : (wait && decide (129 ≤ pbarAhead s a b)) = false := by
    cases wait with
    | false => rfl
    | true => simpa using Nat.lt_succ_of_le (hw rfl)
  rw [withPbar_eq, pbarGood_iff.1 h, hn, Bool.false_or, if_neg Bool.false_ne_true]

/-! The three instructions, where no access of the fragment's lanes holds them. -/

section
variable (hp : pendingFor s.crew.ops s.wave.idx s.frag.lanes = false)
include hp

theorem pbarArrive_exec (h : Admitted (.pbarArrive a b) .control s) :
    exec (.pbarArrive a b) s = .next (withPbar s a b false fun s e _ => advance (putPbar s (arrivePbar e))) := by
  dsimp only [exec]
  refine (checked_admitted _ h).trans ?_
  rw [show uniformCodes (.pbarArrive a b) = [] from rfl, latchClk_nil]
  simp only [afterAccesses, hp, if_neg Bool.false_ne_true]

theorem pbarTest_exec {m : BitVec 3} (h : Admitted (.pbarTest m a b) .control s) :
    exec (.pbarTest m a b) s =
      .next (withPbar s a b false fun s e p => reportBar s m (phaseDone e.phase p)) := by
  dsimp only [exec]
  refine (checked_admitted _ h).trans ?_
  rw [show uniformCodes (.pbarTest m a b) = [] from rfl, latchClk_nil]
  simp only [afterAccesses, hp, if_neg Bool.false_ne_true]

theorem pbarWait_exec (h : Admitted (.pbarWait a b) .control s) (hr : s.frag.resume = .fresh) :
    exec (.pbarWait a b) s = .next (withPbar s a b true fun s e p =>
      if phaseDone e.phase p then advance s
      else block s (.patch (Patch.ofWord e.patch).px (Patch.ofWord e.patch).py (Patch.ofWord e.patch).a
        (Patch.ofWord e.patch).b e.index p)) := by
  dsimp only [exec]
  refine (checked_admitted _ h).trans ?_
  rw [show uniformCodes (.pbarWait a b) = [] from rfl, latchClk_nil]
  simp only [blockBehind, hp, if_neg Bool.false_ne_true, hr]
  rfl

end

/-- The rectangle a patch word names (R175). -/
theorem patch_ofWord (w : Word) : Patch.ofWord w =
    ⟨w.toNat % 64, w.toNat / 64 % 32, w.toNat / 2048 % 8, w.toNat / 16384 % 8⟩ := by
  simp [Patch.ofWord, bitsOf]

end

theorem entryHere_state (s : State) (a b : BitVec 8) :
    pbarState (entryHere s a b) =
      (pbarAt s.dev s.crew.job (pbarPatch s a) (pbarSel s b % 256)).getD
        (0, 2 ^ ((pbarPatch s a).toNat / 2048 % 8 + (pbarPatch s a).toNat / 16384 % 8) * (pbarSel s b / 256 % 256),
          pbarSel s b / 256 % 256) := by
  rw [entryHere, pbarEntry_state, pbarNow, patch_ofWord]

/-- The table with the touched entry in state e is the table before but for that entry. -/
theorem entryHere_set (s : State) (a b : BitVec 8) {e : PBar} (hj : e.job = (entryHere s a b).job)
    (hw : e.patch = (entryHere s a b).patch) (hi : e.index = (entryHere s a b).index) :
    PbarSet s.dev (withEntry s.dev e) s.crew.job (pbarPatch s a) (pbarSel s b % 256) (pbarState e) := by
  obtain ⟨h1, h2, h3⟩ := pbarEntry_keyed s.dev s.crew.job (pbarPatch s a) (pbarSel s b % 256) (pbarSel s b / 256 % 256)
  have := withEntry_set s.dev e
  rwa [hj.trans h1, hw.trans h2, hi.trans h3] at this

theorem reportBar_reports (s : State) (m : BitVec 3) (d : Dev) (yes : Bool) :
    reportsMask s (reportBar { s with dev := d } m yes) m yes ∧ (reportBar { s with dev := d } m yes).dev = d ∧
      (reportBar { s with dev := d } m yes).crew = s.crew ∧
      { (reportBar { s with dev := d } m yes).wave with m := [] } = { s.wave with m := [] } := by
  have hm : ∀ k, readM (reportBar { s with dev := d } m yes) k = _ :=
    writeM_mask { s with dev := d } m.toNat (if yes then BitVec.allOnes 96 else 0#96)
  refine ⟨⟨?_, fun k hk => ?_, rfl⟩, rfl, rfl, rfl⟩
  · rw [hm, if_pos rfl]
    cases yes
    · rw [if_neg Bool.false_ne_true, if_neg Bool.false_ne_true, BitVec.zero_and]
      rfl
    · rw [if_pos rfl, if_pos rfl, BitVec.allOnes_and]
      rfl
  · rw [hm, if_neg (by simpa using hk)]
    rfl

section
variable {s : State} {a b : BitVec 8} (hp : pendingFor s.crew.ops s.wave.idx s.frag.lanes = false)
include hp

theorem pbarArrive_effect (h : Admitted (.pbarArrive a b) .control s) (hg : pbarGood s a b) :
    exec (.pbarArrive a b) s =
      .next (advance { s with dev := withEntry s.dev (arrivePbar (entryHere s a b)) }) := by
  obtain ⟨hj, hw, hi⟩ := arrivePbar_keyed (entryHere s a b)
  rw [pbarArrive_exec hp h, withPbar_good hg (fun hc => absurd hc Bool.false_ne_true), putPbar_withEntry s hj hw hi]

theorem pbarTest_effect {m : BitVec 3} (h : Admitted (.pbarTest m a b) .control s) (hg : pbarGood s a b) :
    exec (.pbarTest m a b) s = .next (reportBar { s with dev := withEntry s.dev (entryHere s a b) } m
      (decide (1 ≤ pbarAhead s a b ∧ pbarAhead s a b ≤ 128))) := by
  rw [pbarTest_exec hp h, withPbar_good hg (fun hc => absurd hc Bool.false_ne_true),
    phaseDone_iff (Nat.mod_lt _ (by norm_num)), pbarAhead]

theorem pbarWait_effect (h : Admitted (.pbarWait a b) .control s) (hr : s.frag.resume = .fresh)
    (hg : pbarGood s a b) (hle : pbarAhead s a b ≤ 128) :
    exec (.pbarWait a b) s = .next (if 1 ≤ pbarAhead s a b then
      advance { s with dev := withEntry s.dev (entryHere s a b) }
      else block { s with dev := withEntry s.dev (entryHere s a b) }
        (.patch ((pbarPatch s a).toNat % 64) ((pbarPatch s a).toNat / 64 % 32) ((pbarPatch s a).toNat / 2048 % 8)
          ((pbarPatch s a).toNat / 16384 % 8) (pbarSel s b % 256) (pbarSel s b / 65536 % 256))) := by
  obtain ⟨_, hw, hi⟩ := pbarEntry_keyed s.dev s.crew.job (pbarPatch s a) (pbarSel s b % 256) (pbarSel s b / 256 % 256)
  have hw : (entryHere s a b).patch = pbarPatch s a := hw
  have hi : (entryHere s a b).index = pbarSel s b % 256 := hi
  rw [pbarWait_exec hp h hr, withPbar_good hg (fun _ => hle), phaseDone_iff (Nat.mod_lt _ (by norm_num)), hw, hi,
    patch_ofWord]
  by_cases h1 : 1 ≤ pbarAhead s a b
  · rw [if_pos h1, if_pos (decide_eq_true ⟨h1, hle⟩)]
  · rw [if_neg h1, if_neg (fun hc => h1 (of_decide_eq_true hc).1)]

end

theorem patchBarriers_holds : patchBarriers := by
  intro s m a b hp hr w sel k n p need now good ahead touched i hi h
  have hnow : pbarState (entryHere s a b) = now := entryHere_state s a b
  have hphase : (entryHere s a b).phase = now.1 := congrArg Prod.fst hnow
  have hpend : (entryHere s a b).pending = now.2.1 := congrArg (fun x => x.2.1) hnow
  have hn : (entryHere s a b).n = now.2.2 := congrArg (fun x => x.2.2) hnow
  have hahead : pbarAhead s a b = ahead := by
    rw [pbarAhead, hphase]
    rfl
  have hset : touched (withEntry s.dev (entryHere s a b)) now := hnow ▸ entryHere_set s a b rfl rfl rfl
  simp only [List.mem_cons, List.not_mem_nil, or_false] at hi
  rcases hi with rfl | rfl | rfl
  · refine ⟨fun hb => ?_, fun hg _ => ⟨_, pbarArrive_effect hp h hg, ?_⟩, fun _ he => Instr.noConfusion he,
      fun _ he => absurd rfl he⟩
    · rw [pbarArrive_exec hp h, withPbar_bad hb]
    · obtain ⟨h1, h2, h3⟩ := arrivePbar_keyed (entryHere s a b)
      have := entryHere_set s a b h1 h2 h3
      rw [arrivePbar_state, hphase, hpend, hn, show (entryHere s a b).patch = w from
        (pbarEntry_keyed _ _ _ _ _).2.1, patch_ofWord] at this
      exact this
  · refine ⟨fun hb => ?_, fun _ he => Instr.noConfusion he, fun hg _ hfar => ?_, fun hg _ hle =>
      ⟨_, hset, fun he => Instr.noConfusion he,
      fun h1 _ => ?_, fun h0 _ => ?_⟩⟩
    · rw [pbarWait_exec hp h hr, withPbar_bad hb]
    · rw [pbarWait_exec hp h hr, withPbar_far (hahead ▸ hfar)]
    · rw [pbarWait_effect hp h hr hg (hahead ▸ hle rfl), hahead, if_pos h1]
    · rw [pbarWait_effect hp h hr hg (hahead ▸ hle rfl), hahead, if_neg (by omega)]
      rfl
  · refine ⟨fun hb => ?_, fun _ he => Instr.noConfusion he, fun _ he => Instr.noConfusion he, fun hg _ _ =>
      ⟨_, hset, fun _ => ?_,
      fun _ he => Instr.noConfusion he, fun _ he => Instr.noConfusion he⟩⟩
    · rw [pbarTest_exec hp h, withPbar_bad hb]
    · exact ⟨_, hahead ▸ pbarTest_effect hp h hg, reportBar_reports s m _ _⟩

/-! ### Fences (R51, R271, R272) -/

section
variable {s : State}

theorem fenceOpc_exec (h : Admitted .fenceOpc .control s) :
    exec .fenceOpc s = .next { s with
      crew := { s.crew with opcGen := s.crew.opcGen + 1 }, frag := pastParcels s.frag (curParcels s.frag) s.clk } := by
  dsimp only [exec]
  exact (checked_admitted _ h).trans rfl

/-- An entry of an earlier generation of the operand cache is no hit. -/
theorem opcHits_gen {c : Crew} {o : Op} {m : MmatOp} {e : OpcEntry} (h : e ∈ opcHits c o m) : e.gen = m.gen := by
  have ht := (List.mem_filter.1 h).2
  rw [beq_iff_eq] at ht
  exact congrArg OpcEntry.gen ht

theorem fenceIfetch_exec (h : Admitted .fenceIfetch .control s) :
    exec .fenceIfetch s = .next (advance { s with
      wave := { s.wave with fetchMark := s.dev.histSeq, frags := s.wave.frags.map refetch } }) := by
  dsimp only [exec]
  exact (checked_admitted _ h).trans rfl

theorem refetch_unlatched (f : Frag) : { refetch f with latched := false } = { f with latched := false } := by
  unfold refetch
  split <;> rfl

theorem refetch_header {f : Frag} (h : (refetch f).parcel = 63) : (refetch f).latched = false := by
  by_cases hp : f.parcel = 63
  · simp [refetch, hp]
  · simp [refetch, hp] at h

theorem fenceIfetch_holds (h : Admitted .fenceIfetch .control s) :
    ∃ t, exec .fenceIfetch s = .next t ∧ GoesOn s t ∧ t.dev = s.dev ∧ t.crew = s.crew ∧
      t.wave.fetchMark = s.dev.histSeq ∧
      { t.wave with fetchMark := 0, frags := [] } = { s.wave with fetchMark := 0, frags := [] } ∧
      t.wave.frags.map (fun f => { f with latched := false }) = s.wave.frags.map (fun f => { f with latched := false }) ∧
      ∀ f ∈ t.wave.frags, f.parcel = 63 → f.latched = false := by
  refine ⟨_, fenceIfetch_exec h, rfl, rfl, rfl, rfl, rfl, ?_, fun f hf => ?_⟩
  · rw [advance_wave, List.map_map]
    exact List.map_congr_left fun f _ => refetch_unlatched f
  · obtain ⟨g, _, rfl⟩ := List.mem_map.1 hf
    exact refetch_header

/-- No late trap of the wave waits to be delivered here. -/
theorem lateOp_none {ops : List Op} {w : Nat} {p : Nat → Bool} (h : ∀ o ∈ ops, ∀ k, o.status ≠ .late k) :
    lateOp ops w p = none := by
  rw [lateOp, List.find?_eq_none]
  intro o ho
  cases hs : o.status with
  | late k => exact absurd hs (h o ho k)
  | inflight | parked _ | trapped _ _ => simp

theorem fenceAsync_exec (h : Admitted .fenceAsync .control s)
    (hl : s.frag.trapMode = true ∨ ∀ o ∈ s.crew.ops, ∀ k, o.status ≠ .late k) :
    exec .fenceAsync s = .next (if asyncOpen s.crew.ops s.wave.idx s.frag.lanes then
      { s with frag := { s.frag with status := .waiting } } else advance s) := by
  have hlate : (if s.frag.trapMode then none else lateOp s.crew.ops s.wave.idx fun _ => true) = none := by
    rcases hl with hl | hl
    · rw [if_pos hl]
    · rw [lateOp_none hl, ite_self]
  have hx : exec .fenceAsync s = execFenceAsync s := rfl
  rw [hx, execFenceAsync, checked_admitted _ h, show uniformCodes .fenceAsync = [] from rfl, latchClk_nil]
  simp only [hlate]

theorem asyncOpen_iff (ops : List Op) (w : Nat) (lanes : Lanes) :
    asyncOpen ops w lanes = true ↔ ∃ o ∈ ops, o.wave = w ∧ opAsync o = true ∧ o.order &&& lanes ≠ 0#96 := by
  simp only [asyncOpen, List.any_eq_true, Bool.and_eq_true, beq_iff_eq, bne_iff_ne, and_assoc]

end

theorem fences_holds : fences := by
  refine fun s => ⟨fenceOpc_exec, fun _ _ _ _ => opcHits_gen, fenceIfetch_holds, fun h hl => ⟨fun hno => ?_, fun ho => ?_⟩⟩
  · rw [fenceAsync_exec h hl, if_neg]
    rw [asyncOpen_iff]
    exact fun ⟨o, hm, hw, ha, hne⟩ => hne (hno o hm hw ha)
  · rw [fenceAsync_exec h hl, if_pos ((asyncOpen_iff _ _ _).2 ho)]

/-- Settles O25: the table of patch barriers as the instruction leaves it, and the three fences. -/
theorem patchBarriersAndFences : Obligations.PatchBarriersAndFences := ⟨patchBarriers_holds, fences_holds⟩

end Sys2Proof.Machine
end

section
/-! BRS where the park area is smaller than the places taken in it (R190): the model takes the first gap between the
places taken without asking whether it lies in the park area, and so splits where the statement asks for the
split-depth fault. -/

namespace Sys2Proof.Machine

/-- A crew without a park area that holds a place beyond it, a wave of sixteen fragments, and the fragment in focus with
two lanes, of which mask 0 takes one. -/
def overfullState : State :=
  { (default : State) with
    crew := { (default : Crew) with allocs := [(0x2000, 32)] }
    wave := { (default : Wave) with frags := List.replicate 15 default, m := tabSet 0#96 [] 0 1#96 }
    frag := { (default : Frag) with lanes := 3#96, exec := 3#96 } }

theorem overfull_admitted : Admitted (.brs 0 0) .control overfullState := ⟨by decide, Or.inr (by decide)⟩

theorem overfull_target : goodTarget (offTarget overfullState 0) := ⟨by decide, by decide⟩

theorem overfull_joinAddr : joinAddr overfullState.frag = none := by decide

theorem overfull_sound : splitTablesSound overfullState := ⟨by decide, by decide, by decide⟩

/-- Both kinds of lanes are there, and the seventeenth fragment would need a place. -/
theorem overfull_needs : overfullState.frag.exec &&& readM overfullState 0 ≠ 0#96 ∧
    overfullState.frag.exec &&& ~~~ readM overfullState 0 ≠ 0#96 ∧ 16 ≤ overfullState.wave.frags.length + 1 :=
  ⟨by decide, by decide, by decide⟩

/-- A park area of no bytes has no free place. -/
theorem overfull_noPlace : ¬ ∃ p, freePlace overfullState.crew 128 p := by
  rintro ⟨p, _, hp, _⟩
  exact absurd (show p + 128 ≤ 0 from hp) (Nat.not_succ_le_zero _)

theorem overfull_splits : onNext (exec (.brs 0 0) overfullState) fun t => t.crew.contained = none :=
  rfl

/-- The split-depth fault would contain the crew: no trap vector is set. -/
theorem overfull_fault : (takeTrap overfullState 0x0E false).crew.contained = some 0x0E := by decide

/-- Refutes O15: with no byte of the park area free for the seventeenth fragment BRS splits all the same, where a place
taken beyond the park area makes a gap before it. -/
theorem not_splitsAndJoins : ¬ Obligations.SplitsAndJoins := by
  rintro ⟨-, hsplit, -⟩
  obtain ⟨-, houtside⟩ := hsplit overfullState 0 0 overfull_admitted overfull_target fun a ha => by
    rw [overfull_joinAddr] at ha
    cases ha
  obtain ⟨hfault, -⟩ := houtside rfl overfull_sound
  have hx := hfault (Or.inr (Or.inl ⟨overfull_needs, overfull_noPlace⟩))
  have hs := overfull_splits
  rw [hx] at hs
  exact absurd (overfull_fault.symm.trans hs) (Option.some_ne_none _)

end Sys2Proof.Machine
end

section
/-! The control words that CTLRD reads and CTLWR writes (R72, R107, R200, R310, R338, R340, R428). -/

namespace Sys2Proof.Machine

/-! ### The words of a context (R8, R308, R340) -/

section
variable {α : Type}

/-- A write leaves every other key alone, whatever default it is read with. -/
theorem tabGet_tabSet_otherDefault [DecidableEq α] (d e : α) (t : Tab α) {k j : Nat} (v : α) (h : j ≠ k) :
    tabGet e (tabSet d t k v) j = tabGet e t j := by
  unfold tabSet
  split
  · exact tabGet_tabDel_other e t h
  · exact tabGet_tabInsert_other e t v h

end

theorem slotWord_of_contexts {d e : Dev} (h : d.contexts = e.contexts) (c k : Nat) : slotWord d c k = slotWord e c k := by
  rw [slotWord, slotWord, ctxOf, ctxOf, h]

theorem byteAt_of_mem {d e : Dev} (h : d.mem = e.mem) (p : Nat) : byteAt d p = byteAt e p := by
  rw [byteAt, byteAt, h]

theorem slotWord_putCtxWord (d : Dev) (clk slot n : Nat) (x : Word) (c k : Nat) :
    slotWord (putCtxWord d clk slot n x) c k = if c = slot ∧ k = n then x else slotWord d c k := by
  simp only [slotWord, ctxOf, putCtxWord, updCtx, tabGet_tabSet]
  by_cases hc : c = slot
  · subst hc
    by_cases hk : k = n
    · simp [hk]
    · simp only [if_pos, hk, and_false, if_false]
      exact tabGet_tabSet_otherDefault _ _ _ _ hk
  · simp [hc]

theorem focusOn_contexts (s : State) (r : FragRef) : (focusOn s r).dev.contexts = s.dev.contexts := by
  fun_cases focusOn <;> rfl

theorem focusOn_hubs (s : State) (r : FragRef) : (focusOn s r).dev.hubs = s.dev.hubs := by
  fun_cases focusOn <;> rfl

/-! ### CTLRD (R72, R338) -/

theorem ctlRead_context {s : State} {n : Nat} (h : isCtxWord n = true) :
    ctlRead s n = some (if n = 0x631 then 0#32 else slotWord s.dev s.crew.ctx n) := by
  simp only [ctlRead, if_pos h, ctxRead, beq_iff_eq]

theorem shiftWord_eq (e : Lanes) (k : Nat) : (e >>> k).setWidth 32 = e.extractLsb' k 32 := by ext i hi; simp

/-- The held words as CTLRD slices them. -/
theorem mem_heldWords {s : State} {p : Nat × Word} : p ∈ heldWords s ↔
    p ∈ [(0x410, s.frag.epc.extractLsb' 0 32), (0x411, s.frag.epc.extractLsb' 32 32), (0x412, s.frag.epar),
      (0x413, s.frag.ecause), (0x414, s.frag.eexec.extractLsb' 0 32), (0x415, s.frag.eexec.extractLsb' 32 32),
      (0x416, s.frag.eexec.extractLsb' 64 32), (0x417, s.frag.efmt), (0x600, s.frag.erecoff),
      (0x601, s.frag.etrapv)] ∨
    (∃ k < 8, (0x418 + k, tabGet 0#32 s.frag.esave k) = p) ∨
    (∃ k < 5, (0x310 + k, BitVec.ofNat 32 (tabGet 0 s.crew.mx k)) = p) ∨
    p ∈ [(0x700, BitVec.ofNat 32 s.crew.chain.bbase), (0x701, BitVec.ofNat 32 s.crew.chain.bsz),
      (0x702, BitVec.ofNat 32 s.crew.chain.snap)] := by
  rw [← lowWord_eq, ← highWord_eq, ← shiftWord_eq, ← shiftWord_eq, ← shiftWord_eq, heldWords]
  simp only [List.mem_append, List.mem_map, List.mem_range, or_assoc]
  rfl

theorem ctlRead_held {s : State} {n : Nat} {v : Word} (h : (n, v) ∈ heldWords s) : ctlRead s n = some v := by
  rcases mem_heldWords.1 h with h | ⟨k, hk, h⟩ | ⟨k, hk, h⟩ | h
  · simp only [List.mem_cons, Prod.mk.injEq, List.not_mem_nil, or_false] at h
    rcases h with ⟨rfl, rfl⟩ | ⟨rfl, rfl⟩ | ⟨rfl, rfl⟩ | ⟨rfl, rfl⟩ | ⟨rfl, rfl⟩ | ⟨rfl, rfl⟩ | ⟨rfl, rfl⟩ |
      ⟨rfl, rfl⟩ | ⟨rfl, rfl⟩ | ⟨rfl, rfl⟩ <;> rfl
  · cases h; interval_cases k <;> rfl
  · cases h; interval_cases k <;> rfl
  · simp only [List.mem_cons, Prod.mk.injEq, List.not_mem_nil, or_false] at h
    rcases h with ⟨rfl, rfl⟩ | ⟨rfl, rfl⟩ | ⟨rfl, rfl⟩ <;> rfl

theorem ite_eq_some {c : Prop} [Decidable c] {x v : Word} {y : Option Word} (h : (if c then some x else y) = some v) :
    c ∧ v = x ∨ y = some v := by
  split at h
  next hc => exact Or.inl ⟨hc, (Option.some.inj h).symm⟩
  next => exact Or.inr h

theorem held_of_ctlRead {s : State} {n : Nat} {v : Word} (hc : isCtxWord n = false) (h : ctlRead s n = some v) :
    (n, v) ∈ heldWords s := by
  simp only [ctlRead, hc, Bool.false_eq_true, if_false, Bool.and_eq_true, decide_eq_true_eq, beq_iff_eq] at h
  rw [mem_heldWords]
  rcases ite_eq_some h with ⟨hn, rfl⟩ | h
  · exact Or.inr (Or.inr (Or.inl ⟨n - 0x310, by omega, by rw [Nat.add_sub_cancel' hn.1]⟩))
  iterate 4
    rcases ite_eq_some h with ⟨rfl, rfl⟩ | h
    · exact Or.inl (by simp only [List.mem_cons, true_or, or_true])
  rcases ite_eq_some h with ⟨hn, rfl⟩ | h
  · obtain rfl | rfl | rfl : n = 0x414 ∨ n = 0x415 ∨ n = 0x416 := by omega
    all_goals exact Or.inl (by simp only [Nat.reduceSub, Nat.reduceMul, List.mem_cons, true_or, or_true])
  rcases ite_eq_some h with ⟨rfl, rfl⟩ | h
  · exact Or.inl (by simp only [List.mem_cons, true_or, or_true])
  rcases ite_eq_some h with ⟨hn, rfl⟩ | h
  · exact Or.inr (Or.inl ⟨n - 0x418, by omega, by rw [Nat.add_sub_cancel' hn.1]⟩)
  iterate 2
    rcases ite_eq_some h with ⟨rfl, rfl⟩ | h
    · exact Or.inl (by simp only [List.mem_cons, true_or, or_true])
  iterate 3
    rcases ite_eq_some h with ⟨rfl, rfl⟩ | h
    · exact Or.inr (Or.inr (Or.inr (by simp only [List.mem_cons, true_or, or_true])))
  exact nomatch h

/-- A word reads as it is held, and a number that names none is not read. -/
theorem ctlRead_iff (s : State) (n : Nat) (v : Word) : ctlRead s n = some v ↔ WordHolds s n v := by
  cases hc : isCtxWord n with
  | true =>
    rw [ctlRead_context hc, Option.some.injEq]
    refine ⟨fun h => Or.inr ⟨hc, h.symm⟩, ?_⟩
    rintro (h | ⟨-, h⟩)
    · exact Option.some.inj ((ctlRead_context hc).symm.trans (ctlRead_held h))
    · exact h.symm
  | false =>
    simp only [WordHolds, hc, Bool.false_eq_true, false_and, or_false]
    exact ⟨held_of_ctlRead hc, ctlRead_held⟩

theorem ctlRead_none {s : State} {n : Nat} (h : ∀ v, ¬ WordHolds s n v) : ctlRead s n = none :=
  Option.eq_none_iff_forall_not_mem.2 fun v hv => h v ((ctlRead_iff s n v).1 hv)

section
variable {s : State} {a b : BitVec 8}

theorem ctlRead_latchClk (s : State) (codes : List (BitVec 8)) (n : Nat) : ctlRead (latchClk s codes) n = ctlRead s n := by
  simp only [ctlRead, latchClk_dev, latchClk_crew, latchClk_frag]

theorem ctlrd_reads (h : Admitted (.sysCtlrd a b) .control s) {v : Word}
    (hm : s.frag.trapMode = true ∨ isUserWord (readSrc (latchClk s [b]) b 0).toNat = true)
    (hv : ctlRead s (readSrc (latchClk s [b]) b 0).toNat = some v) :
    exec (.sysCtlrd a b) s = .next (advance (writeS (latchClk s [b]) (a.toNat - 0x80) v)) := by
  have hx : exec (.sysCtlrd a b) s = execSysCtlrd a b s := rfl
  rw [hx, execSysCtlrd, checked_admitted _ h, show uniformCodes (.sysCtlrd a b) = [b] from rfl, latchClk_frag]
  dsimp only
  rw [if_neg (by rcases hm with hm | hm <;> simp [hm]), ctlRead_latchClk, hv]

theorem ctlrd_refused (h : Admitted (.sysCtlrd a b) .control s)
    (hn : ¬ (s.frag.trapMode = true ∨ isUserWord (readSrc (latchClk s [b]) b 0).toNat = true) ∨
      ctlRead s (readSrc (latchClk s [b]) b 0).toNat = none) :
    exec (.sysCtlrd a b) s = .next (takeTrap s 0x08 false) := by
  have hx : exec (.sysCtlrd a b) s = execSysCtlrd a b s := rfl
  rw [hx, execSysCtlrd, checked_admitted _ h, show uniformCodes (.sysCtlrd a b) = [b] from rfl, latchClk_frag]
  dsimp only
  rcases hn with hn | hn
  · rw [if_pos (by simpa using hn)]
  · rw [ctlRead_latchClk, hn, ite_self]

/-- A scalar register of the latched state written, and the fragment gone on. -/
theorem onlyScalars_latched (s : State) (codes : List (BitVec 8)) (r : Nat) (x : Word) :
    OnlyScalars s (advance (writeS (latchClk s codes) r x)) [r] ∧
      scalarReg (advance (writeS (latchClk s codes) r x)) r = x := by
  refine ⟨⟨?_, (latchClk_kept s codes).trans ((writeS_kept _ r x).trans (advance_kept _)), fun j hj => ?_,
    fun _ _ _ _ => ?_,
    fun k _ => ?_, fun l => ?_, ?_⟩, ?_⟩
  · simp [GoesOn, writeS]
  · rw [advance_scalarReg, writeS_reg, if_neg (by simpa using hj)]
    simp [scalarReg]
  · simp [laneReg, writeS]
  · simp [readM, writeS]
  · simp [readRng, writeS]
  · simp [writeS]
  · rw [advance_scalarReg, writeS_reg, if_pos rfl]

theorem wordsRead338_holds : wordsRead338 := fun s _ b h =>
  ⟨fun v hm hv => ⟨_, ctlrd_reads h hm ((ctlRead_iff s _ v).2 hv), onlyScalars_latched s [b] _ v⟩,
    fun hn => ctlrd_refused h (hn.imp_right ctlRead_none)⟩

end

end Sys2Proof.Machine
end

section
/-! The control words that CTLWR writes without a check (R200, R310, R338, R340, R428). -/

namespace Sys2Proof.Machine

/-! ### What CTLWR does with the outcome of the write (R260, R338) -/

section
variable {s t : State} {a b : BitVec 8}

theorem ctlwr_writes (h : Admitted (.sysCtlwr a b) .control s) (ht : s.frag.trapMode = true)
    (hw : ctlWrite (latchClk s [a, b]) (readSrc (latchClk s [a, b]) b 0).toNat (readSrc (latchClk s [a, b]) a 0) = some t)
    (hh : hubsHeld s.dev s.crew.ctx (readSrc (latchClk s [a, b]) b 0).toNat = false) :
    exec (.sysCtlwr a b) s = .next (advance t) := by
  have hx : exec (.sysCtlwr a b) s = execSysCtlwr a b s := rfl
  rw [hx, execSysCtlwr, inTrapMode, if_pos ht, checked_admitted _ h, show uniformCodes (.sysCtlwr a b) = [a, b] from rfl]
  dsimp only
  rw [hw, latchClk_dev, latchClk_crew, hh]
  rfl

theorem ctlwr_refused (h : Admitted (.sysCtlwr a b) .control s) (ht : s.frag.trapMode = true)
    (hw : ctlWrite (latchClk s [a, b]) (readSrc (latchClk s [a, b]) b 0).toNat (readSrc (latchClk s [a, b]) a 0) = none) :
    exec (.sysCtlwr a b) s = .next (takeTrap (latchClk s [a, b]) 0x08 false) := by
  have hx : exec (.sysCtlwr a b) s = execSysCtlwr a b s := rfl
  rw [hx, execSysCtlwr, inTrapMode, if_pos ht, checked_admitted _ h, show uniformCodes (.sysCtlwr a b) = [a, b] from rfl]
  dsimp only
  rw [hw]

theorem ctlwr_stalls (h : Admitted (.sysCtlwr a b) .control s) (ht : s.frag.trapMode = true)
    (hw : ctlWrite (latchClk s [a, b]) (readSrc (latchClk s [a, b]) b 0).toNat (readSrc (latchClk s [a, b]) a 0) = some t)
    (hh : hubsHeld s.dev s.crew.ctx (readSrc (latchClk s [a, b]) b 0).toNat = true) :
    exec (.sysCtlwr a b) s = .next (stall (latchClk s [a, b])) := by
  have hx : exec (.sysCtlwr a b) s = execSysCtlwr a b s := rfl
  rw [hx, execSysCtlwr, inTrapMode, if_pos ht, checked_admitted _ h, show uniformCodes (.sysCtlwr a b) = [a, b] from rfl]
  dsimp only
  rw [hw, latchClk_dev, latchClk_crew, hh]
  rfl

end

theorem hubsHeld_outside {d : Dev} {slot n : Nat} (h : ¬ (0x520 ≤ n ∧ n < 0x530)) : hubsHeld d slot n = false := by
  rcases not_and_or.1 h with h | h <;> simp [hubsHeld, h]

/-! ### Words that are not written -/

theorem ite_some_none {c : Prop} [Decidable c] {x : Word} {y : Option Word} (h : (if c then some x else y) = none) :
    ¬ c ∧ y = none := by
  split at h
  · exact nomatch h
  next hc => exact ⟨hc, h⟩

theorem ctlWrite_readOnly {s : State} {n : Nat} {x : Word} (h : isReadOnly n = true) : ctlWrite s n x = none := by
  rw [ctlWrite, if_pos h]

/-- A number that names no word is not written either. -/
theorem ctlWrite_none {s : State} {n : Nat} {x : Word} (h : ctlRead s n = none) : ctlWrite s n x = none := by
  simp only [ctlRead] at h
  obtain ⟨hc, h⟩ := ite_some_none h
  obtain ⟨hmx, h⟩ := ite_some_none h
  obtain ⟨h410, h⟩ := ite_some_none h
  obtain ⟨h411, h⟩ := ite_some_none h
  obtain ⟨h412, h⟩ := ite_some_none h
  obtain ⟨-, h⟩ := ite_some_none h
  obtain ⟨h414, h⟩ := ite_some_none h
  obtain ⟨h417, h⟩ := ite_some_none h
  obtain ⟨h418, h⟩ := ite_some_none h
  obtain ⟨-, h⟩ := ite_some_none h
  obtain ⟨-, h⟩ := ite_some_none h
  obtain ⟨-, h⟩ := ite_some_none h
  obtain ⟨h701, h⟩ := ite_some_none h
  obtain ⟨h702, -⟩ := ite_some_none h
  rw [ctlWrite, if_neg hc, if_neg hmx, if_neg h701, if_neg h702, fragWrite, if_neg h410, if_neg h411, if_neg h412,
    if_neg h414, if_neg h417, if_neg h418, Option.map_none, ite_self]

/-! ### Words of the fragment -/

theorem wordMask_bit (w i : Nat) : (BitVec.ofNat w 0xFFFFFFFF).getLsbD i = decide (i < w ∧ i < 32) := by
  rw [BitVec.getLsbD_ofNat, show (0xFFFFFFFF : Nat) = 2 ^ 32 - 1 from rfl, Nat.testBit_two_pow_sub_one]
  simp

theorem epc_low (e : DWord) (x : Word) :
    e.extractLsb' 32 32 ++ x = (e &&& ~~~0xFFFFFFFF#64) ||| x.setWidth 64 := by
  refine BitVec.eq_of_getLsbD_eq fun i hi => ?_
  simp only [BitVec.getLsbD_append, BitVec.getLsbD_or, BitVec.getLsbD_and, BitVec.getLsbD_not, wordMask_bit,
    BitVec.getLsbD_setWidth, BitVec.getLsbD_extractLsb']
  by_cases h : i < 32
  · simp [h, hi]
  · simp [h, hi, show 32 + (i - 32) = i by omega, show i - 32 < 32 by omega,
      BitVec.getLsbD_of_ge x i (by omega)]

theorem epc_high (e : DWord) (x : Word) :
    x ++ e.extractLsb' 0 32 = (e &&& 0xFFFFFFFF#64) ||| (x.setWidth 64 <<< 32) := by
  refine BitVec.eq_of_getLsbD_eq fun i hi => ?_
  simp only [BitVec.getLsbD_append, BitVec.getLsbD_or, BitVec.getLsbD_and, wordMask_bit,
    BitVec.getLsbD_shiftLeft, BitVec.getLsbD_setWidth, BitVec.getLsbD_extractLsb']
  by_cases h : i < 32
  · simp [h, hi]
  · simp [h, hi, show i - 32 < 64 by omega]

theorem eexec_bit (e : Lanes) (x : Word) (j k : Nat) (hk : k < 96) :
    ((e &&& ~~~(0xFFFFFFFF#96 <<< (32 * j))) ||| (x.setWidth 96 <<< (32 * j))).getLsbD k =
      if k / 32 = j then x.getLsbD (k % 32) else e.getLsbD k := by
  simp only [BitVec.getLsbD_or, BitVec.getLsbD_and, BitVec.getLsbD_not, BitVec.getLsbD_shiftLeft, wordMask_bit,
    BitVec.getLsbD_setWidth]
  by_cases h : k / 32 = j
  · subst h
    have hm : k - 32 * (k / 32) = k % 32 := by omega
    simp [hm, hk, show ¬ k < 32 * (k / 32) by omega, show k % 32 < 32 by omega, show k % 32 < 96 by omega]
  · by_cases hlt : k < 32 * j
    · simp [h, hlt, hk]
    · simp [h, hlt, hk, show ¬ k - 32 * j < 32 by omega, show 32 ≤ k - 32 * j by omega]

section
variable {s : State} {a b : BitVec 8}

/-- A write to a word of the fragment leaves all else, and the fragment goes on. -/
theorem ctlwr_frag (h : Admitted (.sysCtlwr a b) .control s) (ht : s.frag.trapMode = true) (g : Frag → Frag)
    (hw : ctlWrite (latchClk s [a, b]) (readSrc (latchClk s [a, b]) b 0).toNat (readSrc (latchClk s [a, b]) a 0) =
      some { latchClk s [a, b] with frag := g (latchClk s [a, b]).frag })
    (hh : ¬ (0x520 ≤ (readSrc (latchClk s [a, b]) b 0).toNat ∧ (readSrc (latchClk s [a, b]) b 0).toNat < 0x530))
    (hb : curParcels (g s.frag) = curParcels s.frag) :
    exec (.sysCtlwr a b) s =
      .next { latchClk s [a, b] with frag := pastParcels (g s.frag) (curParcels s.frag) s.clk } := by
  rw [ctlwr_writes h ht hw (hubsHeld_outside hh), advance]
  dsimp only
  rw [latchClk_frag, latchClk_clk, hb]

end

theorem ctlWrite_epcLow (s : State) (x : Word) : ctlWrite s 0x410 x = some { s with frag := { s.frag with
    epc := (s.frag.epc &&& ~~~0xFFFFFFFF#64) ||| (x &&& 0xFFFFFFFC#32).setWidth 64 } } := by
  rw [← epc_low]
  rfl

theorem ctlWrite_epcHigh (s : State) (x : Word) : ctlWrite s 0x411 x = some { s with frag := { s.frag with
    epc := (s.frag.epc &&& 0xFFFFFFFF#64) ||| (x.setWidth 64 <<< 32) } } := by
  rw [← epc_high]
  rfl

theorem ctlWrite_eexec {n : Nat} (h : 0x414 ≤ n ∧ n ≤ 0x416) (s : State) (x : Word) :
    ctlWrite s n x = some { s with frag := { s.frag with eexec :=
      (s.frag.eexec &&& ~~~(0xFFFFFFFF#96 <<< (32 * (n - 0x414)))) ||| (x.setWidth 96 <<< (32 * (n - 0x414))) } } := by
  obtain ⟨hl, hu⟩ := h
  interval_cases n <;> rfl

theorem ctlWrite_efmt (s : State) (x : Word) :
    ctlWrite s 0x417 x = if fmtLegal x then some { s with frag := { s.frag with efmt := x } } else none := by
  have hw : ctlWrite s 0x417 x =
    (if fmtLegal x then some { s.frag with efmt := x } else none).map fun f => { s with frag := f } := rfl
  rw [hw]
  split <;> rfl

theorem ctlWrite_esave {n : Nat} (h : 0x418 ≤ n ∧ n ≤ 0x41F) (s : State) (x : Word) :
    ctlWrite s n x = some { s with frag := { s.frag with esave := tabSet 0#32 s.frag.esave (n - 0x418) x } } := by
  obtain ⟨hl, hu⟩ := h
  interval_cases n <;> rfl

theorem ctlWrite_mx {n : Nat} (h : 0x310 ≤ n ∧ n ≤ 0x314) (s : State) (x : Word) :
    ctlWrite s n x = some { s with crew := { s.crew with mx := tabSet 0 s.crew.mx (n - 0x310) x.toNat } } := by
  obtain ⟨hl, hu⟩ := h
  interval_cases n <;> rfl

/-! ### Words of the context (R310, R340) -/

theorem ctlWrite_context {s t : State} {n : Nat} {x : Word} (hr : isReadOnly n = false) (hc : isCtxWord n = true)
    (h : ctxWrite (stow s) s.crew.ctx n x = some t) : ctlWrite s n x = some (focusOn t (selfRef s)) := by
  rw [ctlWrite, hr, if_neg Bool.false_ne_true, if_pos hc, h, Option.map_some]

section
variable {s : State} {slot n : Nat} {x : Word}

theorem ctxWrite_plain (hr : isReadOnly n = false) (hc : isCtxWord n = true) (hs : isReservedWord n = false)
    (hw : ¬ (0x520 ≤ n ∧ n < 0x530)) (hp : ¬ (0x610 ≤ n ∧ n < 0x621)) (hj : n ≠ 0x631) :
    ctxWrite s slot n x = some { s with dev := putCtxWord s.dev s.nfree slot n (ctlMask n x) } := by
  have hp1 : ¬ (0x610 ≤ n ∧ n < 0x620) := by omega
  have hp2 : n ≠ 0x620 := by omega
  simp [ctxWrite, hr, hc, hs, hw, hp1, hp2, hj]

theorem ctxWrite_clears :
    ctxWrite s slot 0x620 x =
      some { s with dev := putCtxWord s.dev s.nfree slot 0x620 (slotWord s.dev slot 0x620 &&& ~~~x) } := rfl

end

/-- A device whose contexts are those of another with one word set. -/
theorem slotWord_of_put {d d0 e : Dev} {clk slot n : Nat} {x : Word}
    (he : e.contexts = (putCtxWord d clk slot n x).contexts)
    (hd : d.contexts = d0.contexts) :
    (∀ k, slotWord e slot k = if k = n then x else slotWord d0 slot k) ∧
      ∀ c k, c ≠ slot → slotWord e c k = slotWord d0 c k := by
  refine ⟨fun k => ?_, fun c k hc => ?_⟩
  · rw [slotWord_of_contexts he, slotWord_putCtxWord, slotWord_of_contexts hd]
    simp
  · rw [slotWord_of_contexts he, slotWord_putCtxWord, slotWord_of_contexts hd, if_neg fun h => hc h.1]

section
variable {s t : State} {a b : BitVec 8}

theorem ctlwr_context (h : Admitted (.sysCtlwr a b) .control s) (ht : s.frag.trapMode = true)
    (hr : isReadOnly (readSrc (latchClk s [a, b]) b 0).toNat = false)
    (hc : isCtxWord (readSrc (latchClk s [a, b]) b 0).toNat = true)
    (hh : hubsHeld s.dev s.crew.ctx (readSrc (latchClk s [a, b]) b 0).toNat = false)
    (hw : ctxWrite (stow (latchClk s [a, b])) s.crew.ctx (readSrc (latchClk s [a, b]) b 0).toNat
      (readSrc (latchClk s [a, b]) a 0) = some t) :
    exec (.sysCtlwr a b) s = .next (advance (focusOn t (selfRef (latchClk s [a, b])))) :=
  ctlwr_writes h ht (ctlWrite_context hr hc (by rw [latchClk_crew]; exact hw)) hh

/-- What a write that sets a word of the context leaves, whatever then comes into focus. -/
theorem ctlwr_puts {d : Dev} {clk k : Nat} {y : Word} (h : Admitted (.sysCtlwr a b) .control s)
    (ht : s.frag.trapMode = true) (hr : isReadOnly (readSrc (latchClk s [a, b]) b 0).toNat = false)
    (hc : isCtxWord (readSrc (latchClk s [a, b]) b 0).toNat = true)
    (hh : hubsHeld s.dev s.crew.ctx (readSrc (latchClk s [a, b]) b 0).toNat = false)
    (hw : ctxWrite (stow (latchClk s [a, b])) s.crew.ctx (readSrc (latchClk s [a, b]) b 0).toNat
      (readSrc (latchClk s [a, b]) a 0) = some t)
    (hd : t.dev = putCtxWord d clk s.crew.ctx k y) (hctx : d.contexts = s.dev.contexts) :
    ∃ v, exec (.sysCtlwr a b) s = .next v ∧
      ((∀ j, slotWord v.dev s.crew.ctx j = if j = k then y else slotWord s.dev s.crew.ctx j) ∧
        ∀ c j, c ≠ s.crew.ctx → slotWord v.dev c j = slotWord s.dev c j) ∧
      v.dev.hubs = d.hubs ∧ v.dev.mem = d.mem := by
  refine ⟨_, ctlwr_context h ht hr hc hh hw, slotWord_of_put (clk := clk) ?_ hctx, ?_, ?_⟩
  · rw [advance_dev, focusOn_contexts, hd]
  · rw [advance_dev, focusOn_hubs, hd]
    rfl
  · rw [advance_dev, focusOn_memory, hd]
    rfl

end

theorem pastParcels_setEexec (f : Frag) (e : Lanes) (n clk : Nat) :
    pastParcels { f with eexec := e } n clk = { pastParcels f n clk with eexec := e } := by
  unfold pastParcels
  split <;> rfl

theorem wordsWritten338_holds : wordsWritten338 := by
  intro s a b h ht u n x gone
  have hlatch : ∀ y, (stow (latchClk s y)).dev.contexts = s.dev.contexts := by simp
  have hmem : ∀ y, (stow (latchClk s y)).dev.mem = s.dev.mem := by simp
  refine ⟨fun hn => ctlwr_refused h ht ?_, fun hn => ?_, fun hn => ?_, fun hn => ?_, fun hl hu => ?_, fun hn hf => ?_,
    fun hn hf => ctlwr_refused h ht ?_, fun hl hu => ?_, fun hl hu => ?_, fun hc hr hs hwin hwp hj => ?_, fun hn => ?_⟩
  · rcases hn with hn | hn
    · refine ctlWrite_readOnly ?_
      simpa [isReadOnly, or_assoc] using hn
    · refine ctlWrite_none ((ctlRead_latchClk s _ _).trans (ctlRead_none hn))
  · exact ctlwr_frag h ht
      (fun f => { f with epc := (f.epc &&& ~~~0xFFFFFFFF#64) ||| (x &&& 0xFFFFFFFC#32).setWidth 64 })
      ((congrArg (ctlWrite u · x) hn).trans (ctlWrite_epcLow u x)) (by change ¬ (_ ≤ n ∧ n < _); omega) rfl
  · exact ctlwr_frag h ht (fun f => { f with epc := (f.epc &&& 0xFFFFFFFF#64) ||| (x.setWidth 64 <<< 32) })
      ((congrArg (ctlWrite u · x) hn).trans (ctlWrite_epcHigh u x)) (by change ¬ (_ ≤ n ∧ n < _); omega) rfl
  · exact ctlwr_frag h ht (fun f => { f with epar := x &&& 0x7F#32 })
      ((congrArg (ctlWrite u · x) hn).trans rfl) (by change ¬ (_ ≤ n ∧ n < _); omega) rfl
  · refine ⟨_, ctlwr_frag h ht (fun f => { f with eexec :=
      (f.eexec &&& ~~~(0xFFFFFFFF#96 <<< (32 * (n - 0x414)))) ||| (x.setWidth 96 <<< (32 * (n - 0x414))) })
      (ctlWrite_eexec ⟨hl, hu⟩ u x) (by change ¬ (_ ≤ n ∧ n < _); omega) rfl, fun k hk => ?_, ?_, rfl,
      latchClk_crew s [a, b], latchClk_dev s [a, b]⟩
    · dsimp only
      rw [pastParcels_setEexec]
      exact eexec_bit _ _ _ _ hk
    · simp only [gone, pastParcels_setEexec]
  · exact ctlwr_frag h ht (fun f => { f with efmt := x })
      ((congrArg (ctlWrite u · x) hn).trans ((ctlWrite_efmt u x).trans (if_pos hf)))
      (by change ¬ (_ ≤ n ∧ n < _); omega) rfl
  · exact (congrArg (ctlWrite u · x) hn).trans ((ctlWrite_efmt u x).trans (if_neg (by rw [hf]; exact Bool.false_ne_true)))
  · exact ctlwr_frag h ht (fun f => { f with esave := tabSet 0#32 f.esave (n - 0x418) x })
      (ctlWrite_esave ⟨hl, hu⟩ u x) (by change ¬ (_ ≤ n ∧ n < _); omega) rfl
  · refine ⟨_, ctlwr_writes h ht (ctlWrite_mx ⟨hl, hu⟩ u x) (hubsHeld_outside (by change ¬ (_ ≤ n ∧ n < _); omega)),
      ?_, rfl, latchClk_dev s [a, b], fun k => ?_, ?_⟩
    · simp [gone, u]
    · rw [advance_crew, latchClk_crew]
      exact tabGet_tabSet ..
    · simp [u]
  · obtain ⟨v, hx, hv, -, hm⟩ := ctlwr_puts h ht hr hc (hubsHeld_outside hwin) (ctxWrite_plain hr hc hs hwin hwp hj)
      rfl (hlatch _)
    exact ⟨v, hx, hv.1, hv.2, fun p => byteAt_of_mem (hm.trans (hmem _)) p⟩
  · have h620 : (readSrc (latchClk s [a, b]) b 0).toNat = 0x620 := hn
    obtain ⟨v, hx, hv, -, -⟩ := ctlwr_puts h ht (by rw [h620]; rfl) (by rw [h620]; rfl)
      (hubsHeld_outside (by omega)) ((congrArg (ctxWrite _ _ · _) h620).trans ctxWrite_clears) rfl (hlatch _)
    refine ⟨v, hx, fun k => (hv.1 k).trans ?_⟩
    rw [hn, slotWord_of_contexts (hlatch _)]

end Sys2Proof.Machine
end

section
/-! The control words whose writes are checked or do more: windows, watchpoints, PREJH, CHBSZ and CHSNAP (R167, R260,
R332, R340, R428). -/

namespace Sys2Proof.Machine

/-! ### The hubs delivered before a window changes (R133, R134, R260) -/

/-- A device with the hubs and the control words of another. -/
def SameHubsAndWords (d e : Dev) : Prop := e.hubs = d.hubs ∧ e.contexts = d.contexts

theorem SameHubsAndWords.trans {d e f : Dev} (h : SameHubsAndWords d e) (k : SameHubsAndWords e f) :
    SameHubsAndWords d f :=
  ⟨k.1.trans h.1, k.2.trans h.2⟩

theorem sameHubsAndWords_foldl {α : Type} {f : Dev → α → Dev} (h : ∀ d x, SameHubsAndWords d (f d x)) :
    ∀ (l : List α) (d : Dev), SameHubsAndWords d (l.foldl f d)
  | [], _ => ⟨rfl, rfl⟩
  | x :: l, d => (h d x).trans (sameHubsAndWords_foldl h l (f d x))

theorem storeByte_hubsAndWords (key : Nat) (d : Dev) (pa : Nat) (b : Byte) :
    SameHubsAndWords d (storeByte key d pa b) := by
  unfold storeByte
  split
  · exact ⟨rfl, rfl⟩
  · dsimp only
    split <;> exact ⟨rfl, rfl⟩

theorem storeBytes_hubsAndWords (key : Nat) (bs : List Byte) :
    ∀ (d : Dev) (pa : Nat), SameHubsAndWords d (storeBytes key d pa bs) := by
  induction bs with
  | nil => exact fun _ _ => ⟨rfl, rfl⟩
  | cons b bs ih => exact fun d pa => (storeByte_hubsAndWords key d pa b).trans (ih _ _)

theorem touchLine_hubsAndWords (d : Dev) (n line : Nat) (own : Bool) (key : Nat) :
    SameHubsAndWords d (touchLine d n line own key) := by
  obtain ⟨p, hp⟩ := touchLine_pc d n line own key
  rw [hp]
  exact ⟨rfl, rfl⟩

theorem settleMem_hubsAndWords (d : Dev) (c : Crew) (o : Op) (m : MemOp) (n : Nat) (late : Option (Nat × Nat)) :
    SameHubsAndWords d (settleMem d c o m n late).1 := by
  unfold settleMem
  dsimp only
  split <;> exact ⟨rfl, rfl⟩

theorem updCrew_hubsAndWords (d : Dev) (uid : Nat) (f : Crew → Crew) : SameHubsAndWords d (updCrew d uid f) := ⟨rfl, rfl⟩

theorem hubDone_hubsAndWords (n : Nat) (d : Dev) (x : Nat × Nat × Nat × Nat) : SameHubsAndWords d (hubDone d n x) := by
  fun_cases hubDone
  case case4 => exact (settleMem_hubsAndWords ..).trans (updCrew_hubsAndWords ..)
  all_goals exact ⟨rfl, rfl⟩

theorem deliverHub_hubsAndWords (d : Dev) (n : Nat) (h : HubEntry) :
    SameHubsAndWords { d with hubs := d.hubs.filter (fun x => x != h) } (deliverHub d n h) := by
  unfold deliverHub
  dsimp only
  split
  · exact sameHubsAndWords_foldl (fun d _ => updCrew_hubsAndWords d ..) _ _
  · exact ((touchLine_hubsAndWords _ _ _ _ _).trans (storeBytes_hubsAndWords _ _ _ _)).trans
      (sameHubsAndWords_foldl (hubDone_hubsAndWords n) _ _)

/-- Hubs delivered one after another leave the words alone and none of themselves. -/
theorem deliverHubs_leave (n : Nat) (l : List HubEntry) : ∀ d : Dev,
    (l.foldl (fun d h => deliverHub d n h) d).contexts = d.contexts ∧
      ∀ h ∈ (l.foldl (fun d h => deliverHub d n h) d).hubs, h ∈ d.hubs ∧ h ∉ l := by
  induction l with
  | nil => exact fun d => ⟨rfl, fun h hh => ⟨hh, List.not_mem_nil⟩⟩
  | cons e l ih =>
    intro d
    obtain ⟨hh, hc⟩ := deliverHub_hubsAndWords d n e
    obtain ⟨ihc, ihh⟩ := ih (deliverHub d n e)
    refine ⟨ihc.trans hc, fun h hm => ?_⟩
    obtain ⟨hd, hl⟩ := ihh h hm
    rw [hh] at hd
    obtain ⟨hd, he⟩ := List.mem_filter.1 hd
    exact ⟨hd, by simpa [hl] using he⟩

section
variable (d : Dev) (slot n : Nat)

theorem flushHubs_contexts : (flushHubs d slot n).contexts = d.contexts := (deliverHubs_leave n _ d).1

variable {d slot}

/-- None of the context's combinations waits for a key: none is left. -/
theorem flushHubs_none_left (h : ∀ e ∈ d.hubs, slot ∈ e.slots → keyWaits d e.key = false) :
    ∀ e ∈ (flushHubs d slot n).hubs, slot ∉ e.slots := by
  intro e he hs
  obtain ⟨hd, hn⟩ := (deliverHubs_leave n _ d).2 e he
  exact hn (List.mem_filter.2 ⟨hd, by simp [hs, h e hd hs]⟩)

theorem flushHubs_idle (h : ∀ e ∈ d.hubs, slot ∉ e.slots) : flushHubs d slot n = d := by
  have hl : d.hubs.filter (fun e => e.slots.contains slot && !keyWaits d e.key) = [] :=
    List.filter_eq_nil_iff.2 fun e he => by simp [h e he]
  rw [flushHubs, hl, List.foldl_nil]

end

/-! ### The conditions of the checked words (R260, R332, R340, R428) -/

theorem windowBad_iff (d : Dev) (slot n : Nat) (x : Word) :
    windowBad d slot n (ctlMask n x) = true ↔ windowRefused d slot n x := by
  simp only [windowBad, windowWith, windowRefused, wordAfter, Bool.and_eq_true, Bool.or_eq_true, List.any_eq_true,
    List.mem_range, beq_iff_eq, bne_iff_ne, decide_eq_true_eq, eq_comm (a := n), Nat.add_zero, and_assoc, ne_eq]

theorem watchWordSound_iff (d : Dev) {slot n : Nat} (x : Word) (h : 0x610 ≤ n) :
    watchWordSound d slot n (ctlMask n x) = true ↔ watchKept d slot n x := by
  have hbase : 0x610 + 4 * ((n - 0x610) / 4) = n / 4 * 4 := by omega
  simp only [watchWordSound, watchSound, watchKept, wordAfter, hbase, Bool.and_eq_true, beq_iff_eq, decide_eq_true_eq,
    eq_comm (a := n), Nat.add_zero, and_assoc]

theorem chbszBad_iff (s : State) (v : Nat) : chbszBad s.crew v = true ↔ chbszRefused s v := by
  simp only [chbszBad, chbszRefused, Bool.or_eq_true, Bool.not_eq_true', bne_iff_ne, decide_eq_true_eq, or_assoc]

section
variable {d e : Dev} {slot n : Nat} {x : Word} (h : d.contexts = e.contexts)
include h

theorem wordAfter_of_contexts : wordAfter d slot n x = wordAfter e slot n x := by
  funext k
  rw [wordAfter, wordAfter, slotWord_of_contexts h]

theorem windowBad_iff_of_contexts : windowBad d slot n (ctlMask n x) = true ↔ windowRefused e slot n x := by
  rw [windowBad_iff]
  simp only [windowRefused, wordAfter_of_contexts h]

theorem watchWordSound_iff_of_contexts (hn : 0x610 ≤ n) :
    watchWordSound d slot n (ctlMask n x) = true ↔ watchKept e slot n x := by
  rw [watchWordSound_iff _ _ hn]
  simp only [watchKept, wordAfter_of_contexts h]

end

section
variable {s : State} {slot n : Nat} {x : Word}

theorem windowWord_kind (h : 0x520 ≤ n ∧ n < 0x530) (hn : n % 4 ≠ 3) :
    isReadOnly n = false ∧ isCtxWord n = true ∧ isReservedWord n = false := by
  obtain ⟨hl, hu⟩ := h
  revert hn
  interval_cases n <;> decide

theorem watchWord_kind (h : 0x610 ≤ n ∧ n < 0x620) :
    isReadOnly n = false ∧ isCtxWord n = true ∧ isReservedWord n = false := by
  obtain ⟨hl, hu⟩ := h
  interval_cases n <;> exact ⟨rfl, rfl, rfl⟩

theorem ctxWrite_window (h : 0x520 ≤ n ∧ n < 0x530) (hn : n % 4 ≠ 3) :
    ctxWrite s slot n x = if windowBad s.dev slot n (ctlMask n x) then none
      else some { s with dev := putCtxWord (flushHubs s.dev slot s.nfree) s.nfree slot n (ctlMask n x) } := by
  obtain ⟨hr, hc, hs⟩ := windowWord_kind h hn
  simp [ctxWrite, hr, hc, hs, h.1, h.2]

theorem ctxWrite_watch (h : 0x610 ≤ n ∧ n < 0x620) :
    ctxWrite s slot n x = if watchWordSound s.dev slot n (ctlMask n x) then
      some { s with dev := putCtxWord s.dev s.nfree slot n (ctlMask n x) } else none := by
  obtain ⟨hr, hc, hs⟩ := watchWord_kind h
  have hw : ¬ n < 0x530 := by omega
  simp [ctxWrite, hr, hc, hs, h.1, h.2, hw]

end

theorem hubsHeld_window {d : Dev} {slot n : Nat} (h : 0x520 ≤ n ∧ n < 0x530) (hn : n % 4 ≠ 3) :
    hubsHeld d slot n = true ↔ ∃ e ∈ d.hubs, slot ∈ e.slots ∧ keyWaits d e.key = true := by
  obtain ⟨-, -, hs⟩ := windowWord_kind h hn
  simp [hubsHeld, h.1, h.2, hs]

theorem ctlWrite_context_none {s : State} {n : Nat} {x : Word} (hc : isCtxWord n = true)
    (h : ctxWrite (stow s) s.crew.ctx n x = none) : ctlWrite s n x = none := by
  rw [ctlWrite, if_pos hc, h, Option.map_none, ite_self]

/-! ### PREJH (R167) -/

/-- The crew in focus with its waves and their fragments put back. -/
def stowedCrew (s : State) : Crew :=
  { s.crew with waves := insertWave { s.wave with frags := insertFrag s.frag s.wave.frags } s.crew.waves }

theorem stow_crews {s : State} (h : s.active = true) :
    (stow s).dev.crews = insertCrew (stowedCrew s) s.dev.crews := by
  rw [stow, if_pos h]
  rfl

/-- A crew put among others and taken out again. -/
theorem insertCrew_filter {p : Crew → Bool} {c : Crew} {l : List Crew} (hc : p c = false) (hl : ∀ x ∈ l, p x = true) :
    (insertCrew c l).filter p = l := by
  induction l with
  | nil => simp [insertCrew, hc]
  | cons g rest ih =>
    rw [insertCrew]
    split
    · rw [List.filter_cons_of_neg (by simp [hc]), List.filter_eq_self.2 hl]
    · rw [List.filter_cons_of_pos (hl g List.mem_cons_self), ih fun x hx => hl x (List.mem_cons_of_mem g hx)]

theorem insertCrew_find {p : Crew → Bool} {c : Crew} {l : List Crew} (hc : p c = true) (hl : ∀ x ∈ l, p x = false) :
    (insertCrew c l).find? p = some c := by
  induction l with
  | nil => simp [insertCrew, hc]
  | cons g rest ih =>
    rw [insertCrew]
    split
    · exact List.find?_cons_of_pos hc
    · rw [List.find?_cons_of_neg (by simp [hl g]), ih fun x hx => hl x (List.mem_cons_of_mem g hx)]

theorem insertWave_find {p : Wave → Bool} {w : Wave} {l : List Wave} (hw : p w = true) (hl : ∀ x ∈ l, p x = false) :
    (insertWave w l).find? p = some w := by
  induction l with
  | nil => simp [insertWave, hw]
  | cons g rest ih =>
    rw [insertWave]
    split
    · exact List.find?_cons_of_pos hw
    · rw [List.find?_cons_of_neg (by simp [hl g]), ih fun x hx => hl x (List.mem_cons_of_mem g hx)]

theorem insertFrag_finds (f : Frag) (l : List Frag) : ∃ g, (insertFrag f l).find? (fun x => x.id == f.id) = some g :=
  Option.isSome_iff_exists.1 (List.find?_isSome.2 ⟨f, (insertFrag_perm f l).mem_iff.2 List.mem_cons_self,
    beq_self_eq_true _⟩)

/-- The crews, asked for something while nothing is in focus, and the one in focus taken out again. -/
theorem focusOn_asked {s u : State} (h : focusApart s) {f : Crew → Crew} (huid : ∀ c, (f c).uid = c.uid)
    (hwaves : ∀ c, (f c).waves = c.waves) (hu : u.dev.crews = (stow s).dev.crews.map f) :
    (focusOn u (selfRef s)).dev.crews = s.dev.crews.map f ∧
      { (focusOn u (selfRef s)).crew with waves := [] } = { f (stowedCrew s) with waves := [] } := by
  obtain ⟨hact, hcrews, hidx⟩ := h
  have hc : findCrew u.dev s.crew.uid = some (f (stowedCrew s)) := by
    have hp : (fun c => c.uid == s.crew.uid) ∘ f = fun c => c.uid == s.crew.uid := by
      funext c; simp [huid]
    rw [findCrew, hu, stow_crews hact, List.find?_map, hp,
      insertCrew_find (p := fun c => c.uid == s.crew.uid) (c := stowedCrew s) (beq_self_eq_true s.crew.uid)
        fun x hx => by simpa using hcrews x hx]
    rfl
  have hw : findWave (f (stowedCrew s)) s.wave.idx = some { s.wave with frags := insertFrag s.frag s.wave.frags } := by
    rw [findWave, hwaves, stowedCrew]
    exact insertWave_find (p := fun w => w.idx == s.wave.idx) (beq_self_eq_true s.wave.idx) fun x hx => by
      simpa using hidx x hx
  obtain ⟨g, hg⟩ := insertFrag_finds s.frag s.wave.frags
  have hf : findFrag { s.wave with frags := insertFrag s.frag s.wave.frags } s.frag.id = some g := hg
  simp only [focusOn, selfRef, hc, hw, hf, and_true]
  have hp : (fun c => c.uid != s.crew.uid) ∘ f = fun c => c.uid != s.crew.uid := by
    funext c; simp [huid]
  rw [hu, stow_crews hact, List.filter_map, hp,
    insertCrew_filter (by simp [stowedCrew]) fun x hx => by simpa using hcrews x hx]

theorem focusApart_latchClk {s : State} (h : focusApart s) (codes : List (BitVec 8)) : focusApart (latchClk s codes) := by
  simpa [focusApart] using h

/-- R167: what PREJH does to a crew. -/
def askedFor (clk slot : Nat) (job : DWord) (c : Crew) : Crew :=
  if c.ctx == slot && (job == 0#64 || c.job == job) then requestCrew clk none c else c

theorem askedFor_uid (clk slot : Nat) (job : DWord) (c : Crew) : (askedFor clk slot job c).uid = c.uid := by
  unfold askedFor requestCrew
  split
  · split <;> rfl
  · rfl

theorem askedFor_waves (clk slot : Nat) (job : DWord) (c : Crew) : (askedFor clk slot job c).waves = c.waves := by
  unfold askedFor requestCrew
  split
  · split <;> rfl
  · rfl

theorem askedFor_apart (clk slot : Nat) (job : DWord) (c : Crew) (ws : List Wave) :
    { askedFor clk slot job { c with waves := ws } with waves := [] } = { askedFor clk slot job c with waves := [] } := by
  unfold askedFor requestCrew
  dsimp only
  split
  · split <;> rfl
  · rfl

theorem askedFor_eq (clk slot : Nat) (job : DWord) (c : Crew) : askedFor clk slot job c =
    if c.ctx = slot ∧ (job = 0#64 ∨ c.job = job) ∧ c.state = .running
      then { c with state := .requested, preq := some (clk + c.deadline), preqFor := none } else c := by
  simp only [askedFor, requestCrew, ← and_assoc, ite_and, Bool.and_eq_true, Bool.or_eq_true, beq_iff_eq]

/-- PREJH written, with nothing in focus. -/
def prejhAsked (s : State) (slot : Nat) (x : Word) : State :=
  { s with dev := preemptCrews s.dev s.clk slot (x ++ slotWord s.dev slot 0x630) }

theorem ctxWrite_prejh (s : State) (slot : Nat) (x : Word) : ctxWrite s slot 0x631 x = some (prejhAsked s slot x) := rfl

theorem prejhAsked_crews (s : State) (slot : Nat) (x : Word) : (prejhAsked s slot x).dev.crews =
    s.dev.crews.map (askedFor s.clk slot (x ++ slotWord s.dev slot 0x630)) := rfl

section
variable {s : State} {a b : BitVec 8}

theorem ctlwr_prejh (h : Admitted (.sysCtlwr a b) .control s) (ht : s.frag.trapMode = true)
    (hn : (readSrc (latchClk s [a, b]) b 0).toNat = 0x631) (hf : focusApart s) :
    let asked := askedFor s.clk s.crew.ctx (readSrc (latchClk s [a, b]) a 0 ++ slotWord s.dev s.crew.ctx 0x630)
    ∃ t, exec (.sysCtlwr a b) s = .next t ∧ t.dev.contexts = s.dev.contexts ∧
      t.dev.crews = s.dev.crews.map asked ∧ { t.crew with waves := [] } = { asked s.crew with waves := [] } := by
  intro asked
  have hasked : (prejhAsked (stow (latchClk s [a, b])) s.crew.ctx (readSrc (latchClk s [a, b]) a 0)).dev.crews =
      (stow (latchClk s [a, b])).dev.crews.map asked := by
    rw [prejhAsked_crews, stow_clk, latchClk_clk, slotWord_of_contexts (e := s.dev) (by simp)]
  obtain ⟨hcrews, hcrew⟩ := focusOn_asked (focusApart_latchClk hf [a, b]) (askedFor_uid _ _ _)
    (askedFor_waves _ _ _) hasked
  refine ⟨_, ctlwr_context h ht (by rw [hn]; rfl) (by rw [hn]; rfl) (hubsHeld_outside (by omega))
    (by rw [hn]; exact ctxWrite_prejh ..), ?_, ?_, ?_⟩
  · rw [advance_dev, focusOn_contexts]
    simp [prejhAsked, preemptCrews]
  · rw [advance_dev, hcrews, latchClk_dev]
  · rw [advance_crew, hcrew, stowedCrew, askedFor_apart, latchClk_crew]

theorem ctlwr_chbsz (h : Admitted (.sysCtlwr a b) .control s) (ht : s.frag.trapMode = true)
    (hn : (readSrc (latchClk s [a, b]) b 0).toNat = 0x701) :
    exec (.sysCtlwr a b) s = .next (
      if chbszBad s.crew (readSrc (latchClk s [a, b]) a 0).toNat then takeTrap (latchClk s [a, b]) 0x08 false
      else { latchClk s [a, b] with
        frag := pastParcels s.frag (curParcels s.frag) s.clk
        crew := { s.crew with chain := { s.crew.chain with bsz := (readSrc (latchClk s [a, b]) a 0).toNat } } }) := by
  have hw (u : State) (x : Word) : ctlWrite u 0x701 x = if chbszBad u.crew x.toNat then none
    else some { u with crew := { u.crew with chain := { u.crew.chain with bsz := x.toNat } } } := rfl
  split
  next hb => exact ctlwr_refused h ht (by rw [hn, hw, latchClk_crew, if_pos hb])
  next hb =>
    rw [ctlwr_writes h ht (by rw [hn, hw, latchClk_crew, if_neg hb]) (hubsHeld_outside (by omega)), advance]
    simp only [latchClk_frag, latchClk_clk]

theorem ctlwr_chsnap (h : Admitted (.sysCtlwr a b) .control s) (ht : s.frag.trapMode = true)
    (hn : (readSrc (latchClk s [a, b]) b 0).toNat = 0x702) :
    exec (.sysCtlwr a b) s = .next { latchClk s [a, b] with
      frag := pastParcels s.frag (curParcels s.frag) s.clk
      crew := { s.crew with chain := { s.crew.chain with snap := (readSrc (latchClk s [a, b]) a 0).toNat } } } := by
  have hw (u : State) (x : Word) : ctlWrite u 0x702 x =
    some { u with crew := { u.crew with chain := { u.crew.chain with snap := x.toNat } } } := rfl
  rw [ctlwr_writes h ht (by rw [hn, hw]) (hubsHeld_outside (by omega)), advance]
  simp only [latchClk_frag, latchClk_clk, latchClk_crew]

end

/-! ### The window and watchpoint words written (R260, R332) -/

section
variable {s : State} {a b : BitVec 8} {n : Nat} {x : Word} (h : Admitted (.sysCtlwr a b) .control s)
  (ht : s.frag.trapMode = true) (hn : (readSrc (latchClk s [a, b]) b 0).toNat = n)
  (hx : readSrc (latchClk s [a, b]) a 0 = x)

/-- What CTLWR leaves of the contexts: word n of its own context is set. -/
def SetsWord (s t : State) (n : Nat) (x : Word) : Prop :=
  (∀ k, slotWord t.dev s.crew.ctx k = if k = n then ctlMask n x else slotWord s.dev s.crew.ctx k) ∧
    ∀ c k, c ≠ s.crew.ctx → slotWord t.dev c k = slotWord s.dev c k

theorem ctxWrite_windowWord {u : State} (hin : 0x520 ≤ n ∧ n < 0x530) (h3 : n % 4 ≠ 3)
    (hu : u.dev.contexts = s.dev.contexts)
    (hb : ¬ windowRefused s.dev s.crew.ctx n x) : ctxWrite u s.crew.ctx n x =
      some { u with dev := putCtxWord (flushHubs u.dev s.crew.ctx u.nfree) u.nfree s.crew.ctx n (ctlMask n x) } := by
  rw [ctxWrite_window hin h3, if_neg (mt (windowBad_iff_of_contexts hu).1 hb)]

include h ht hn hx

theorem ctlwr_windowRefused (hin : 0x520 ≤ n ∧ n < 0x530) (h3 : n % 4 ≠ 3)
    (hb : windowRefused s.dev s.crew.ctx n x) :
    exec (.sysCtlwr a b) s = .next (takeTrap (latchClk s [a, b]) 0x08 false) := by
  subst hn hx
  obtain ⟨-, hc, -⟩ := windowWord_kind hin h3
  refine ctlwr_refused h ht (ctlWrite_context_none hc ?_)
  rw [latchClk_crew, ctxWrite_window hin h3, if_pos ((windowBad_iff_of_contexts (e := s.dev) (by simp)).2 hb)]

theorem ctlwr_windowWaits (hin : 0x520 ≤ n ∧ n < 0x530) (h3 : n % 4 ≠ 3) (hb : ¬ windowRefused s.dev s.crew.ctx n x)
    (he : ∃ e ∈ s.dev.hubs, s.crew.ctx ∈ e.slots ∧ keyWaits s.dev e.key = true) :
    exec (.sysCtlwr a b) s = .next (stall (latchClk s [a, b])) := by
  subst hn hx
  obtain ⟨hr, hc, -⟩ := windowWord_kind hin h3
  exact ctlwr_stalls h ht (ctlWrite_context hr hc (by rw [latchClk_crew]; exact ctxWrite_windowWord hin h3 (by simp) hb))
    ((hubsHeld_window hin h3).2 he)

theorem ctlwr_windowSet (hin : 0x520 ≤ n ∧ n < 0x530) (h3 : n % 4 ≠ 3) (hb : ¬ windowRefused s.dev s.crew.ctx n x)
    (he : ∀ e ∈ s.dev.hubs, s.crew.ctx ∈ e.slots → keyWaits s.dev e.key = false) :
    ∃ t, exec (.sysCtlwr a b) s = .next t ∧ SetsWord s t n x ∧ (∀ e ∈ t.dev.hubs, s.crew.ctx ∉ e.slots) ∧
      ((∀ e ∈ s.dev.hubs, s.crew.ctx ∉ e.slots) → ∀ p, byteAt t.dev p = byteAt s.dev p) := by
  subst hn hx
  obtain ⟨hr, hc, -⟩ := windowWord_kind hin h3
  have hno : hubsHeld s.dev s.crew.ctx (readSrc (latchClk s [a, b]) b 0).toNat = false :=
    Bool.eq_false_iff.2 fun hh => by
      obtain ⟨e, hm, hs, hk⟩ := (hubsHeld_window hin h3).1 hh
      exact Bool.noConfusion ((he e hm hs).symm.trans hk)
  obtain ⟨v, hv, hset, hhubs, hm⟩ := ctlwr_puts h ht hr hc hno (ctxWrite_windowWord hin h3 (by simp) hb) rfl
    ((flushHubs_contexts ..).trans (by simp))
  have hleft := flushHubs_none_left (stow (latchClk s [a, b])).nfree (d := (stow (latchClk s [a, b])).dev)
    (slot := s.crew.ctx)
    (by simpa [keyWaits] using he)
  refine ⟨v, hv, hset, hhubs ▸ hleft, fun hidle p => byteAt_of_mem ?_ p⟩
  rw [hm, flushHubs_idle _ (by simpa using hidle)]
  simp

theorem ctlwr_watchRefused (hin : 0x610 ≤ n ∧ n < 0x620) (hb : ¬ watchKept s.dev s.crew.ctx n x) :
    exec (.sysCtlwr a b) s = .next (takeTrap (latchClk s [a, b]) 0x08 false) := by
  subst hn hx
  obtain ⟨-, hc, -⟩ := watchWord_kind hin
  refine ctlwr_refused h ht (ctlWrite_context_none hc ?_)
  rw [latchClk_crew, ctxWrite_watch hin, if_neg (mt (watchWordSound_iff_of_contexts (e := s.dev) (by simp) hin.1).1 hb)]

theorem ctlwr_watchSet (hin : 0x610 ≤ n ∧ n < 0x620) (hk : watchKept s.dev s.crew.ctx n x) :
    ∃ t, exec (.sysCtlwr a b) s = .next t ∧ SetsWord s t n x ∧ ∀ p, byteAt t.dev p = byteAt s.dev p := by
  subst hn hx
  obtain ⟨hr, hc, -⟩ := watchWord_kind hin
  have hw := ctxWrite_watch (s := stow (latchClk s [a, b])) (slot := s.crew.ctx) (x := readSrc (latchClk s [a, b]) a 0) hin
  rw [if_pos ((watchWordSound_iff_of_contexts (e := s.dev) (by simp) hin.1).2 hk)] at hw
  obtain ⟨v, hv, hset, -, hm⟩ := ctlwr_puts h ht hr hc (hubsHeld_outside (by omega)) hw rfl (by simp)
  exact ⟨v, hv, hset, fun p => byteAt_of_mem (hm.trans (by simp)) p⟩

end

theorem wordsChecked_holds : wordsChecked := by
  intro s a b h ht u n x gone refused sets
  refine ⟨fun hl hu h3 => ⟨ctlwr_windowRefused h ht rfl rfl ⟨hl, hu⟩ h3, fun hb he => ?_,
      ctlwr_windowSet h ht rfl rfl ⟨hl, hu⟩ h3⟩,
    fun hl hu => ⟨ctlwr_watchRefused h ht rfl rfl ⟨hl, hu⟩, ctlwr_watchSet h ht rfl rfl ⟨hl, hu⟩⟩, fun hn hf => ?_,
    fun hn => ⟨fun hb => ?_, fun hb => ?_⟩, fun hn => ctlwr_chsnap h ht hn⟩
  · rw [ctlwr_windowWaits h ht rfl rfl ⟨hl, hu⟩ h3 hb he, stall, latchClk_frag]
  · obtain ⟨t, hx, hctx, hcrews, hcrew⟩ := ctlwr_prejh h ht hn hf
    refine ⟨t, hx, fun k => slotWord_of_contexts hctx _ _, ?_, ?_⟩
    · rw [hcrews]
      exact List.map_congr_left fun c _ => askedFor_eq ..
    · rw [hcrew, askedFor_eq]
  · exact (ctlwr_chbsz h ht hn).trans (congrArg _ (if_pos ((chbszBad_iff s _).2 hb)))
  · exact (ctlwr_chbsz h ht hn).trans (congrArg _ (if_neg (mt (chbszBad_iff s _).1 hb)))

end Sys2Proof.Machine
end

section
/-! The rest of SYS: the park area, watchpoints, invalidations, HALT, and SYS outside trap mode (R72, R313, R339). -/

namespace Sys2Proof.Machine

/-! ### The park area (R339) -/

/-- Bytes of a number written into the park area. -/
theorem putPark_bytesLE (n : Nat) : ∀ (t : Tab Byte) (o x k : Nat), tabGet 0#8 (putPark t o (bytesLE n x)) k =
    if o ≤ k ∧ k < o + n then BitVec.ofNat 8 (x / 256 ^ (k - o)) else tabGet 0#8 t k := by
  induction n with
  | zero =>
    intro t o x k
    rw [if_neg (by omega)]
    rfl
  | succ n ih =>
    intro t o x k
    rw [bytesLE, putPark, ih, tabGet_tabSet]
    by_cases hk : k = o
    · rw [if_neg (by omega), if_pos hk, if_pos (by omega), hk, Nat.sub_self, Nat.pow_zero, Nat.div_one]
    · rw [if_neg hk]
      by_cases hin : o ≤ k ∧ k < o + (n + 1)
      · rw [if_pos hin, if_pos (by omega), Nat.div_div_eq_div_mul, ← Nat.pow_succ',
          show (k - (o + 1)).succ = k - o by omega]
      · rw [if_neg hin, if_neg (by omega)]

theorem parkOffset_misaligned {s : State} {o : Nat} (k : State → State) (h : o % 4 ≠ 0) :
    parkOffset s o k = takeTrap s 0x07 false := by
  simp [parkOffset, h]

theorem parkOffset_past {s : State} {o : Nat} (k : State → State) (h : o % 4 = 0) (hp : s.crew.parkSize ≤ o) :
    parkOffset s o k = takeTrap s 0x06 false := by
  simp [parkOffset, h, hp]

theorem parkOffset_within {s : State} {o : Nat} (k : State → State) (h : o % 4 = 0) (hp : o < s.crew.parkSize) :
    parkOffset s o k = k s := by
  simp [parkOffset, h, Nat.not_le.2 hp]

/-- What a handler's write leaves of an operation: only the body or the mark, and of one that owns no record nothing. -/
theorem handlerWrote_keeps (c : Crew) (p off : Nat) (x : Word) (o : Op) :
    (handlerWrote c p off x o).id = o.id ∧ (handlerWrote c p off x o).status = o.status ∧
      (o.recOff = none → (copyOf o).bind CopyOp.xoff = none → handlerWrote c p off x o = o) := by
  have hnone : o.recOff = none → (copyOf o).bind CopyOp.xoff = none →
      (o.recOff == some p || (copyOf o).bind CopyOp.xoff == some p) = false := by
    intro hr hx
    rw [hr, hx]
    rfl
  unfold handlerWrote
  split
  next hown =>
    refine ⟨?_, ?_, fun hr hx => absurd ((hnone hr hx).symm.trans hown) Bool.false_ne_true⟩
    all_goals
      split
      · dsimp only
        split <;> rfl
      · rfl
  next => exact ⟨rfl, rfl, fun _ _ => rfl⟩

theorem parkWrote_owned {c : Crew} {p : Nat} (h : recordOwned c p = true) (n off : Nat) (x : Word) :
    parkWrote n c p off x = { c with ops := c.ops.map (handlerWrote c p off x) } := by
  rw [parkWrote, if_pos h]

/-- The crew that PARKWR leaves. -/
def parkWritten (n : Nat) (c : Crew) (o : Nat) (x : Word) : Crew :=
  parkPut (match recordAt c o with
    | some p => parkWrote n c p o x
    | none => c) o (bytesLE 4 x.toNat)

theorem parkWritten_owned {c : Crew} {o : Nat} (h : ∀ p, recordAt c o = some p → recordOwned c p = true) (n : Nat)
    (x : Word) : (∀ k, parkByte (parkWritten n c o x) k =
        if o ≤ k ∧ k < o + 4 then BitVec.ofNat 8 (x.toNat / 256 ^ (k - o)) else parkByte c k) ∧
      (∀ p ∈ (parkWritten n c o x).ops, ∃ q ∈ c.ops, p.id = q.id ∧ p.status = q.status ∧
        (q.recOff = none → (copyOf q).bind CopyOp.xoff = none → p = q)) ∧
      { parkWritten n c o x with park := [], ops := [] } = { c with park := [], ops := [] } := by
  unfold parkWritten
  cases hr : recordAt c o with
  | none => exact ⟨putPark_bytesLE 4 c.park o x.toNat, fun p hp => ⟨p, hp, rfl, rfl, fun _ _ => rfl⟩, rfl⟩
  | some r =>
    dsimp only
    rw [parkWrote_owned (h r hr)]
    refine ⟨putPark_bytesLE 4 c.park o x.toNat, fun p hp => ?_, rfl⟩
    obtain ⟨q, hq, rfl⟩ := List.mem_map.1 hp
    exact ⟨q, hq, handlerWrote_keeps c r o x q⟩

section
variable {s : State} {a b : BitVec 8} (ht : s.frag.trapMode = true)
include ht

theorem parkrd_exec (h : Admitted (.sysParkrd a b) .control s) :
    exec (.sysParkrd a b) s = .next (parkOffset (latchClk s [b]) (readSrc (latchClk s [b]) b 0).toNat fun u =>
      advance (writeS u (a.toNat - 0x80) (BitVec.ofNat 32 (parkNat u.crew (readSrc (latchClk s [b]) b 0).toNat 4)))) := by
  have hx : exec (.sysParkrd a b) s = execSysParkrd a b s := rfl
  rw [hx, execSysParkrd, inTrapMode, if_pos ht, checked_admitted _ h, show uniformCodes (.sysParkrd a b) = [b] from rfl]

theorem parkwr_exec (h : Admitted (.sysParkwr a b) .control s) :
    exec (.sysParkwr a b) s = .next (parkOffset (latchClk s [a]) (readS s (b.toNat - 0x80)).toNat fun u =>
      advance { u with
        crew := parkWritten u.nfree u.crew (readS s (b.toNat - 0x80)).toNat (readSrc (latchClk s [a]) a 0) }) := by
  have hx : exec (.sysParkwr a b) s = execSysParkwr a b s := rfl
  rw [hx, execSysParkwr, inTrapMode, if_pos ht, checked_admitted _ h, show uniformCodes (.sysParkwr a b) = [a] from rfl]
  have hr : readS (latchClk s [a]) = readS s := by funext r; simp [readS]
  rw [hr]
  rfl

end

theorem parkAccess_holds : parkAccess := by
  intro s a b ht
  constructor
  · intro h
    have hx := parkrd_exec ht h
    dsimp only
    refine ⟨fun h4 => ?_, fun h4 hp => ?_, fun h4 hp => ?_⟩
    · rw [hx, parkOffset_misaligned _ h4]
    · rw [hx, parkOffset_past _ h4 (by rw [latchClk_crew]; exact hp)]
    · rw [parkOffset_within _ h4 (by rw [latchClk_crew]; exact hp), latchClk_crew] at hx
      exact ⟨_, hx, onlyScalars_latched s [b] _ _⟩
  · intro h
    have hx := parkwr_exec ht h
    dsimp only
    refine ⟨fun h4 => ?_, fun h4 hp => ?_, fun h4 hp hown => ?_⟩
    · rw [hx, parkOffset_misaligned _ h4]
    · rw [hx, parkOffset_past _ h4 (by rw [latchClk_crew]; exact hp)]
    · rw [parkOffset_within _ h4 (by rw [latchClk_crew]; exact hp), latchClk_crew] at hx
      exact ⟨_, hx, by simp [GoesOn], rfl, latchClk_dev s [a], parkWritten_owned hown _ _⟩

/-! ### WATCH, TLBINV and HALT (R313, R339) -/

theorem readS64_toNat (s : State) (r : Nat) :
    (readS64 s r).toNat = (readS s r).toNat + 2 ^ 32 * (readS s (r + 1)).toNat := by
  rw [readS64, BitVec.toNat_append, Nat.shiftLeft_eq, Nat.mul_comm, ← Nat.two_pow_add_eq_or_of_lt (readS s r).isLt]
  exact Nat.add_comm ..

theorem watchSound_iff (base size mode : Nat) :
    watchSound base size mode = true ↔ 2 ≤ size ∧ size ≤ 30 ∧ base % 2 ^ size = 0 ∧ mode < 16 := by
  simp only [watchSound, Bool.and_eq_true, decide_eq_true_eq, beq_iff_eq, and_assoc]

/-- The four words of a watchpoint set. -/
def watchSet (d : Dev) (clk slot n : Nat) (q : Nat → Word) : Dev :=
  putCtxWord (putCtxWord (putCtxWord (putCtxWord d clk slot (n + 0) (q 0)) clk slot (n + 1) (q 1)) clk slot (n + 2) (q 2))
    clk slot (n + 3) (q 3)

theorem slotWord_watchSet (d : Dev) (clk slot n : Nat) (q : Nat → Word) :
    (∀ k < 4, slotWord (watchSet d clk slot n q) slot (n + k) = q k) ∧
      ∀ k, k < n ∨ n + 4 ≤ k → slotWord (watchSet d clk slot n q) slot k = slotWord d slot k := by
  refine ⟨fun k hk => ?_, fun k hk => ?_⟩
  · interval_cases k <;> simp [watchSet, slotWord_putCtxWord]
  · simp only [watchSet, slotWord_putCtxWord, true_and]
    rw [if_neg (by omega), if_neg (by omega), if_neg (by omega), if_neg (by omega)]

section
variable {s : State} (ht : s.frag.trapMode = true)
include ht

theorem watch_exec {a : BitVec 8} {w : BitVec 2} (h : Admitted (.sysWatch w a) .control s) :
    exec (.sysWatch w a) s = .next (
      if watchSound (readS64 s (a.toNat - 0x80)).toNat (readS s (a.toNat - 0x80 + 2)).toNat
          (readS s (a.toNat - 0x80 + 3)).toNat then
        advance { s with
          dev := watchSet s.dev s.nfree s.crew.ctx (0x610 + 4 * w.toNat) fun k => readS s (a.toNat - 0x80 + k) }
      else takeTrap s 0x08 false) := by
  have hx : exec (.sysWatch w a) s = execSysWatch w a s := rfl
  rw [hx, execSysWatch, inTrapMode, if_pos ht, checked_admitted _ h, show uniformCodes (.sysWatch w a) = [] from rfl,
    latchClk_nil, readS64_toNat]
  generalize a.toNat - 0x80 = r
  rfl

theorem halt_exec (h : Admitted .sysHalt .control s) : exec .sysHalt s =
    .next { s with crew := { s.crew with contained := some (s.frag.ecause.toNat % 256) } } := by
  have hx : exec .sysHalt s = execSysHalt s := rfl
  rw [hx, execSysHalt, inTrapMode, if_pos ht, checked_admitted _ h, show uniformCodes .sysHalt = [] from rfl, latchClk_nil]

end

theorem focusOn_invals (s : State) (r : FragRef) : (focusOn s r).dev.invals = s.dev.invals := by
  fun_cases focusOn <;> rfl

theorem focusOn_tlb (s : State) (r : FragRef) : (focusOn s r).dev.tlb = s.dev.tlb := by
  fun_cases focusOn <;> rfl

/-- The state in which TLBINV has begun its invalidation, the fragment in focus again. -/
def invalBegun (s : State) (lo len : Nat) : State :=
  focusOn { stow s with dev := startInval (stow s).dev (.tlbinv (selfRef s)) s.crew.ctag lo len } (selfRef s)

section
variable {s : State} {a : BitVec 8} (h : Admitted (.sysTlbinv a) .control s) (ht : s.frag.trapMode = true)
include h ht

theorem tlbinv_released (hr : s.frag.resume = .released) : exec (.sysTlbinv a) s = .next (advance s) := by
  have hx : exec (.sysTlbinv a) s = execSysTlbinv a s := rfl
  rw [hx, execSysTlbinv, inTrapMode, if_pos ht, checked_admitted _ h, show uniformCodes (.sysTlbinv a) = [] from rfl,
    latchClk_nil, if_pos (by rw [hr]; rfl)]

theorem tlbinv_fresh (hr : s.frag.resume ≠ .released) : exec (.sysTlbinv a) s = .next (
    if 12 ≤ (readS s (a.toNat - 0x80 + 2)).toNat ∧ (readS s (a.toNat - 0x80 + 2)).toNat ≤ 57 ∧
        readS s (a.toNat - 0x80 + 3) = 0#32 then
      block (invalBegun s ((readS64 s (a.toNat - 0x80)).toNat % 2 ^ 57) (2 ^ (readS s (a.toNat - 0x80 + 2)).toNat))
        (.tlbinv s.dev.nextInv)
    else takeTrap s 0x08 false) := by
  have hx : exec (.sysTlbinv a) s = execSysTlbinv a s := rfl
  rw [hx, execSysTlbinv, inTrapMode, if_pos ht, checked_admitted _ h, show uniformCodes (.sysTlbinv a) = [] from rfl,
    latchClk_nil, if_neg (by simpa using hr)]
  generalize a.toNat - 0x80 = r
  rw [← stow_dev_nextInv s]
  have hbad : (decide ((readS s (r + 2)).toNat < 12) || decide (57 < (readS s (r + 2)).toNat) ||
      readS s (r + 3) != 0#32) = true ↔
      ¬ (12 ≤ (readS s (r + 2)).toNat ∧ (readS s (r + 2)).toNat ≤ 57 ∧ readS s (r + 3) = 0#32) := by
    simp only [Bool.or_eq_true, decide_eq_true_eq, bne_iff_ne, not_and_or, Nat.not_le, or_assoc, ne_eq]
  split
  next hgood =>
    rw [if_neg fun hb => hbad.1 hb hgood]
    rfl
  next hb => rw [if_pos (hbad.2 hb)]

end

/-- What an invalidation removes, and what waits for it. -/
theorem invalBegun_dev (s : State) (lo len : Nat) :
    (∃ i ∈ (invalBegun s lo len).dev.invals, i.id = s.dev.nextInv ∧ i.who = .tlbinv (selfRef s)) ∧
      (∀ e ∈ (invalBegun s lo len).dev.tlb, e ∈ s.dev.tlb ∧
        ¬ (e.tag = s.crew.ctag ∧ e.base < lo + len ∧ lo < e.base + 2 ^ e.size)) ∧
      ∀ p, byteAt (invalBegun s lo len).dev p = byteAt s.dev p := by
  unfold invalBegun
  rw [focusOn_invals, focusOn_tlb]
  refine ⟨⟨_, List.mem_append_right _ (List.mem_singleton_self _), ?_, rfl⟩, fun e he => ?_, fun p => ?_⟩
  · simp [dropRange]
  · obtain ⟨hm, hk⟩ := List.mem_filter.1 he
    rw [stow_dev_tlb] at hm
    refine ⟨hm, fun ⟨ht, hlo, hhi⟩ => ?_⟩
    simp [rangesMeet, ht, hlo, hhi] at hk
  · rw [byteAt_of_mem (focusOn_memory _ _)]
    exact stow_byteAt s p

theorem watchInvalidateHalt_holds : watchInvalidateHalt := by
  intro s a w ht
  refine ⟨fun h => ?_, fun h => ?_, fun h => halt_exec ht h⟩
  · have hx := watch_exec ht h
    obtain ⟨hset, hkeep⟩ := slotWord_watchSet s.dev s.nfree s.crew.ctx (0x610 + 4 * w.toNat)
      fun k => readS s (a.toNat - 0x80 + k)
    dsimp only
    refine ⟨fun hs => ?_, fun hs => ?_⟩
    · rw [if_pos ((watchSound_iff ..).2 hs)] at hx
      exact ⟨_, hx, rfl, rfl, rfl, hset, fun k hk => hkeep k (by omega), fun p => rfl⟩
    · rw [hx, if_neg (mt (watchSound_iff ..).1 hs)]
  · dsimp only
    refine ⟨tlbinv_released h ht, fun hr hb => ?_, fun hr hg => ?_⟩
    · rw [tlbinv_fresh h ht hr, if_neg hb]
    · have hx := tlbinv_fresh h ht hr
      rw [if_pos hg] at hx
      exact ⟨_, hx, rfl, invalBegun_dev s _ _⟩

/-! ### Outside trap mode (R72) -/

theorem inTrapMode_outside {s : State} (h : s.frag.trapMode = false) (o : Out) :
    inTrapMode s o = .next (takeTrap s 0x08 false) := by
  rw [inTrapMode, h, if_neg Bool.false_ne_true]

theorem sysOutside_holds : sysOutside := by
  intro s a b w ht i hi _
  simp only [List.mem_cons, List.not_mem_nil, or_false] at hi
  rcases hi with rfl | rfl | rfl | rfl | rfl | rfl | rfl
  all_goals exact inTrapMode_outside ht _

/-- Settles O44: the system instructions, in trap mode and outside it. -/
theorem systemInstructions : Obligations.SystemInstructions :=
  ⟨sysOutside_holds, wordsRead338_holds, wordsWritten338_holds, wordsChecked_holds, parkAccess_holds,
    watchInvalidateHalt_holds⟩

end Sys2Proof.Machine
end
